-- ==== Sys2Proof/Word.lean ====
section
/-!
DEFINITION. The word types of the Thirok 940 and their plainest arithmetic (R2, R7): scalars of 64 bits, lanes of
32 bits, vector registers of 2,048 bits (bit 32i + k is bit k of lane i, R261), and the helpers zext, sext, wrap,
sat_s and sat_u of R7.
-/
namespace Sys2Proof

/-- A scalar register, an address, a configuration register (64 bits). -/
abbrev Word := BitVec 64

/-- One byte of memory. -/
abbrev Byte := BitVec 8

/-- One lane of a vector register (R251). -/
abbrev Lane := BitVec 32

/-- A vector register as the 2,048-bit string of R261; also one entry of a data queue (Table 3-6). -/
abbrev VReg := BitVec 2048

/-- A scalar register number. -/
abbrev Reg := BitVec 5

/-- A vector register name v0 to v63. -/
abbrev VName := BitVec 6

/-- A predicate name field; p0 to p95 are names, 96 to 127 are illegal (R164). -/
abbrev PName := BitVec 7

/-- A guard alias field (R54). -/
abbrev Guard := BitVec 3

/-- `wrap(v, n)` of R7: v modulo 2^n, as n bits. -/
abbrev wrap (v : Int) (n : Nat) : BitVec n := BitVec.ofInt n v

/-- `sat_s(v, n)` of R7. -/
def satS (v : Int) (n : Nat) : BitVec n :=
  let hi : Int := 2 ^ (n - 1) - 1
  let lo : Int := -(2 ^ (n - 1))
  BitVec.ofInt n (if v > hi then hi else if v < lo then lo else v)

/-- `sat_u(v, n)` of R7. -/
def satU (v : Int) (n : Nat) : BitVec n :=
  let hi : Int := 2 ^ n - 1
  BitVec.ofInt n (if v > hi then hi else if v < 0 then 0 else v)

end Sys2Proof
end

