-- ==== Sys2Proof/Syntax.lean ====
section
/-!
DEFINITION. The steps of the Thirok 940: ONE inductive, one constructor per row of spec/opcode_table.json. The rows
with an encoding are the instructions of Tables 7-1 and 7-4; their operands are the fields of the encoding at the
field's own width, and where a literal word may replace a field (R153, R185) the operand is an inductive of the two
forms. The rows without an encoding are the events of spec/95_what_each_step_holds.md: steps an engine, the
scheduler, the fabric or the outside world takes; their operands say on what they act (assumption log 2).
-/
namespace Sys2Proof

/-- Operand B of SALU (R185): a register, or the literal with b = 0. -/
inductive SrcB where
  | reg (b : Reg)
  | lit (l : BitVec 32)
  deriving DecidableEq, Repr

/-- Operand B of SALUI (R185): imm9, or the literal with imm9 = 0. -/
inductive Imm9 where
  | imm (i : BitVec 9)
  | lit (l : BitVec 32)
  deriving DecidableEq, Repr

/-- The displacement of BR, JMP and BRC (R189, R191, R265): off11, or the literal with off11 = 0. -/
inductive Off11 where
  | off (o : BitVec 11)
  | lit (l : BitVec 32)
  deriving DecidableEq, Repr

/-- The offset of LDST (R213): imm10, or the literal with imm10 = 0. -/
inductive Off10 where
  | imm (i : BitVec 10)
  | lit (l : BitVec 32)
  deriving DecidableEq, Repr

/-- A literal that may be absent (R219, R169). -/
abbrev OptLit := Option (BitVec 32)

/-- The source of NSET (R279): a register, or the literal with a = 0. -/
inductive NSrc where
  | reg (a : Reg)
  | lit (l : BitVec 32)
  deriving DecidableEq, Repr

/-- The three units of a core that run job cards (R151). -/
inductive JobUnit where
  | mul
  | port
  | copy
  deriving DecidableEq, Repr

/-- A fill source waiting at a tile port (R56): the running DRAIN, the running copy job whose destination is a tile,
or the k-th waiting delivery from another strand or from a mailbox. -/
inductive FillPort where
  | drain
  | copy
  | remote (k : Nat)
  deriving DecidableEq, Repr

/-- Who writes a register of a die control window (R440, R441): scheduler firmware, the host port of die 0, the host
port of die 4, the management port. -/
inductive Master where
  | firmware
  | host0
  | host4
  | mgmt
  deriving DecidableEq, Repr

/-- An instance ring that a graph declares (R311, R313): the graph's descriptor, CAP, SCOPE and the argument word that
receives the handle. The descriptor has no field for it, so the loader hands it over beside the graph. -/
structure GraphRing where
  desc : Word
  cap : BitVec 32
  scope : BitVec 3
  arg : BitVec 8
  deriving DecidableEq, Repr

/-- What the supervisor gives when it creates a tent (R183, R379): the `.tent` section's values with the tent number,
the ASID and the home die the supervisor chose, the persistent regions as
(die, bytes) and the ring declarations of its graphs. -/
structure TentSpec where
  tid : Nat
  asid : Nat
  ceiling : BitVec 4
  home : Nat
  qstk : BitVec 32
  qlp : BitVec 32
  unsigned : Bool
  persist : List (Nat × Nat)
  graphRings : List GraphRing
  deriving DecidableEq, Repr

/-- What the supervisor gives when it registers a launch ring or a mailbox (R304, R316): for a launch ring the queue
`q` of tent `tid`; for a mailbox the consumer `tid` and the producer `producer`; `rcb` and `buf` are the TV addresses
of the control block and of the buffer in the tent. -/
structure RingSpec where
  mailbox : Bool
  tid : Nat
  q : Nat
  producer : BitVec 8
  cap : BitVec 32
  scope : BitVec 3
  notify : BitVec 2
  notifyQ : BitVec 3
  rcb : Word
  buf : Word
  deriving DecidableEq, Repr

/-- What a grant names (R149). -/
structure GrantSpec where
  stag : BitVec 16
  six : BitVec 3
  obj : BitVec 4
  lo : Nat
  hi : Nat
  right : BitVec 2
  tid : Nat
  deriving DecidableEq, Repr

/-- The steps of the machine, one constructor per row of the opcode table. -/
inductive Instr where
  /-- R155: 16-bit form that adds a sign-extended 6-bit immediate to register d -/
  | caddi (f : BitVec 6) (d : Reg)
  /-- R155: 16-bit form that loads a sign-extended 6-bit immediate into d -/
  | cli (f : BitVec 6) (d : Reg)
  /-- R155: 16-bit form that shifts d left by an immediate -/
  | cshli (f : BitVec 6) (d : Reg)
  /-- R155: 16-bit form that shifts d right logically by an immediate -/
  | cshri (f : BitVec 6) (d : Reg)
  /-- R155: 16-bit form that shifts d right arithmetically by an immediate -/
  | csrai (f : BitVec 6) (d : Reg)
  /-- R155: 16-bit form that ANDs d with a sign-extended immediate -/
  | candi (f : BitVec 6) (d : Reg)
  /-- R155: 16-bit form that copies register a into d -/
  | cmov (a d : Reg)
  /-- R155: 16-bit form that adds register a into d -/
  | cadd (a d : Reg)
  /-- R155: 16-bit no-operation, equivalent to ADD s0, s0, s0 -/
  | cnop
  /-- R155: 16-bit form of QPUSH of register a into a queue -/
  | cqpush (a : Reg) (q : BitVec 5)
  /-- R155: 16-bit form of QPOP from a queue into d -/
  | cqpop (d : Reg) (q : BitVec 5)
  /-- R155: 16-bit form of BQPUSH of one outcome bit from register a -/
  | cbqpush (a : Reg) (q : BitVec 5)
  /-- R155: 16-bit form of RET -/
  | cret
  /-- R186: Writes the 64-bit wrapped sum of two scalars -/
  | add (d a : Reg) (b : SrcB)
  /-- R186: Writes the 64-bit wrapped difference of two scalars -/
  | sub (d a : Reg) (b : SrcB)
  /-- R186: Writes the bitwise AND of two scalars -/
  | and (d a : Reg) (b : SrcB)
  /-- R186: Writes the bitwise OR of two scalars -/
  | or (d a : Reg) (b : SrcB)
  /-- R186: Writes the bitwise XOR of two scalars -/
  | xor (d a : Reg) (b : SrcB)
  /-- R186: Shifts a left by b[5:0] -/
  | shl (d a : Reg) (b : SrcB)
  /-- R186: Shifts a right logically by b[5:0] -/
  | shr (d a : Reg) (b : SrcB)
  /-- R186: Shifts a right arithmetically by b[5:0] -/
  | sra (d a : Reg) (b : SrcB)
  /-- R186: Writes the low 64 bits of the signed product -/
  | mul (d a : Reg) (b : SrcB)
  /-- R186: Writes the high 64 bits of the signed product -/
  | mulh (d a : Reg) (b : SrcB)
  /-- R186: Writes the high 64 bits of the unsigned product -/
  | mulhU (d a : Reg) (b : SrcB)
  /-- R186: Signed division truncating toward zero, never trapping -/
  | div (d a : Reg) (b : SrcB)
  /-- R186: Unsigned division, all ones on division by zero -/
  | divU (d a : Reg) (b : SrcB)
  /-- R186: Signed remainder with the sign of the dividend -/
  | rem (d a : Reg) (b : SrcB)
  /-- R186: Unsigned remainder, the dividend on division by zero -/
  | remU (d a : Reg) (b : SrcB)
  /-- R186: Writes the signed minimum -/
  | min (d a : Reg) (b : SrcB)
  /-- R186: Writes the unsigned minimum -/
  | minU (d a : Reg) (b : SrcB)
  /-- R186: Writes the signed maximum -/
  | max (d a : Reg) (b : SrcB)
  /-- R186: Writes the unsigned maximum -/
  | maxU (d a : Reg) (b : SrcB)
  /-- R186: Counts the leading zero bits of a -/
  | clz (d a : Reg)
  /-- R186: Counts the one bits of a -/
  | popc (d a : Reg)
  /-- R186: Reverses the 64 bits of a -/
  | brev (d a : Reg)
  /-- R187: Extracts an unsigned bitfield of a described by b -/
  | ext (d a : Reg) (b : SrcB)
  /-- R187: Extracts a sign-extended bitfield of a described by b -/
  | extS (d a : Reg) (b : SrcB)
  /-- R187: Inserts the low bits of a into a bitfield of d described by b -/
  | ins (d a : Reg) (b : SrcB)
  /-- R186: Adds the signed product of a and b into d, wrapping -/
  | madda (d a : Reg) (b : SrcB)
  /-- R185: SALUI form of ADD with a 9-bit immediate -/
  | addImm (d a : Reg) (i : Imm9)
  /-- R185: SALUI form of SUB with a 9-bit immediate -/
  | subImm (d a : Reg) (i : Imm9)
  /-- R185: SALUI form of AND with a 9-bit immediate -/
  | andImm (d a : Reg) (i : Imm9)
  /-- R185: SALUI form of OR with a 9-bit immediate -/
  | orImm (d a : Reg) (i : Imm9)
  /-- R185: SALUI form of XOR with a 9-bit immediate -/
  | xorImm (d a : Reg) (i : Imm9)
  /-- R185: SALUI form of SHL with an immediate shift -/
  | shlImm (d a : Reg) (i : Imm9)
  /-- R185: SALUI form of SHR with an immediate shift -/
  | shrImm (d a : Reg) (i : Imm9)
  /-- R185: SALUI form of SRA with an immediate shift -/
  | sraImm (d a : Reg) (i : Imm9)
  /-- R185: SALUI form of MUL -/
  | mulImm (d a : Reg) (i : Imm9)
  /-- R185: SALUI form of MULH -/
  | mulhImm (d a : Reg) (i : Imm9)
  /-- R185: SALUI form of MULH.U -/
  | mulhUImm (d a : Reg) (i : Imm9)
  /-- R185: SALUI form of DIV -/
  | divImm (d a : Reg) (i : Imm9)
  /-- R185: SALUI form of DIV.U -/
  | divUImm (d a : Reg) (i : Imm9)
  /-- R185: SALUI form of REM -/
  | remImm (d a : Reg) (i : Imm9)
  /-- R185: SALUI form of REM.U -/
  | remUImm (d a : Reg) (i : Imm9)
  /-- R185: SALUI form of MIN -/
  | minImm (d a : Reg) (i : Imm9)
  /-- R185: SALUI form of MIN.U -/
  | minUImm (d a : Reg) (i : Imm9)
  /-- R185: SALUI form of MAX -/
  | maxImm (d a : Reg) (i : Imm9)
  /-- R185: SALUI form of MAX.U -/
  | maxUImm (d a : Reg) (i : Imm9)
  /-- R188: Loads a sign-extended 19-bit immediate into d -/
  | li (d : Reg) (i : BitVec 19)
  /-- R188: Loads a sign-extended 32-bit literal into d -/
  | liw (d : Reg) (l : BitVec 32)
  /-- R188: Places a 32-bit literal in the high half of d, keeping its low half -/
  | liwH (d : Reg) (l : BitVec 32)
  /-- R189: Branches when s[a] equals s[b] -/
  | cbEq (a b : Reg) (o : Off11)
  /-- R189: Branches when s[a] differs from s[b] -/
  | cbNe (a b : Reg) (o : Off11)
  /-- R189: Branches when s[a] is signed-less than s[b] -/
  | cbLt (a b : Reg) (o : Off11)
  /-- R189: Branches when s[a] is signed-greater or equal to s[b] -/
  | cbGe (a b : Reg) (o : Off11)
  /-- R189: Branches when s[a] is unsigned-less than s[b] -/
  | cbLtU (a b : Reg) (o : Off11)
  /-- R189: Branches when s[a] is unsigned-greater or equal to s[b] -/
  | cbGeU (a b : Reg) (o : Off11)
  /-- R189: Branches unconditionally to H plus the offset -/
  | b (o : Off11)
  /-- R190: Pops the stream's own branch-outcome queue and branches when the bit equals the polarity -/
  | bqb (p : BitVec 1) (o : Off11)
  /-- R191: Pushes a return entry, spilling if needed, and transfers to H plus the offset -/
  | call (o : Off11)
  /-- R191: Pops the newest return entry, filling from the spill area if needed, or ends the stream -/
  | ret
  /-- R191: Transfers to s[a] plus the offset, to a block with EP set -/
  | jmpr (a : Reg) (o : Off11)
  /-- R191: Pushes a return entry and transfers to s[a] -/
  | callr (a : Reg)
  /-- R194: Pushes s[d] into a queue, stalling while it is full -/
  | qpush (q : BitVec 5) (d : Reg)
  /-- R194: Pops the head of a queue into s[d], stalling while it is empty -/
  | qpop (q : BitVec 5) (d : Reg)
  /-- R196: Removes s[b] entries of a queue one at a time as they arrive -/
  | qdrop (q : BitVec 5) (b : Reg)
  /-- R196: Removes N + 1 entries of a queue one at a time as they arrive -/
  | qdropN (q : BitVec 5) (n : BitVec 6)
  /-- R195: Appends one outcome bit, nonzero-ness of s[d], to another stream's branch-outcome queue -/
  | bqpush (q : BitVec 5) (d : Reg)
  /-- R198: Stalls the stream until every selected outstanding-operation counter is at or below its field -/
  | wait (l s c t : BitVec 4)
  /-- R199: Issues nothing for n resident cycles while in-flight atomic and ring requests yield -/
  | pause (n : BitVec 12)
  /-- R200: Reads a configuration register into s[d] -/
  | cfgr (d : Reg) (r : BitVec 14)
  /-- R200: Writes s[a] into a configuration register under each field's access code -/
  | cfgw (a : Reg) (r : BitVec 14)
  /-- R203: Reads capability entry s[a] into s[d] -/
  | capr (d a : Reg)
  /-- R204: Raises a breakpoint carrying a 16-bit code and freezes the strand -/
  | trap (c : BitVec 16)
  /-- R206: Returns from a user-level interrupt handler, restoring the main bank and block state -/
  | uiret
  /-- R205: Sets the MASK bit of cfg.uistat -/
  | uimask (v : BitVec 1)
  /-- R207: Enqueues a graph instance on the tent's device launch queue and returns a handle -/
  | launch (d a b : Reg)
  /-- R214: Loads 8 to 64 bits at s[a] plus an offset into s[d] -/
  | ld (x : BitVec 1) (z : BitVec 2) (a d : Reg) (o : Off10)
  /-- R214: Stores 8 to 64 bits of s[d] at s[a] plus an offset -/
  | st (z : BitVec 2) (a d : Reg) (o : Off10)
  /-- R213: Loads at s[a] plus a scaled index register -/
  | ldIndexed (c : BitVec 2) (x : BitVec 1) (z : BitVec 2) (b a d : Reg)
  /-- R213: Stores at s[a] plus a scaled index register -/
  | stIndexed (c z : BitVec 2) (b a d : Reg)
  /-- R217: Starts an affine stream that loads whole vector entries into dqa0 or dqa1 -/
  | ldq (x : BitVec 1) (z : BitVec 2) (b a : Reg) (q : BitVec 5)
  /-- R217: Starts an affine stream that stores entries popped from dqx0 or dqx1 -/
  | stq (z : BitVec 2) (b a : Reg) (q : BitVec 5)
  /-- R219: Acquire load at a scope -/
  | lda (s : BitVec 3) (z : BitVec 2) (a d : Reg) (l : OptLit)
  /-- R219: Release store at a scope -/
  | strel (s : BitVec 3) (z : BitVec 2) (a d : Reg) (l : OptLit)
  /-- R220: Fence at a scope, waiting for every earlier access to be performed -/
  | fence (s : BitVec 3)
  /-- R221: Prefetch hint with no architectural effect -/
  | pref (a : Reg) (l : OptLit)
  /-- R223: Atomic add to a granary word that returns nothing -/
  | gadd (s : BitVec 3) (o : BitVec 2) (z : BitVec 1) (b a : Reg)
  /-- R223: Atomic swap of a 32- or 64-bit granary word -/
  | gswap (s : BitVec 3) (o : BitVec 2) (z : BitVec 1) (b a d : Reg)
  /-- R223: Atomic compare-and-swap of a granary word -/
  | gcas (s : BitVec 3) (o : BitVec 2) (z : BitVec 1) (b a d : Reg)
  /-- R223: Atomic fetch-and-add of a granary word -/
  | gfadd (s : BitVec 3) (o : BitVec 2) (z : BitVec 1) (b a d : Reg)
  /-- R224: Bounded fetch-and-add of a 32-bit word that refuses past the bound -/
  | gbfadd (s : BitVec 3) (o : BitVec 2) (b a d : Reg)
  /-- R225: Increment that wraps to zero at a bound -/
  | gincw (s : BitVec 3) (o : BitVec 2) (z : BitVec 1) (b a d : Reg)
  /-- R223: Atomic signed minimum -/
  | gmin (s : BitVec 3) (o : BitVec 2) (z : BitVec 1) (b a d : Reg)
  /-- R223: Atomic signed maximum -/
  | gmax (s : BitVec 3) (o : BitVec 2) (z : BitVec 1) (b a d : Reg)
  /-- R223: Atomic AND -/
  | gand (s : BitVec 3) (o : BitVec 2) (z : BitVec 1) (b a d : Reg)
  /-- R223: Atomic OR -/
  | gor (s : BitVec 3) (o : BitVec 2) (z : BitVec 1) (b a d : Reg)
  /-- R227: Atomic swap of a 128-bit granary object using register pairs -/
  | gswapQ (s : BitVec 3) (o : BitVec 2) (b a d : Reg)
  /-- R227: 128-bit compare-and-swap using register pairs -/
  | gcasQ (s : BitVec 3) (o : BitVec 2) (b a d : Reg)
  /-- R227: 128-bit atomic AND -/
  | gandQ (s : BitVec 3) (o : BitVec 2) (b a d : Reg)
  /-- R227: 128-bit atomic OR -/
  | gorQ (s : BitVec 3) (o : BitVec 2) (b a d : Reg)
  /-- R230: Initialises a barrier object's count, EXP and mode, keeping PH and WAITERS -/
  | barinit (s : BitVec 3) (o : BitVec 2) (b a d : Reg)
  /-- R231: Arrives on a barrier object with a count, possibly completing the phase -/
  | bararr (s : BitVec 3) (o : BitVec 1) (b a d : Reg)
  /-- R232: Waits until the barrier's phase leaves P0 or the bound expires -/
  | barwait (s : BitVec 3) (b a d : Reg)
  /-- R233: Reads a barrier object's image without changing it -/
  | barqry (s : BitVec 3) (o : BitVec 2) (a d : Reg)
  /-- R239: Reserves room for one record in a ring and writes its header -/
  | rresv (d a b : Reg)
  /-- R240: Publishes the producer's oldest reservation -/
  | rpub (d a b : Reg)
  /-- R241: Writes and publishes one whole record, all or nothing -/
  | wenq (d a b : Reg)
  /-- R242: Removes the published record at HEAD, stepping over a skip -/
  | rpop (d a : Reg)
  /-- R242: Returns the payload address of the oldest published record or EMPTY -/
  | rpeek (d a : Reg)
  /-- R244: WENQ on a mailbox followed by notification of its consumer -/
  | msend (d a b : Reg)
  /-- R245: Writes 64 bits to every member of a multicast group and returns the unacknowledged bitmap -/
  | mstore (d a b : Reg)
  /-- R247: Requests a seal of the domain and returns the current RIN -/
  | seal (d : Reg)
  /-- R248: Forces a seal, waits for its commit and then performs one irrevocable store at once -/
  | sealw (z : BitVec 2) (b a d : Reg)
  /-- R249: Reads the RIN in access-stream program order -/
  | rinr (d : Reg)
  /-- R255: Lane-wise 32-bit wrapping add -/
  | vadd (g : Guard) (d a b : VName)
  /-- R255: Lane-wise wrapping subtract -/
  | vsub (g : Guard) (d a b : VName)
  /-- R255: Lane-wise low 32 bits of the signed product -/
  | vmul (g : Guard) (d a b : VName)
  /-- R255: Lane-wise signed minimum -/
  | vmin (g : Guard) (d a b : VName)
  /-- R255: Lane-wise signed maximum -/
  | vmax (g : Guard) (d a b : VName)
  /-- R255: Lane-wise AND -/
  | vand (g : Guard) (d a b : VName)
  /-- R255: Lane-wise OR -/
  | vor (g : Guard) (d a b : VName)
  /-- R255: Lane-wise XOR -/
  | vxor (g : Guard) (d a b : VName)
  /-- R255: Lane-wise high 32 bits of the signed product -/
  | vmulh (g : Guard) (d a b : VName)
  /-- R255: Lane-wise high 32 bits of the unsigned product -/
  | vmulhU (g : Guard) (d a b : VName)
  /-- R255: Lane-wise unsigned minimum -/
  | vminU (g : Guard) (d a b : VName)
  /-- R255: Lane-wise unsigned maximum -/
  | vmaxU (g : Guard) (d a b : VName)
  /-- R255: Lane-wise saturating signed add -/
  | vaddSat (g : Guard) (d a b : VName)
  /-- R255: Lane-wise saturating signed subtract -/
  | vsubSat (g : Guard) (d a b : VName)
  /-- R255: Lane-wise signed division that never traps -/
  | vdiv (g : Guard) (d a b : VName)
  /-- R255: Lane-wise unsigned division -/
  | vdivU (g : Guard) (d a b : VName)
  /-- R255: Lane-wise signed remainder -/
  | vrem (g : Guard) (d a b : VName)
  /-- R255: Lane-wise unsigned remainder -/
  | vremU (g : Guard) (d a b : VName)
  /-- R255: Lane-wise left shift -/
  | vshl (g : Guard) (d a b : VName)
  /-- R255: Lane-wise logical right shift -/
  | vshr (g : Guard) (d a b : VName)
  /-- R255: Lane-wise arithmetic right shift -/
  | vsra (g : Guard) (d a b : VName)
  /-- R255: Lane-wise absolute value, wrapping -/
  | vabs (g : Guard) (d a : VName)
  /-- R255: Lane-wise bitwise NOT -/
  | vnot (g : Guard) (d a : VName)
  /-- R255: Lane-wise leading-zero count -/
  | vclz (g : Guard) (d a : VName)
  /-- R255: Lane-wise population count -/
  | vpopc (g : Guard) (d a : VName)
  /-- R255: Lane-wise multiply-add into vd -/
  | vmadd (g : Guard) (d a b : VName)
  /-- R254: VADD with a sign-extended 16-bit immediate in every lane -/
  | vaddImm (g : Guard) (d a : VName) (i : BitVec 16)
  /-- R254: VSUB with an immediate -/
  | vsubImm (g : Guard) (d a : VName) (i : BitVec 16)
  /-- R254: VMUL with an immediate -/
  | vmulImm (g : Guard) (d a : VName) (i : BitVec 16)
  /-- R254: VMIN with an immediate -/
  | vminImm (g : Guard) (d a : VName) (i : BitVec 16)
  /-- R254: VMAX with an immediate -/
  | vmaxImm (g : Guard) (d a : VName) (i : BitVec 16)
  /-- R254: VAND with an immediate -/
  | vandImm (g : Guard) (d a : VName) (i : BitVec 16)
  /-- R254: VOR with an immediate -/
  | vorImm (g : Guard) (d a : VName) (i : BitVec 16)
  /-- R254: VXOR with an immediate -/
  | vxorImm (g : Guard) (d a : VName) (i : BitVec 16)
  /-- R254: VMULH with an immediate -/
  | vmulhImm (g : Guard) (d a : VName) (i : BitVec 16)
  /-- R254: VMULH.U with an immediate -/
  | vmulhUImm (g : Guard) (d a : VName) (i : BitVec 16)
  /-- R254: VMIN.U with an immediate -/
  | vminUImm (g : Guard) (d a : VName) (i : BitVec 16)
  /-- R254: VMAX.U with an immediate -/
  | vmaxUImm (g : Guard) (d a : VName) (i : BitVec 16)
  /-- R254: VADD.SAT with an immediate -/
  | vaddSatImm (g : Guard) (d a : VName) (i : BitVec 16)
  /-- R254: VSUB.SAT with an immediate -/
  | vsubSatImm (g : Guard) (d a : VName) (i : BitVec 16)
  /-- R254: VDIV with an immediate -/
  | vdivImm (g : Guard) (d a : VName) (i : BitVec 16)
  /-- R254: VDIV.U with an immediate -/
  | vdivUImm (g : Guard) (d a : VName) (i : BitVec 16)
  /-- R254: VREM with an immediate -/
  | vremImm (g : Guard) (d a : VName) (i : BitVec 16)
  /-- R254: VREM.U with an immediate -/
  | vremUImm (g : Guard) (d a : VName) (i : BitVec 16)
  /-- R254: VSHL with an immediate -/
  | vshlImm (g : Guard) (d a : VName) (i : BitVec 16)
  /-- R254: VSHR with an immediate -/
  | vshrImm (g : Guard) (d a : VName) (i : BitVec 16)
  /-- R254: VSRA with an immediate -/
  | vsraImm (g : Guard) (d a : VName) (i : BitVec 16)
  /-- R254: VMADD with an immediate -/
  | vmaddImm (g : Guard) (d a : VName) (i : BitVec 16)
  /-- R257: Lane-wise FP32 add under RNE -/
  | vfadd (g : Guard) (d a b : VName)
  /-- R257: Lane-wise FP32 subtract under RNE -/
  | vfsub (g : Guard) (d a b : VName)
  /-- R257: Lane-wise FP32 multiply under RNE -/
  | vfmul (g : Guard) (d a b : VName)
  /-- R257: Lane-wise FP32 minimum -/
  | vfmin (g : Guard) (d a b : VName)
  /-- R257: Lane-wise FP32 maximum -/
  | vfmax (g : Guard) (d a b : VName)
  /-- R257: Lane-wise fused a × b + vd with one rounding -/
  | vfma (g : Guard) (d a b : VName)
  /-- R257: Lane-wise fused a × b − vd -/
  | vfms (g : Guard) (d a b : VName)
  /-- R257: Lane-wise FP32 divide under RNE -/
  | vfdiv (g : Guard) (d a b : VName)
  /-- R256: VFADD under the rounding mode of the modifier -/
  | vfaddRm (rm : BitVec 2) (g : Guard) (d a b : VName)
  /-- R256: VFSUB under a named rounding mode -/
  | vfsubRm (rm : BitVec 2) (g : Guard) (d a b : VName)
  /-- R256: VFMUL under a named rounding mode -/
  | vfmulRm (rm : BitVec 2) (g : Guard) (d a b : VName)
  /-- R256: VFMIN in the modifier form -/
  | vfminRm (rm : BitVec 2) (g : Guard) (d a b : VName)
  /-- R256: VFMAX in the modifier form -/
  | vfmaxRm (rm : BitVec 2) (g : Guard) (d a b : VName)
  /-- R256: VFMA under a named rounding mode -/
  | vfmaRm (rm : BitVec 2) (g : Guard) (d a b : VName)
  /-- R256: VFMS under a named rounding mode -/
  | vfmsRm (rm : BitVec 2) (g : Guard) (d a b : VName)
  /-- R256: VFDIV under a named rounding mode -/
  | vfdivRm (rm : BitVec 2) (g : Guard) (d a b : VName)
  /-- R257: Lane-wise FP32 square root under RM -/
  | vfsqrt (rm : BitVec 2) (g : Guard) (d a : VName)
  /-- R124: Lane-wise correctly rounded reciprocal -/
  | vfrcp (g : Guard) (d a : VName)
  /-- R124: Lane-wise reciprocal square root -/
  | vfrsq (g : Guard) (d a : VName)
  /-- R124: Lane-wise base-2 exponential -/
  | vfexp2 (g : Guard) (d a : VName)
  /-- R124: Lane-wise base-2 logarithm -/
  | vflog2 (g : Guard) (d a : VName)
  /-- R257: Clears the sign bit of each lane -/
  | vfabs (g : Guard) (d a : VName)
  /-- R257: Inverts the sign bit of each lane -/
  | vfneg (g : Guard) (d a : VName)
  /-- R257: Lane-wise fused vd − a × b -/
  | vfnma (rm : BitVec 2) (g : Guard) (d a b : VName)
  /-- R256: VFADD with an FP32 immediate whose low 16 bits are zero -/
  | vfaddImm (rm : BitVec 2) (g : Guard) (d a : VName) (i : BitVec 16)
  /-- R256: VFSUB with an immediate -/
  | vfsubImm (rm : BitVec 2) (g : Guard) (d a : VName) (i : BitVec 16)
  /-- R256: VFMUL with an immediate -/
  | vfmulImm (rm : BitVec 2) (g : Guard) (d a : VName) (i : BitVec 16)
  /-- R256: VFMIN with an immediate -/
  | vfminImm (rm : BitVec 2) (g : Guard) (d a : VName) (i : BitVec 16)
  /-- R256: VFMAX with an immediate -/
  | vfmaxImm (rm : BitVec 2) (g : Guard) (d a : VName) (i : BitVec 16)
  /-- R256: VFMA with an immediate -/
  | vfmaImm (rm : BitVec 2) (g : Guard) (d a : VName) (i : BitVec 16)
  /-- R256: VFMS with an immediate -/
  | vfmsImm (rm : BitVec 2) (g : Guard) (d a : VName) (i : BitVec 16)
  /-- R256: VFDIV with an immediate -/
  | vfdivImm (rm : BitVec 2) (g : Guard) (d a : VName) (i : BitVec 16)
  /-- R256: VFNMA with an immediate -/
  | vfnmaImm (rm : BitVec 2) (g : Guard) (d a : VName) (i : BitVec 16)
  /-- R258: Adds the two FP16 or BF16 elements of each lane -/
  | vhadd (f : BitVec 4) (rm : BitVec 2) (sat : BitVec 1) (g : Guard) (d a b : VName)
  /-- R258: Subtracts half-width elements -/
  | vhsub (f : BitVec 4) (rm : BitVec 2) (sat : BitVec 1) (g : Guard) (d a b : VName)
  /-- R258: Multiplies half-width elements -/
  | vhmul (f : BitVec 4) (rm : BitVec 2) (sat : BitVec 1) (g : Guard) (d a b : VName)
  /-- R258: Half-width element minimum -/
  | vhmin (f : BitVec 4) (rm : BitVec 2) (sat : BitVec 1) (g : Guard) (d a b : VName)
  /-- R258: Half-width element maximum -/
  | vhmax (f : BitVec 4) (rm : BitVec 2) (sat : BitVec 1) (g : Guard) (d a b : VName)
  /-- R258: Half-width fused multiply-add into the destination elements -/
  | vhfma (f : BitVec 4) (rm : BitVec 2) (sat : BitVec 1) (g : Guard) (d a b : VName)
  /-- R260: Converts each lane from one format to another -/
  | vcvt (f f2 : BitVec 4) (rm : BitVec 2) (sat : BitVec 1) (g : Guard) (d a : VName)
  /-- R261: Converts 64 lanes and packs the results into part J of vd -/
  | vcvtPk (f f2 : BitVec 4) (rm : BitVec 2) (sat : BitVec 1) (j : BitVec 5) (d a : VName)
  /-- R261: Unpacks part J of va and converts each element -/
  | vcvtUpk (f f2 : BitVec 4) (rm : BitVec 2) (sat : BitVec 1) (j : BitVec 5) (d a : VName)
  /-- R262: Sets predicate bits where INT32 lanes are equal -/
  | vcmpEq (g : Guard) (p : PName) (a b : VName)
  /-- R262: Sets predicate bits where INT32 lanes differ -/
  | vcmpNe (g : Guard) (p : PName) (a b : VName)
  /-- R262: Signed INT32 less-than compare into a predicate -/
  | vcmpLt (g : Guard) (p : PName) (a b : VName)
  /-- R262: Signed INT32 less-or-equal compare into a predicate -/
  | vcmpLe (g : Guard) (p : PName) (a b : VName)
  /-- R262: Equality compare in a named format -/
  | vcmpEqFmt (f : BitVec 4) (hi : BitVec 1) (g : Guard) (p : PName) (a b : VName)
  /-- R262: Inequality compare in a named format -/
  | vcmpNeFmt (f : BitVec 4) (hi : BitVec 1) (g : Guard) (p : PName) (a b : VName)
  /-- R262: Less-than compare in a named format, NaN setting NV -/
  | vcmpLtFmt (f : BitVec 4) (hi : BitVec 1) (g : Guard) (p : PName) (a b : VName)
  /-- R262: Less-or-equal compare in a named format -/
  | vcmpLeFmt (f : BitVec 4) (hi : BitVec 1) (g : Guard) (p : PName) (a b : VName)
  /-- R262: Unsigned INT32 less-than compare -/
  | vcmpLtU (g : Guard) (p : PName) (a b : VName)
  /-- R262: Unsigned INT32 less-or-equal compare -/
  | vcmpLeU (g : Guard) (p : PName) (a b : VName)
  /-- R262: Sets bits where either float operand is NaN -/
  | vcmpUn (f : BitVec 4) (hi : BitVec 1) (g : Guard) (p : PName) (a b : VName)
  /-- R262: Sets bits where neither float operand is NaN -/
  | vcmpOrd (f : BitVec 4) (hi : BitVec 1) (g : Guard) (p : PName) (a b : VName)
  /-- R263: Copies va into the enabled lanes of vd -/
  | vmov (g : Guard) (d a : VName)
  /-- R263: Selects va or vb per lane by a named predicate -/
  | vsel (n : PName) (g : Guard) (d a b : VName)
  /-- R263: Permutes the lanes of va by indices in vb -/
  | vperm (g : Guard) (d a b : VName)
  /-- R263: Broadcasts lane n of va -/
  | vbcast (n : BitVec 6) (g : Guard) (d a : VName)
  /-- R263: Shifts lanes up by n, filling from vb -/
  | vshup (n : BitVec 6) (g : Guard) (d a b : VName)
  /-- R263: Shifts lanes down by n, filling from vb -/
  | vshdn (n : BitVec 6) (g : Guard) (d a b : VName)
  /-- R263: Writes base plus the lane number into each lane -/
  | vidx (i : BitVec 16) (g : Guard) (d : VName)
  /-- R264: Integer sum reduction of all lanes written to enabled lanes -/
  | vredadd (g : Guard) (d a b : VName)
  /-- R264: Signed minimum reduction -/
  | vredmin (g : Guard) (d a b : VName)
  /-- R264: Signed maximum reduction -/
  | vredmax (g : Guard) (d a b : VName)
  /-- R264: FP32 sum reduction with 64 ordered roundings -/
  | vfredadd (rm : BitVec 2) (g : Guard) (d a b : VName)
  /-- R264: FP32 minimum reduction -/
  | vfredmin (g : Guard) (d a b : VName)
  /-- R264: FP32 maximum reduction -/
  | vfredmax (g : Guard) (d a b : VName)
  /-- R263: Broadcasts the low 32 bits of an execute-stream scalar -/
  | vbcasts (g : Guard) (d : VName) (a : Reg)
  /-- R269: Pops a whole entry of dqa0 or dqa1 into the enabled lanes of vd -/
  | vpop (g : Guard) (d : VName) (q : BitVec 6)
  /-- R269: Pushes va, zero in disabled lanes, into dqx0 or dqx1 -/
  | vpush (g : Guard) (a : VName) (q : BitVec 6)
  /-- R271: Reads a row of a FULL tile into vd -/
  | trow (g : Guard) (d : VName) (a : Reg) (t : BitVec 4)
  /-- R271: Writes vd into a tile row, claiming the tile for X -/
  | twrow (g : Guard) (d : VName) (a : Reg) (t : BitVec 4)
  /-- R271: Sets a tile EMPTY -/
  | tempty (t : BitVec 4)
  /-- R271: Sets a tile FULL without writing -/
  | tfill (t : BitVec 4)
  /-- R271: Waits until a tile is FULL -/
  | twait (t : BitVec 4)
  /-- R266: Decrements a count register, rotates the bases and branches while nonzero -/
  | brc (a : Reg) (o : Off11)
  /-- R266: Pops bqx, rotates the bases and branches on a 1 -/
  | brcQ (o : Off11)
  /-- R267: Predicate AND -/
  | pand (d a b : PName)
  /-- R267: Predicate OR -/
  | por (d a b : PName)
  /-- R267: Predicate XOR -/
  | pxor (d a b : PName)
  /-- R267: Predicate NOT -/
  | pnot (d a : PName)
  /-- R267: Counts the set bits of pa AND pb into a scalar -/
  | pcnt (s : Reg) (a b : PName)
  /-- R267: Keeps only the lowest set bit of pa -/
  | pfirst (d a : PName)
  /-- R268: Binds a guard alias to a predicate name and polarity -/
  | gmap (p : PName) (n : BitVec 1) (g : Guard)
  /-- R274: Appends an entry per enabled lane to the glean queue, all or none -/
  | glean (tag : BitVec 16) (nv : BitVec 2) (g : Guard) (a : VName)
  /-- R275: Pops up to 64 glean entries into lanes and sets a predicate -/
  | gdrain (n : PName) (nv : BitVec 2) (m : BitVec 1) (d : VName)
  /-- R279: Writes one field of the job shadow table -/
  | nset (f : BitVec 8) (v : NSrc)
  /-- R284: Issues a thresher nest job with identity row order; f is FA, the A format, and g FB (as in mmag and mmags) -/
  | mma (u m : BitVec 1) (f g : BitVec 4) (d : Reg)
  /-- R284: Issues a thresher nest job with gathered A rows -/
  | mmag (u m : BitVec 1) (f g : BitVec 4) (d : Reg)
  /-- R284: Issues a gathered thresher job with scattered output rows -/
  | mmags (u m : BitVec 1) (f g : BitVec 4) (d : Reg)
  /-- R283: Issues a job converting between element and plane layout -/
  | plane (u r : BitVec 1) (g : BitVec 4) (d : Reg)
  /-- R288: Issues a scale-and-accumulate job for one partial buffer; f is FA, the row scale register, and g FB, the column scale -/
  | sacc (u m : BitVec 1) (f g : BitVec 4) (a d : Reg)
  /-- R287: Loads a scale register from 64 elements in LS or GR -/
  | kld (g : BitVec 4) (a : Reg) (k : BitVec 4)
  /-- R289: Issues a drain job from the granary to LS or a tile; f is FA, the output format, and g FB, the residual format -/
  | drain (u m : BitVec 1) (f g : BitVec 4) (d : Reg)
  /-- R291: Issues a job that zeroes a granary range -/
  | gclr (u : BitVec 1) (a d : Reg)
  /-- R292: Issues a copy job from the copy shadow fields -/
  | copyj (u : BitVec 1) (d : Reg)
  /-- R293: Waits until the retired prefix of a job class reaches a ticket -/
  | jobw (c : BitVec 1) (a d : Reg)
  /-- R296: Checks staged code and makes it an executable code object -/
  | publish (a d : Reg)
  /-- R161: Issues the next instruction count times with stepped register fields -/
  | rep (b a d : BitVec 3) (c : BitVec 6)
  /-- R169: Hint with an unimplemented number that writes zero to d -/
  | hint (h : BitVec 14) (a d : Reg) (l : OptLit)
  /-- R169: Hint 1 reports whether a block is resident in the loop buffer -/
  | hintLoopBufferResident (a d : Reg) (l : OptLit)
  /-- R169: Hint 2 reports free copy and thresher queue slots -/
  | hintFreeQueueSlots (a d : Reg) (l : OptLit)
  /-- R169: Hint 3 requests a pin of a block in the loop buffer -/
  | hintPinRequest (a d : Reg) (l : OptLit)
  /-- R157: Block header read at a block start, framing the body and its passes -/
  | blk (e : BitVec 1) (c : BitVec 2) (p : BitVec 1) (r : BitVec 6) (l : BitVec 12)
  /-- R22: A strand ends once all streams ended, its jobs retired and its accesses were performed -/
  | strandEnd
  /-- R72: The control stream takes a pending user-level interrupt at an admitting boundary -/
  | userInterruptTake
  /-- R199: The cycle count of a PAUSE runs out and the stream issues again -/
  | pauseExpiry
  /-- R74: A stall reaches the time-out, the hang record is written, the strand frozen and the hang trap raised -/
  | hangCapture
  /-- R217: An LDQ entry's elements are loaded and the entry is pushed when the queue has room -/
  | ldqEntryPush (k : Nat)
  /-- R217: An STQ entry popped from its queue is stored element by element -/
  | stqElementStore (k : Nat)
  /-- R232: A BARWAIT's bound expires and it returns ST 4 -/
  | barwaitBoundExpiry
  /-- R151: The oldest unhanded card goes to its unit once the unit is free and dependences clear -/
  | jobHandoff (u : JobUnit)
  /-- R138: A thresher body emits its block to a partial buffer or the granary once the buffer is EMPTY -/
  | blockEmit
  /-- R144: An SACC starts reading its pair's buffer once it is FULL and scales it into the accumulator -/
  | saccBufferRead
  /-- R56: A fill source waiting at a tile port claims the tile once it is EMPTY -/
  | tilePortClaim (u : FillPort)
  /-- R150: After all its bytes are performed a copy job arrives on its barrier object -/
  | copyBarrierArrival (k : Nat)
  /-- R152: A job retires in order, raising its flags, counters and any user-level interrupt -/
  | jobRetire (u : JobUnit)
  /-- R294: A running job meets a footprint, poison or remote-timeout fault and is held with later cards -/
  | jobRunningFault (u : JobUnit) (c : BitVec 8) (addr : Word)
  /-- R370: A request without reply after T cycles times out, its tag advances and the requester faults -/
  | remoteTimeout (die tag : Nat)
  /-- R338: A waiting fault record is published into the die's trap ring when it has room -/
  | faultRecordPublish
  /-- R344: The scheduler stops, drains, checkpoints and saves every strand of a unit -/
  | preemption (lvl : Nat)
  /-- R339: RESUME written to cfg.sresume unfreezes a frozen strand -/
  | sresumeResume (stag : BitVec 16) (six : BitVec 3)
  /-- R339: END written to cfg.sresume ends the frozen strand's task with status 10 -/
  | sresumeEnd (stag : BitVec 16) (six : BitVec 3)
  /-- R348: cfg.ctxop save writes a strand's context image -/
  | contextSave (core : Nat) (w : Word)
  /-- R349: cfg.ctxop restore checks a whole image and then loads it onto an empty core -/
  | contextRestore (core : Nat) (w : Word)
  /-- R351: A write of cfg.xtctl ADDR verifies and loads a signed expansion table -/
  | expansionTableLoad (die : Nat) (w : Word)
  /-- R351: Each core switches to the new table at a boundary of its choosing -/
  | expansionTableSwitch (core : Nat)
  /-- R5: A write to a register without behaviour of its own applies each field under its access code -/
  | registerWrite (m : Master) (die : Nat) (off : BitVec 16) (w : Word)
  /-- R361: A write of XSHOOT starts a TLB shootdown over the chosen dies -/
  | xshoot (m : Master) (die : Nat) (w : Word)
  /-- R362: Once entries are dropped and their accesses performed BUSY falls and DONE advances -/
  | shootdownComplete (die : Nat)
  /-- R364: Level-10 firmware moves a page to another die and repoints its leaf -/
  | migration (asid : Nat) (va : Word) (toDie : Nat) (frame : Word)
  /-- R363: Every 2^24 cycles all migration counters of a die are halved -/
  | migrationCountHalving (die : Nat)
  /-- R366: A request flit arrives at its destination and is accepted and performed, or refused -/
  | remoteRequest (die tag : Nat)
  /-- R366: A twice-refused slot returns to its source, which backs off -/
  | refusalNotice (die tag : Nat)
  /-- R366: A source's refusal back-off ends and it sends again -/
  | backoffExpiry (die dst : Nat)
  /-- R372: A reply reaches its requester and is used or dropped as stale -/
  | reply (die tag : Nat)
  /-- R368: The remote line cache evicts a line, writing back its dirty bytes -/
  | lineEviction (die line : Nat)
  /-- R374: A member station performs a multicast write and acknowledges or forwards it -/
  | multicastMemberWrite (die tag i : Nat)
  /-- R374: The merged acknowledgement bitmap reaches the MSTORE's source -/
  | multicastReply (die tag : Nat)
  /-- R375: A rack-ring receiver authenticates and accepts or discards a data flit -/
  | dataFlit (link : Nat) (ok : Bool)
  /-- R376: The receiver accepts a marker and changes its expected key slot -/
  | marker (link : Nat) (ok : Bool)
  /-- R377: A cumulative acknowledgement frees flits from the sender's retry buffer -/
  | acknowledgement (link upTo : Nat)
  /-- R377: The sender resends the failed flit and all later ones from its retry buffer -/
  | negativeAcknowledgement (link seq : Nat)
  /-- R376: A slot counter reaching 2^40 − 2^20 requests a key rotation and new keys are installed -/
  | rotationRequest (link : Nat)
  /-- R391: A dispatcher test-and-clears a pending-kick bit and reads the launch queue until empty -/
  | kickclr (die slot : Nat)
  /-- R308: A node starts once its level is entered, its predecessors ended and its guards checked -/
  | nodestart (inst node : Nat)
  /-- R309: After the previous pass ends a loop node rereads its word and runs or ends -/
  | loopPass (inst node : Nat)
  /-- R310: An event or waiting mailbox-send node is tested when ready and at each kick -/
  | eventNodeTest (inst node : Nat)
  /-- R302: A node ends, releasing successors and checking replay guards -/
  | nodeend (inst node : Nat)
  /-- R382: A dispatcher processes a sheaf completion from its holding FIFO -/
  | complete (die slot : Nat)
  /-- R388: A dispatcher takes a ready unit by bank sampling and places it -/
  | dispatch (die slot : Nat)
  /-- R381: When the journal passes half full the dispatcher writes a snapshot -/
  | snap (die slot : Nat)
  /-- R384: An uncorrectable error halts an active dispatcher and the standby takes over the slot -/
  | dispatcherFailure (die slot : Nat)
  /-- R305: A launch-doorbell GO write publishes a launch record into a tent's launch ring -/
  | hlctlGo (m : Master) (die : Nat) (w : Word)
  /-- R396: A stop reaching a gang die halts its work entries for the instance -/
  | replayStop (inst die : Nat)
  /-- R396: Once stops are acknowledged and started tasks ended the dynamic scheduler takes the rest -/
  | replayHandover (inst : Nat)
  /-- R401: A predicted launch starts speculatively on idle cores into the bivouac -/
  | speculationStart (tid : Nat) (q : Nat) (die : Nat)
  /-- R403: A passing claim commits the bivouac lines and ends the real kernel node -/
  | claim (tid q : Nat)
  /-- R404: Writing FLUSH discards every speculation of the die -/
  | predctlFlush (m : Master) (die : Nat)
  /-- R405: Scheduler firmware creates a grant at the supervisor's request -/
  | grantCreate (die idx : Nat) (g : GrantSpec)
  /-- R319: After an MSEND publication the NTF target is read and notified -/
  | mailboxNotify (k : Nat)
  /-- R413: Writing SREQ of RICTL requests a seal -/
  | sreq (m : Master) (die : Nat)
  /-- R414: The seal master starts a seal and every die stops new dispatch -/
  | barrier
  /-- R414: At the barrier limit every sheaf still running is pre-empted at level 11 -/
  | preempt
  /-- R414: Each die performs stores in flight, writes back caches and checkpoints persistent regions -/
  | flush
  /-- R414: A die's vote reaches the seal master -/
  | vote (die : Nat)
  /-- R414: With all votes in the master commits the seal and sends RIN + 1 -/
  | commit
  /-- R414: Each die releases its egress buffer, frees undo entries and resumes dispatch -/
  | release
  /-- R409: The scrubber rewrites line tags lagging 64 or more intervals -/
  | metadataScrub (die line : Nat)
  /-- R420: A patrol scrub finding an uncorrectable error marks the line poisoned -/
  | patrolScrub (die line : Nat)
  /-- R421: A rollback starts and the master takes every die through its phases -/
  | rbreq (m : Master) (die : Nat)
  /-- R427: An ERRINJ GO write poisons the line at PADDR -/
  | errinj (m : Master) (die : Nat) (w : Word)
  /-- R436: At power-up the boot core of each die runs the boot steps -/
  | powerUp
  /-- R441: A claim makes the master owner when no master owns the windows -/
  | ownctlClaim (m : Master)
  /-- R441: The owner releases the windows to a named successor -/
  | ownctlRelease (m : Master) (succ : BitVec 2)
  /-- R441: The owner reboots every die from step 1 -/
  | packageReset (m : Master)
  /-- R441: The owner writes 1 to a FRZ bit to thaw a master -/
  | frzThaw (m : Master) (bits : BitVec 3)
  /-- R438: A write of ATTCTL ADDR asks the boot core for a signed attestation report -/
  | attctl (m : Master) (w : Word)
  /-- R442: Writing SWTRIG fires the software lantern source -/
  | swtrig (m : Master)
  /-- R442: The external pin fires the lantern trigger source -/
  | externalPin
  /-- R444: A die above WARN throttles thresher and vector issue -/
  | thermalWarn (die : Nat) (temp : BitVec 8)
  /-- R444: A die at CRIT stops its cores and the domain enters FAIL -/
  | thermalCrit (die : Nat) (temp : BitVec 8)
  /-- R443: A host write into device memory is performed and logged -/
  | hostWrite (die : Nat) (pa : Word) (bytes : List Byte)
  /-- R443: A host snoop over CXL.cache is answered with a miss -/
  | hostSnoop (die : Nat) (pa : Word)
  /-- R170: A stream fetches an unallocated encoding, a reserved quadrant or a wrong-family instruction and raises fault 0x01 precisely -/
  | illegalEncoding
  /-- R420: A package-ring or rack-ring link goes down and the domain rolls back -/
  | packageRingLinkDown (link : Nat)
  /-- R444: The die temperature falls below WARN and throttling of thresher and vector issue ends, clearing THR -/
  | thermalRecovery (die : Nat) (temp : BitVec 8)
  /-- R395: A trace SIGNAL from another gang die reaches a die whose replay lane waits on that semaphore, letting the lane go on -/
  | traceSignal (inst die : Nat) (sem : BitVec 8)
  /-- R379: The supervisor creates a tent from its tent section, setting its home die, ceiling, quotas, UNSIGNED attribute and persistent regions -/
  | tentCreation (t : TentSpec)
  /-- R304: The supervisor registers a launch ring or mailbox, committing its whole buffer or failing on LIMIT -/
  | ringRegistration (r : RingSpec)
  /-- R405: At the supervisor's request a grant's entry generation advances so that every issued handle fails -/
  | grantRevocation (die idx : Nat)
  /-- R39: The supervisor lowers a tent's priority ceiling, and tasks above it are lowered from their next dispatch decision -/
  | ceilingLowering (tid : Nat) (c : BitVec 4)
  /-- R342: The supervisor changes a tent's quota LIMIT for a memory class, taking effect before a following RESUME completes -/
  | limitChange (tid : Nat) (cls : BitVec 1) (v : BitVec 32)
  deriving DecidableEq, Repr

end Sys2Proof
end

