-- ==== Sys2Proof/WellFormed.lean ====
section
/-!
DEFINITION. The checks an encoding must pass beside its fixed bits (R170): reserved format codes, scopes, queue
numbers, predicate names, register pairs, configuration register numbers and shadow field numbers.
-/
namespace Sys2Proof

/-- The classes of a format code (R108). -/
def isFormat (f : BitVec 4) : Bool := f != 7#4 && f != 15#4

/-- The formats a thresher or PLANE job may name (Table 5-1). -/
def isThresher (f : BitVec 4) : Bool := isFormat f && f != 6#4 && f != 14#4

/-- Bit 3 of a format code: a float format (R108). -/
def isFloat (f : BitVec 4) : Bool := f.getLsbD 3

/-- The container width of a format in bits (R259, Table 5-1). -/
def formatWidth (f : BitVec 4) : Nat :=
  match f.toNat with
  | 0 => 1
  | 1 => 2
  | 2 => 4
  | 3 | 4 => 8
  | 5 => 16
  | 6 => 32
  | 8 | 9 | 10 | 11 => 8
  | 12 | 13 => 16
  | 14 => 32
  | _ => 0

/-- A scope of Table 4-6. -/
def isScope (s : BitVec 3) : Bool := s.toNat ≤ 4

/-- Order and scope of an atomic (R222): a plain order requires scope 000. -/
def orderOk (s : BitVec 3) (o : BitVec 2) : Bool := isScope s && (o != 0#2 || s == 0#3)

/-- A queue number of R167. -/
def isQueue (q : BitVec 5) : Bool := q.toNat ≤ 12

/-- A predicate name (R164). -/
def isPred (p : PName) : Bool := p.toNat < 96

/-- The register of a pair of R227. -/
def isEven (r : Reg) : Bool := !r.getLsbD 0

/-- The user configuration registers of Table 8-4 and the system registers of Table 15-2. -/
def isCfg (r : BitVec 14) : Bool :=
  let n := r.toNat
  n ≤ 0x9 || (0x10 ≤ n && n ≤ 0x15) || (0x18 ≤ n && n ≤ 0x1A) || (0x20 ≤ n && n ≤ 0x24) ||
    n == 0x28 || n == 0x29 || n == 0x30 || n == 0x38 || (0x2000 ≤ n && n ≤ 0x2007)

/-- The width of a job shadow field (Table 11-3); 0 for a number the table does not list. -/
def fieldWidth (f : BitVec 8) : Nat :=
  match f.toNat with
  | 0x00 | 0x01 | 0x03 | 0x04 => 21
  | 0x02 => 19
  | 0x05 => 6
  | 0x06 | 0x07 => 16
  | 0x08 => 2
  | 0x09 => 1
  | 0x10 | 0x11 | 0x12 | 0x13 | 0x14 | 0x15 => 16
  | 0x20 | 0x21 | 0x22 | 0x23 | 0x24 | 0x25 | 0x30 | 0x31 | 0x32 | 0x33 | 0x34 | 0x35 => 32
  | 0x40 | 0x41 | 0x42 | 0x43 | 0x44 | 0x45 | 0x50 | 0x51 | 0x52 | 0x53 | 0x54 | 0x55 => 32
  | 0x60 | 0x61 | 0x62 | 0x63 | 0x68 | 0x69 => 64
  | 0x64 | 0x65 | 0x66 | 0x67 | 0x6A | 0x6B => 32
  | 0x80 | 0x81 => 64
  | 0x82 | 0x83 | 0x84 => 17
  | 0x85 | 0x86 | 0x87 | 0x88 => 32
  | 0x89 => 2
  | 0x8A | 0x8B => 64
  | 0x8C => 3
  | 0xA0 => 19
  | 0xA1 => 16
  | 0xA2 | 0xA4 => 21
  | 0xA3 | 0xA5 => 16
  | 0xA6 | 0xA7 | 0xA8 | 0xA9 | 0xAA | 0xAB | 0xAC => 32
  | 0xAD => 8
  | 0xB0 | 0xB2 => 21
  | 0xB1 | 0xB3 | 0xB4 => 16
  | _ => 0

/-- The formats of a compare (R262) with its element selector: IMM[0] serves FP16 and BF16 alone. -/
def cmpFormatOk (int : Bool) (f : BitVec 4) (hi : BitVec 1) : Bool :=
  (f == 12#4 || f == 13#4) || ((f == 14#4 || (int && f == 6#4)) && hi == 0#1)

/-- The formats of KLD (R287). -/
def kldFormat (f : BitVec 4) : Bool := f.toNat ≥ 8 && f != 15#4

/-- The pair of formats of an MMA form (R284) with its integer mode (Table 11-5). -/
def mmaOk (m : BitVec 1) (f g : BitVec 4) : Bool :=
  isThresher f && isThresher g && (isFloat f == isFloat g) && (!isFloat f || m == 0#1)

/-- The register names a vector operand range covers must not pass v63 (R273). -/
def namesFit (first : VName) (count : Nat) : Bool := first.toNat + count ≤ 64

/-- Whether an instruction's operands are ones its encoding admits. An event is well formed whatever its operands. -/
def wellFormed : Instr → Bool
  | .caddi _ d | .cli _ d | .cshli _ d | .cshri _ d | .csrai _ d | .candi _ d => d != 0#5
  | .cmov _ d | .cadd _ d => d != 0#5
  | .cqpush _ q | .cqpop _ q | .cbqpush _ q => isQueue q
  | .qpush q _ | .qpop q _ | .bqpush q _ => isQueue q
  | .qdrop q _ => isQueue q
  | .qdropN q _ => isQueue q
  | .cfgr _ r | .cfgw _ r => isCfg r
  | .ld x z _ _ _ => x == 0#1 || z != 3#2
  | .ldIndexed _ x z _ _ _ => x == 0#1 || z != 3#2
  | .ldq x z _ _ q => (x == 0#1 || z.toNat < 2) && q.toNat < 2
  | .stq _ _ _ q => q == 2#5 || q == 3#5
  | .lda s _ _ _ _ | .strel s _ _ _ _ => isScope s
  | .fence s => isScope s
  | .gadd s o _ _ _ => orderOk s o
  | .gswap s o _ _ _ _ | .gcas s o _ _ _ _ | .gfadd s o _ _ _ _ | .gincw s o _ _ _ _ => orderOk s o
  | .gmin s o _ _ _ _ | .gmax s o _ _ _ _ | .gand s o _ _ _ _ | .gor s o _ _ _ _ => orderOk s o
  | .gbfadd s o _ _ _ => orderOk s o
  | .gswapQ s o b _ d | .gandQ s o b _ d | .gorQ s o b _ d => orderOk s o && isEven b && isEven d
  | .gcasQ s o b _ d => orderOk s o && isEven b && isEven d && d != 0#5
  | .barinit s o _ _ d => orderOk s o && (o == 0#2 || o == 2#2) && isEven d && d != 0#5
  | .bararr s _ _ _ d | .barwait s _ _ d => isScope s && isEven d && d != 0#5
  | .barqry s o _ d => orderOk s o && (o == 0#2 || o == 1#2) && isEven d && d != 0#5
  | .vhadd f _ _ _ _ _ _ | .vhsub f _ _ _ _ _ _ | .vhmul f _ _ _ _ _ _ => f == 12#4 || f == 13#4
  | .vhmin f _ _ _ _ _ _ | .vhmax f _ _ _ _ _ _ | .vhfma f _ _ _ _ _ _ => f == 12#4 || f == 13#4
  | .vcvt f f2 _ _ _ _ _ => isFormat f && isFormat f2
  | .vcvtPk f f2 _ _ j _ _ => isFormat f && isFormat f2 && formatWidth f < 32 && j.toNat * formatWidth f < 32
  | .vcvtUpk f f2 _ _ j _ _ => isFormat f && isFormat f2 && formatWidth f2 < 32 && j.toNat * formatWidth f2 < 32
  | .vcmpEq _ p _ _ | .vcmpNe _ p _ _ | .vcmpLt _ p _ _ | .vcmpLe _ p _ _ => isPred p
  | .vcmpLtU _ p _ _ | .vcmpLeU _ p _ _ => isPred p
  | .vcmpEqFmt f hi _ p _ _ | .vcmpNeFmt f hi _ p _ _ => isPred p && cmpFormatOk true f hi
  | .vcmpLtFmt f hi _ p _ _ | .vcmpLeFmt f hi _ p _ _ => isPred p && cmpFormatOk true f hi
  | .vcmpUn f hi _ p _ _ | .vcmpOrd f hi _ p _ _ => isPred p && cmpFormatOk false f hi
  | .vsel n _ _ _ _ => isPred n
  | .vpop _ _ q => q == 0#6 || q == 1#6
  | .vpush _ _ q => q == 2#6 || q == 3#6
  | .brc a _ => a != 0#5
  | .pand d a b | .por d a b | .pxor d a b => isPred d && isPred a && isPred b
  | .pnot d a | .pfirst d a => isPred d && isPred a
  | .pcnt _ a b => isPred a && isPred b
  | .gmap p _ g => isPred p && g != 0#3
  | .glean _ nv _ a => namesFit a (nv.toNat + 1)
  | .gdrain n nv m d => isPred n && namesFit d (nv.toNat + 1 + m.toNat)
  | .nset f _ => fieldWidth f != 0
  | .mma _ m f g _ | .mmag _ m f g _ | .mmags _ m f g _ => mmaOk m f g
  | .plane _ _ g _ => isThresher g
  | .kld g _ _ => kldFormat g
  | .drain _ _ f g _ => isFormat f && isFormat g
  | .hint h _ _ _ => h != 1#14 && h != 2#14 && h != 3#14
  | .blk _ c _ _ l => c != 3#2 && l != 0#12 && !l.getLsbD 0
  | _ => true

end Sys2Proof
end

