-- ==== Sys2Proof/Decode.lean ====
section
/-!
DEFINITION. Instruction encoding (07): the frames of Table 7-3, the major opcodes of Table 7-4, the 16-bit forms of
Table 7-1 and the literal and modifier words, read (`decode`) and written (`encode`). Decoding is total and answers
`none` for every encoding the chapter does not allocate (R170).
-/
namespace Sys2Proof

/-- One instruction as it stands in the code: a halfword, a word, or a word with its literal (R153). -/
inductive Code where
  | half (h : BitVec 16)
  | word (w : BitVec 32)
  | wide (w l : BitVec 32)
  deriving DecidableEq, Repr

/-- The bytes an instruction occupies (R153). -/
def Code.bytes : Code → Nat
  | .half _ => 2
  | .word _ => 4
  | .wide _ _ => 8

/-- Bits [lo + n - 1 : lo] of a word. -/
abbrev bits {w : Nat} (x : BitVec w) (lo n : Nat) : BitVec n := x.extractLsb' lo n

/-- The major opcode of a 32-bit instruction (R153). -/
def major (w : BitVec 32) : Nat := (bits w 2 5).toNat

/-- Whether bit 31 of a 32-bit instruction is its literal bit and is 1: the majors ATOM, ATOMW, REP and BLK have no
literal bit (R154). -/
def hasLiteral (w : BitVec 32) : Bool :=
  w.getLsbD 31 && !(major w == 12 || major w == 13 || major w == 29 || major w == 31)

/-! ### The frames of Table 7-3, written -/

/-- The scalar frame. -/
def frameScalar (maj : BitVec 5) (L : BitVec 1) (func : BitVec 9) (b a d : BitVec 5) : BitVec 32 :=
  L ++ func ++ b ++ a ++ d ++ maj ++ 3#2
/-- The scalar-immediate frame. -/
def frameImm (L : BitVec 1) (i : BitVec 9) (op a d : BitVec 5) : BitVec 32 := L ++ i ++ op ++ a ++ d ++ 1#5 ++ 3#2
/-- The load-store frame. -/
def frameLdst (L : BitVec 1) (i : BitVec 10) (x s : BitVec 1) (z : BitVec 2) (a d : BitVec 5) : BitVec 32 :=
  L ++ i ++ x ++ s ++ z ++ a ++ d ++ 8#5 ++ 3#2
/-- The branch frame; the jump frame has its kind in place of cond, a in place of b and zero in place of a. -/
def frameBranch (maj : BitVec 5) (L : BitVec 1) (o : BitVec 11) (cond : BitVec 3) (b a : BitVec 5) : BitVec 32 :=
  L ++ o ++ cond ++ b ++ a ++ maj ++ 3#2
/-- The queue frame. -/
def frameQueue (n : BitVec 6) (op : BitVec 3) (b q d : BitVec 5) : BitVec 32 := 0#1 ++ n ++ op ++ b ++ q ++ d ++ 6#5 ++ 3#2
/-- The system frame. -/
def frameSys (op : BitVec 5) (x : BitVec 19) : BitVec 32 := 0#1 ++ op ++ x ++ 7#5 ++ 3#2
/-- The atomic frame. -/
def frameAtom (maj : BitVec 5) (s : BitVec 3) (o : BitVec 2) (op : BitVec 4) (z : BitVec 1) (b a d : BitVec 5) : BitVec 32 :=
  s ++ o ++ op ++ z ++ b ++ a ++ d ++ maj ++ 3#2
/-- The vector frame; bit 31 of func is L. -/
def frameVec (maj : BitVec 5) (func : BitVec 4) (b a d : BitVec 6) (g : BitVec 3) : BitVec 32 :=
  func ++ b ++ a ++ d ++ g ++ maj ++ 3#2
/-- The compare frame. -/
def frameCmp (L : BitVec 1) (cond : BitVec 2) (b a : BitVec 6) (p : BitVec 7) (g : BitVec 3) : BitVec 32 :=
  L ++ cond ++ b ++ a ++ p ++ g ++ 20#5 ++ 3#2
/-- The predicate frame. -/
def framePred (func : BitVec 4) (b a d : BitVec 7) : BitVec 32 := func ++ b ++ a ++ d ++ 24#5 ++ 3#2
/-- The job frame. -/
def frameJob (maj : BitVec 5) (L : BitVec 1) (u m : BitVec 1) (op : BitVec 3) (fb fa : BitVec 4) (a d : BitVec 5) : BitVec 32 :=
  L ++ 0#1 ++ u ++ m ++ op ++ fb ++ fa ++ a ++ d ++ maj ++ 3#2
/-- The hint frame. -/
def frameHint (L : BitVec 1) (h : BitVec 14) (a d : BitVec 5) : BitVec 32 := L ++ h ++ a ++ d ++ 30#5 ++ 3#2
/-- The BLK header of Table 7-2. -/
def frameBlk (e : BitVec 1) (c : BitVec 2) (p : BitVec 1) (r : BitVec 6) (l : BitVec 12) : BitVec 32 :=
  0#3 ++ e ++ c ++ p ++ r ++ l ++ 31#5 ++ 3#2
/-- The modifier word of R165. -/
def modWord (imm : BitVec 16) (xop : BitVec 5) (sat : BitVec 1) (rm : BitVec 2) (f2 f : BitVec 4) : BitVec 32 :=
  imm ++ xop ++ sat ++ rm ++ f2 ++ f

/-- The fields of a modifier word (R165). -/
structure Modifier where
  imm : BitVec 16
  xop : BitVec 5
  sat : BitVec 1
  rm : BitVec 2
  f2 : BitVec 4
  f : BitVec 4
  deriving DecidableEq, Repr

/-- A modifier word, read. -/
def readMod (l : BitVec 32) : Modifier :=
  ⟨bits l 16 16, bits l 11 5, bits l 10 1, bits l 8 2, bits l 4 4, bits l 0 4⟩

/-- The instruction, when the condition holds. -/
def onlyIf (c : Bool) (i : Instr) : Option Instr := if c then some i else none

/-! ### Reading, major by major -/

/-- The 16-bit forms of Table 7-1. -/
noncomputable def decodeHalf (h : BitVec 16) : Option Instr :=
  let op := (bits h 13 3).toNat
  let f := bits h 7 6
  let lo := bits h 2 5
  let mid := bits h 7 5
  let z := h.getLsbD 12 == false
  match (bits h 0 2).toNat with
  | 0 =>
    match op with
    | 0 => some (.caddi f lo)
    | 1 => some (.cli f lo)
    | 2 => some (.cshli f lo)
    | 3 => some (.cshri f lo)
    | 4 => some (.csrai f lo)
    | 5 => some (.candi f lo)
    | 6 => onlyIf z (.cmov mid lo)
    | _ => onlyIf z (.cadd mid lo)
  | 1 =>
    match op with
    | 0 => onlyIf (h == 0x0001#16) .cnop
    | 1 => onlyIf z (.cqpush mid lo)
    | 2 => onlyIf z (.cqpop mid lo)
    | 3 => onlyIf z (.cbqpush mid lo)
    | 4 => onlyIf (h == 0x8001#16) .cret
    | _ => none
  | _ => none

/-- Major SALU (R185): operand B is the register, or with L = 1 and b = 0 the literal. -/
noncomputable def decodeSalu (w : BitVec 32) (lit : OptLit) : Option Instr :=
  let d := bits w 7 5
  let a := bits w 12 5
  let b := bits w 17 5
  let one := b == 0#5 && lit.isNone
  let src : Option SrcB := match lit with
    | none => some (.reg b)
    | some l => if b == 0#5 then some (.lit l) else none
  match (bits w 22 9).toNat with
  | 0 => src.map (.add d a)
  | 1 => src.map (.sub d a)
  | 2 => src.map (.and d a)
  | 3 => src.map (.or d a)
  | 4 => src.map (.xor d a)
  | 5 => src.map (.shl d a)
  | 6 => src.map (.shr d a)
  | 7 => src.map (.sra d a)
  | 8 => src.map (.mul d a)
  | 9 => src.map (.mulh d a)
  | 10 => src.map (.mulhU d a)
  | 11 => src.map (.div d a)
  | 12 => src.map (.divU d a)
  | 13 => src.map (.rem d a)
  | 14 => src.map (.remU d a)
  | 15 => src.map (.min d a)
  | 16 => src.map (.minU d a)
  | 17 => src.map (.max d a)
  | 18 => src.map (.maxU d a)
  | 19 => onlyIf one (.clz d a)
  | 20 => onlyIf one (.popc d a)
  | 21 => onlyIf one (.brev d a)
  | 22 => src.map (.ext d a)
  | 23 => src.map (.extS d a)
  | 24 => src.map (.ins d a)
  | 25 => src.map (.madda d a)
  | _ => none

/-- Major SALUI (R185). -/
noncomputable def decodeSalui (w : BitVec 32) (lit : OptLit) : Option Instr :=
  let d := bits w 7 5
  let a := bits w 12 5
  let i := bits w 22 9
  let src : Option Imm9 := match lit with
    | none => some (.imm i)
    | some l => if i == 0#9 then some (.lit l) else none
  match (bits w 17 5).toNat with
  | 0 => src.map (.addImm d a)
  | 1 => src.map (.subImm d a)
  | 2 => src.map (.andImm d a)
  | 3 => src.map (.orImm d a)
  | 4 => src.map (.xorImm d a)
  | 5 => src.map (.shlImm d a)
  | 6 => src.map (.shrImm d a)
  | 7 => src.map (.sraImm d a)
  | 8 => src.map (.mulImm d a)
  | 9 => src.map (.mulhImm d a)
  | 10 => src.map (.mulhUImm d a)
  | 11 => src.map (.divImm d a)
  | 12 => src.map (.divUImm d a)
  | 13 => src.map (.remImm d a)
  | 14 => src.map (.remUImm d a)
  | 15 => src.map (.minImm d a)
  | 16 => src.map (.minUImm d a)
  | 17 => src.map (.maxImm d a)
  | 18 => src.map (.maxUImm d a)
  | _ => none

/-- Major LI (R188). -/
noncomputable def decodeLi (w : BitVec 32) (lit : OptLit) : Option Instr :=
  let d := bits w 7 5
  match lit with
  | none => some (.li d (bits w 12 19))
  | some l =>
    if bits w 13 18 == 0#18 then (if w.getLsbD 12 then some (.liwH d l) else some (.liw d l)) else none

/-- The displacement of a branch or jump: off11, or the literal with off11 = 0 (R189, R191). -/
def readOff (w : BitVec 32) (lit : OptLit) : Option Off11 :=
  match lit with
  | none => some (.off (bits w 20 11))
  | some l => if bits w 20 11 == 0#11 then some (.lit l) else none

/-- Major BR (R189, R190). -/
noncomputable def decodeBr (w : BitVec 32) (lit : OptLit) : Option Instr :=
  let a := bits w 7 5
  let b := bits w 12 5
  match readOff w lit with
  | none => none
  | some o =>
    match (bits w 17 3).toNat with
    | 0 => some (.cbEq a b o)
    | 1 => some (.cbNe a b o)
    | 2 => some (.cbLt a b o)
    | 3 => some (.cbGe a b o)
    | 4 => some (.cbLtU a b o)
    | 5 => some (.cbGeU a b o)
    | 6 => onlyIf (a == 0#5 && b == 0#5) (.b o)
    | _ => onlyIf (b == 0#5 && bits w 8 4 == 0#4) (.bqb (bits w 7 1) o)

/-- Major JMP (R191). -/
noncomputable def decodeJmp (w : BitVec 32) (lit : OptLit) : Option Instr :=
  let a := bits w 12 5
  if bits w 7 5 != 0#5 then none else
  match (bits w 17 3).toNat with
  | 0 => if a == 0#5 then (readOff w lit).map .call else none
  | 1 => onlyIf (a == 0#5 && bits w 20 11 == 0#11 && lit.isNone) .ret
  | 2 => (readOff w lit).map (.jmpr a)
  | 3 => onlyIf (bits w 20 11 == 0#11 && lit.isNone) (.callr a)
  | _ => none

/-- Major QOP (R194). -/
noncomputable def decodeQop (w : BitVec 32) : Option Instr :=
  let d := bits w 7 5
  let q := bits w 12 5
  let b := bits w 17 5
  let n := bits w 25 6
  match (bits w 22 3).toNat with
  | 0 => onlyIf (n == 0#6 && b == 0#5) (.qpush q d)
  | 1 => onlyIf (n == 0#6 && b == 0#5) (.qpop q d)
  | 2 => onlyIf (n == 0#6 && d == 0#5) (.qdrop q b)
  | 3 => onlyIf (b == 0#5 && d == 0#5) (.qdropN q n)
  | 4 => onlyIf (n == 0#6 && b == 0#5) (.bqpush q d)
  | _ => none

/-- Major SYS (R168). -/
noncomputable def decodeSys (w : BitVec 32) : Option Instr :=
  let d := bits w 7 5
  match (bits w 26 5).toNat with
  | 0 => onlyIf (bits w 23 3 == 0#3) (.wait (bits w 7 4) (bits w 11 4) (bits w 15 4) (bits w 19 4))
  | 1 => onlyIf (bits w 19 7 == 0#7) (.pause (bits w 7 12))
  | 2 => some (.cfgr d (bits w 12 14))
  | 3 => some (.cfgw d (bits w 12 14))
  | 4 => onlyIf (bits w 17 9 == 0#9) (.capr d (bits w 12 5))
  | 5 => onlyIf (bits w 23 3 == 0#3) (.trap (bits w 7 16))
  | 6 => onlyIf (bits w 7 19 == 0#19) .uiret
  | 7 => onlyIf (bits w 8 18 == 0#18) (.uimask (bits w 7 1))
  | 8 => onlyIf (bits w 22 4 == 0#4) (.launch d (bits w 12 5) (bits w 17 5))
  | _ => none

/-- Major LDST (R213). -/
noncomputable def decodeLdst (w : BitVec 32) (lit : OptLit) : Option Instr :=
  let d := bits w 7 5
  let a := bits w 12 5
  let z := bits w 17 2
  let off : Option Off10 := match lit with
    | none => some (.imm (bits w 21 10))
    | some l => if bits w 21 10 == 0#10 then some (.lit l) else none
  match off with
  | none => none
  | some o =>
    if w.getLsbD 19 then onlyIf (bits w 20 1 == 0#1) (.st z a d o) else some (.ld (bits w 20 1) z a d o)

/-- Major LDSTX (R213). -/
noncomputable def decodeLdstx (w : BitVec 32) : Option Instr :=
  let d := bits w 7 5
  let a := bits w 12 5
  let b := bits w 17 5
  let z := bits w 22 2
  let c := bits w 26 2
  if bits w 28 3 != 0#3 then none else
  if w.getLsbD 24 then onlyIf (bits w 25 1 == 0#1) (.stIndexed c z b a d) else some (.ldIndexed c (bits w 25 1) z b a d)

/-- Major LDQS (R216). -/
noncomputable def decodeLdqs (w : BitVec 32) : Option Instr :=
  let q := bits w 7 5
  let a := bits w 12 5
  let b := bits w 17 5
  let z := bits w 22 2
  if bits w 26 5 != 0#5 then none else
  if w.getLsbD 24 then onlyIf (bits w 25 1 == 0#1) (.stq z b a q) else some (.ldq (bits w 25 1) z b a q)

/-- Major ORD (R219). -/
noncomputable def decodeOrd (w : BitVec 32) (lit : OptLit) : Option Instr :=
  let d := bits w 7 5
  let a := bits w 12 5
  let z := bits w 17 2
  let s := bits w 19 3
  if bits w 25 6 != 0#6 then none else
  match (bits w 22 3).toNat with
  | 0 => some (.lda s z a d lit)
  | 1 => some (.strel s z a d lit)
  | 2 => onlyIf (a == 0#5 && d == 0#5 && z == 0#2 && lit.isNone) (.fence s)
  | 3 => onlyIf (s == 0#3 && z == 0#2 && d == 0#5) (.pref a lit)
  | _ => none

/-- Major ATOM (R222). -/
def decodeAtom (w : BitVec 32) : Option Instr :=
  let d := bits w 7 5
  let a := bits w 12 5
  let b := bits w 17 5
  let z := bits w 22 1
  let o := bits w 27 2
  let s := bits w 29 3
  match (bits w 23 4).toNat with
  | 0 => onlyIf (d == 0#5) (.gadd s o z b a)
  | 1 => some (.gswap s o z b a d)
  | 2 => some (.gcas s o z b a d)
  | 3 => some (.gfadd s o z b a d)
  | 4 => onlyIf (z == 0#1) (.gbfadd s o b a d)
  | 5 => some (.gincw s o z b a d)
  | 6 => some (.gmin s o z b a d)
  | 7 => some (.gmax s o z b a d)
  | 8 => some (.gand s o z b a d)
  | 9 => some (.gor s o z b a d)
  | _ => none

/-- Major ATOMW (R227, R229). -/
def decodeAtomw (w : BitVec 32) : Option Instr :=
  let d := bits w 7 5
  let a := bits w 12 5
  let b := bits w 17 5
  let o := bits w 27 2
  let s := bits w 29 3
  if bits w 22 1 != 0#1 then none else
  match (bits w 23 4).toNat with
  | 0 => some (.gswapQ s o b a d)
  | 1 => some (.gcasQ s o b a d)
  | 2 => some (.gandQ s o b a d)
  | 3 => some (.gorQ s o b a d)
  | 8 => some (.barinit s o b a d)
  | 9 => onlyIf (w.getLsbD 28) (.bararr s (bits w 27 1) b a d)
  | 10 => onlyIf (o == 1#2) (.barwait s b a d)
  | 11 => onlyIf (b == 0#5) (.barqry s o a d)
  | _ => none

/-- Major RING (R236, R245). -/
noncomputable def decodeRing (w : BitVec 32) : Option Instr :=
  let d := bits w 7 5
  let a := bits w 12 5
  let b := bits w 17 5
  if bits w 26 5 != 0#5 then none else
  match (bits w 22 4).toNat with
  | 0 => some (.rresv d a b)
  | 1 => some (.rpub d a b)
  | 2 => some (.wenq d a b)
  | 3 => onlyIf (b == 0#5) (.rpop d a)
  | 4 => onlyIf (b == 0#5) (.rpeek d a)
  | 5 => some (.msend d a b)
  | 6 => some (.mstore d a b)
  | _ => none

/-- Major SEALOP (R246). -/
noncomputable def decodeSealop (w : BitVec 32) : Option Instr :=
  let d := bits w 7 5
  let a := bits w 12 5
  let b := bits w 17 5
  let z := bits w 25 2
  if bits w 27 4 != 0#4 then none else
  match (bits w 22 3).toNat with
  | 0 => onlyIf (z == 0#2 && a == 0#5 && b == 0#5) (.seal d)
  | 1 => some (.sealw z b a d)
  | 2 => onlyIf (z == 0#2 && a == 0#5 && b == 0#5) (.rinr d)
  | _ => none

/-- Whether the modifier fields outside XOP are zero but those named. -/
def Modifier.zero (m : Modifier) (imm sat rm f2 f : Bool) : Bool :=
  (imm || m.imm == 0#16) && (sat || m.sat == 0#1) && (rm || m.rm == 0#2) && (f2 || m.f2 == 0#4) && (f || m.f == 0#4)

/-- Major VINT (R254). -/
def decodeVint (w : BitVec 32) (lit : OptLit) : Option Instr :=
  let g := bits w 7 3
  let d := bits w 10 6
  let a := bits w 16 6
  let b := bits w 22 6
  match (bits w 28 4).toNat, lit with
  | 0, none => some (.vadd g d a b)
  | 1, none => some (.vsub g d a b)
  | 2, none => some (.vmul g d a b)
  | 3, none => some (.vmin g d a b)
  | 4, none => some (.vmax g d a b)
  | 5, none => some (.vand g d a b)
  | 6, none => some (.vor g d a b)
  | 7, none => some (.vxor g d a b)
  | 8, some l =>
    let m := readMod l
    if !m.zero false false false false false then none else
    match m.xop.toNat with
    | 0 => some (.vmulh g d a b)
    | 1 => some (.vmulhU g d a b)
    | 2 => some (.vminU g d a b)
    | 3 => some (.vmaxU g d a b)
    | 4 => some (.vaddSat g d a b)
    | 5 => some (.vsubSat g d a b)
    | 6 => some (.vdiv g d a b)
    | 7 => some (.vdivU g d a b)
    | 8 => some (.vrem g d a b)
    | 9 => some (.vremU g d a b)
    | 10 => some (.vshl g d a b)
    | 11 => some (.vshr g d a b)
    | 12 => some (.vsra g d a b)
    | 13 => onlyIf (b == 0#6) (.vabs g d a)
    | 14 => onlyIf (b == 0#6) (.vnot g d a)
    | 15 => onlyIf (b == 0#6) (.vclz g d a)
    | 16 => onlyIf (b == 0#6) (.vpopc g d a)
    | 17 => some (.vmadd g d a b)
    | _ => none
  | 9, some l =>
    let m := readMod l
    if !m.zero true false false false false || b != 0#6 then none else
    match m.xop.toNat with
    | 0 => some (.vmulhImm g d a m.imm)
    | 1 => some (.vmulhUImm g d a m.imm)
    | 2 => some (.vminUImm g d a m.imm)
    | 3 => some (.vmaxUImm g d a m.imm)
    | 4 => some (.vaddSatImm g d a m.imm)
    | 5 => some (.vsubSatImm g d a m.imm)
    | 6 => some (.vdivImm g d a m.imm)
    | 7 => some (.vdivUImm g d a m.imm)
    | 8 => some (.vremImm g d a m.imm)
    | 9 => some (.vremUImm g d a m.imm)
    | 10 => some (.vshlImm g d a m.imm)
    | 11 => some (.vshrImm g d a m.imm)
    | 12 => some (.vsraImm g d a m.imm)
    | 17 => some (.vmaddImm g d a m.imm)
    | 18 => some (.vaddImm g d a m.imm)
    | 19 => some (.vsubImm g d a m.imm)
    | 20 => some (.vmulImm g d a m.imm)
    | 21 => some (.vminImm g d a m.imm)
    | 22 => some (.vmaxImm g d a m.imm)
    | 23 => some (.vandImm g d a m.imm)
    | 24 => some (.vorImm g d a m.imm)
    | 25 => some (.vxorImm g d a m.imm)
    | _ => none
  | _, _ => none

/-- Major VFP (R256): RM is used by XOP 0 to 8 and 15. -/
def decodeVfp (w : BitVec 32) (lit : OptLit) : Option Instr :=
  let g := bits w 7 3
  let d := bits w 10 6
  let a := bits w 16 6
  let b := bits w 22 6
  match (bits w 28 4).toNat, lit with
  | 0, none => some (.vfadd g d a b)
  | 1, none => some (.vfsub g d a b)
  | 2, none => some (.vfmul g d a b)
  | 3, none => some (.vfmin g d a b)
  | 4, none => some (.vfmax g d a b)
  | 5, none => some (.vfma g d a b)
  | 6, none => some (.vfms g d a b)
  | 7, none => some (.vfdiv g d a b)
  | 8, some l =>
    let m := readMod l
    if !m.zero false false true false false then none else
    match m.xop.toNat with
    | 0 => some (.vfaddRm m.rm g d a b)
    | 1 => some (.vfsubRm m.rm g d a b)
    | 2 => some (.vfmulRm m.rm g d a b)
    | 3 => some (.vfminRm m.rm g d a b)
    | 4 => some (.vfmaxRm m.rm g d a b)
    | 5 => some (.vfmaRm m.rm g d a b)
    | 6 => some (.vfmsRm m.rm g d a b)
    | 7 => some (.vfdivRm m.rm g d a b)
    | 8 => onlyIf (b == 0#6) (.vfsqrt m.rm g d a)
    | 9 => onlyIf (b == 0#6 && m.rm == 0#2) (.vfrcp g d a)
    | 10 => onlyIf (b == 0#6 && m.rm == 0#2) (.vfrsq g d a)
    | 11 => onlyIf (b == 0#6 && m.rm == 0#2) (.vfexp2 g d a)
    | 12 => onlyIf (b == 0#6 && m.rm == 0#2) (.vflog2 g d a)
    | 13 => onlyIf (b == 0#6 && m.rm == 0#2) (.vfabs g d a)
    | 14 => onlyIf (b == 0#6 && m.rm == 0#2) (.vfneg g d a)
    | 15 => some (.vfnma m.rm g d a b)
    | _ => none
  | 9, some l =>
    let m := readMod l
    if !m.zero true false true false false || b != 0#6 then none else
    match m.xop.toNat with
    | 0 => some (.vfaddImm m.rm g d a m.imm)
    | 1 => some (.vfsubImm m.rm g d a m.imm)
    | 2 => some (.vfmulImm m.rm g d a m.imm)
    | 3 => some (.vfminImm m.rm g d a m.imm)
    | 4 => some (.vfmaxImm m.rm g d a m.imm)
    | 5 => some (.vfmaImm m.rm g d a m.imm)
    | 6 => some (.vfmsImm m.rm g d a m.imm)
    | 7 => some (.vfdivImm m.rm g d a m.imm)
    | 15 => some (.vfnmaImm m.rm g d a m.imm)
    | _ => none
  | _, _ => none

/-- Majors VHALF (R258) and VCVT (R259 to R261): func 1000 only. -/
def decodeVhalf (w : BitVec 32) (lit : OptLit) : Option Instr :=
  let g := bits w 7 3
  let d := bits w 10 6
  let a := bits w 16 6
  let b := bits w 22 6
  match (bits w 28 4).toNat, lit with
  | 8, some l =>
    let m := readMod l
    if !m.zero false true true false true then none else
    match m.xop.toNat with
    | 0 => some (.vhadd m.f m.rm m.sat g d a b)
    | 1 => some (.vhsub m.f m.rm m.sat g d a b)
    | 2 => some (.vhmul m.f m.rm m.sat g d a b)
    | 3 => some (.vhmin m.f m.rm m.sat g d a b)
    | 4 => some (.vhmax m.f m.rm m.sat g d a b)
    | 5 => some (.vhfma m.f m.rm m.sat g d a b)
    | _ => none
  | _, _ => none

/-- Major VCVT (R259 to R261). -/
def decodeVcvt (w : BitVec 32) (lit : OptLit) : Option Instr :=
  let g := bits w 7 3
  let d := bits w 10 6
  let a := bits w 16 6
  match (bits w 28 4).toNat, lit with
  | 8, some l =>
    let m := readMod l
    if bits w 22 6 != 0#6 then none else
    match m.xop.toNat with
    | 0 => onlyIf (m.imm == 0#16) (.vcvt m.f m.f2 m.rm m.sat g d a)
    | 1 => onlyIf (bits m.imm 5 11 == 0#11 && g == 0#3) (.vcvtPk m.f m.f2 m.rm m.sat (bits m.imm 0 5) d a)
    | 2 => onlyIf (bits m.imm 5 11 == 0#11 && g == 0#3) (.vcvtUpk m.f m.f2 m.rm m.sat (bits m.imm 0 5) d a)
    | _ => none
  | _, _ => none

/-- Major VCMP (R262). -/
def decodeVcmp (w : BitVec 32) (lit : OptLit) : Option Instr :=
  let g := bits w 7 3
  let p := bits w 10 7
  let a := bits w 17 6
  let b := bits w 23 6
  match (bits w 29 2).toNat, lit with
  | 0, none => some (.vcmpEq g p a b)
  | 1, none => some (.vcmpNe g p a b)
  | 2, none => some (.vcmpLt g p a b)
  | 3, none => some (.vcmpLe g p a b)
  | 0, some l =>
    let m := readMod l
    let hi := bits m.imm 0 1
    if bits m.imm 1 15 != 0#15 || !m.zero true false false false true then none else
    match m.xop.toNat with
    | 0 => some (.vcmpEqFmt m.f hi g p a b)
    | 1 => some (.vcmpNeFmt m.f hi g p a b)
    | 2 => some (.vcmpLtFmt m.f hi g p a b)
    | 3 => some (.vcmpLeFmt m.f hi g p a b)
    | 4 => onlyIf (m.f == 6#4 && hi == 0#1) (.vcmpLtU g p a b)
    | 5 => onlyIf (m.f == 6#4 && hi == 0#1) (.vcmpLeU g p a b)
    | 6 => some (.vcmpUn m.f hi g p a b)
    | 7 => some (.vcmpOrd m.f hi g p a b)
    | _ => none
  | _, _ => none

/-- Major VPERM (R263). -/
def decodeVperm (w : BitVec 32) (lit : OptLit) : Option Instr :=
  let g := bits w 7 3
  let d := bits w 10 6
  let a := bits w 16 6
  let b := bits w 22 6
  match (bits w 28 4).toNat, lit with
  | 0, none => onlyIf (b == 0#6) (.vmov g d a)
  | 8, some l =>
    let m := readMod l
    let n7 := bits m.imm 0 7
    let n6 := bits m.imm 0 6
    if !m.zero true false true false false || (m.rm != 0#2 && m.xop != 9#5) then none else
    match m.xop.toNat with
    | 0 => onlyIf (bits m.imm 7 9 == 0#9) (.vsel n7 g d a b)
    | 1 => onlyIf (m.imm == 0#16) (.vperm g d a b)
    | 2 => onlyIf (bits m.imm 6 10 == 0#10 && b == 0#6) (.vbcast n6 g d a)
    | 3 => onlyIf (bits m.imm 6 10 == 0#10) (.vshup n6 g d a b)
    | 4 => onlyIf (bits m.imm 6 10 == 0#10) (.vshdn n6 g d a b)
    | 5 => onlyIf (a == 0#6 && b == 0#6) (.vidx m.imm g d)
    | 6 => onlyIf (m.imm == 0#16) (.vredadd g d a b)
    | 7 => onlyIf (m.imm == 0#16) (.vredmin g d a b)
    | 8 => onlyIf (m.imm == 0#16) (.vredmax g d a b)
    | 9 => onlyIf (m.imm == 0#16) (.vfredadd m.rm g d a b)
    | 10 => onlyIf (m.imm == 0#16) (.vfredmin g d a b)
    | 11 => onlyIf (m.imm == 0#16) (.vfredmax g d a b)
    | 12 => onlyIf (m.imm == 0#16 && b == 0#6 && bits w 21 1 == 0#1) (.vbcasts g d (bits w 16 5))
    | _ => none
  | _, _ => none

/-- Major VQT (R269, R270). -/
noncomputable def decodeVqt (w : BitVec 32) (lit : OptLit) : Option Instr :=
  let g := bits w 7 3
  let d := bits w 10 6
  let a := bits w 16 6
  let b := bits w 22 6
  let t := bits w 22 4
  let bare := g == 0#3 && d == 0#6 && a == 0#6 && bits w 26 2 == 0#2
  if lit.isSome then none else
  match (bits w 28 4).toNat with
  | 0 => onlyIf (a == 0#6) (.vpop g d b)
  | 1 => onlyIf (d == 0#6) (.vpush g a b)
  | 2 => onlyIf (bits w 26 2 == 0#2 && bits w 21 1 == 0#1) (.trow g d (bits w 16 5) t)
  | 3 => onlyIf (bits w 26 2 == 0#2 && bits w 21 1 == 0#1) (.twrow g d (bits w 16 5) t)
  | 4 => onlyIf bare (.tempty t)
  | 5 => onlyIf bare (.tfill t)
  | 6 => onlyIf bare (.twait t)
  | _ => none

/-- Major BRC (R265). -/
noncomputable def decodeBrc (w : BitVec 32) (lit : OptLit) : Option Instr :=
  let a := bits w 7 5
  if bits w 12 5 != 0#5 then none else
  match (bits w 17 3).toNat with
  | 0 => (readOff w lit).map (.brc a)
  | 1 => if a == 0#5 then (readOff w lit).map .brcQ else none
  | _ => none

/-- Major PRED (R267, R268). -/
noncomputable def decodePred (w : BitVec 32) (lit : OptLit) : Option Instr :=
  let d := bits w 7 7
  let a := bits w 14 7
  let b := bits w 21 7
  if lit.isSome then none else
  match (bits w 28 4).toNat with
  | 0 => some (.pand d a b)
  | 1 => some (.por d a b)
  | 2 => some (.pxor d a b)
  | 3 => onlyIf (b == 0#7) (.pnot d a)
  | 4 => onlyIf (bits w 12 2 == 0#2) (.pcnt (bits w 7 5) a b)
  | 5 => onlyIf (b == 0#7) (.pfirst d a)
  | 6 => onlyIf (b == 0#7 && bits w 11 3 == 0#3) (.gmap a (bits w 10 1) (bits w 7 3))
  | _ => none

/-- Major GLN (R273). -/
noncomputable def decodeGln (w : BitVec 32) (lit : OptLit) : Option Instr :=
  let g := bits w 7 3
  let d := bits w 10 6
  let a := bits w 16 6
  let b := bits w 22 6
  match (bits w 28 4).toNat, lit with
  | 8, some l =>
    let m := readMod l
    onlyIf (m.zero true false false false false && bits m.xop 2 3 == 0#3 && d == 0#6 && b == 0#6)
      (.glean m.imm (bits m.xop 0 2) g a)
  | 9, some l =>
    let m := readMod l
    onlyIf (m.zero true false false false false && bits m.xop 3 2 == 0#2 && bits m.imm 7 9 == 0#9
        && a == 0#6 && b == 0#6 && g == 0#3)
      (.gdrain (bits m.imm 0 7) (bits m.xop 0 2) (bits m.xop 2 1) d)
  | _, _ => none

/-- Major JOBM (R276): NSET, the MMA forms and PLANE. -/
noncomputable def decodeJobm (w : BitVec 32) (lit : OptLit) : Option Instr :=
  let d := bits w 7 5
  let a := bits w 12 5
  let fa := bits w 17 4
  let fb := bits w 21 4
  let m := bits w 28 1
  let u := bits w 29 1
  if bits w 30 1 != 0#1 then none else
  let bare := a == 0#5 && lit.isNone
  match (bits w 25 3).toNat with
  | 0 =>
    match lit with
    | none => onlyIf (m == 0#1 && u == 0#1 && d == 0#5) (.nset (fb ++ fa) (.reg a))
    | some l => onlyIf (m == 0#1 && u == 0#1 && d == 0#5 && a == 0#5) (.nset (fb ++ fa) (.lit l))
  | 1 => onlyIf bare (.mma u m fa fb d)
  | 2 => onlyIf bare (.mmag u m fa fb d)
  | 3 => onlyIf bare (.mmags u m fa fb d)
  | 4 => onlyIf (bare && m == 0#1 && bits w 22 3 == 0#3) (.plane u (bits w 21 1) fa d)
  | _ => none

/-- Major JOBG (R276): SACC, KLD, DRAIN and GCLR. -/
noncomputable def decodeJobg (w : BitVec 32) (lit : OptLit) : Option Instr :=
  let d := bits w 7 5
  let a := bits w 12 5
  let fa := bits w 17 4
  let fb := bits w 21 4
  let m := bits w 28 1
  let u := bits w 29 1
  if bits w 30 1 != 0#1 || lit.isSome then none else
  match (bits w 25 3).toNat with
  | 0 => some (.sacc u m fa fb a d)
  | 1 => onlyIf (fb == 0#4 && m == 0#1 && u == 0#1 && bits w 11 1 == 0#1) (.kld fa a (bits w 7 4))
  | 2 => onlyIf (a == 0#5) (.drain u m fa fb d)
  | 3 => onlyIf (fa == 0#4 && fb == 0#4 && m == 0#1) (.gclr u a d)
  | _ => none

/-- Major JOBC (R276): COPYJ, JOBW and PUBLISH. -/
noncomputable def decodeJobc (w : BitVec 32) (lit : OptLit) : Option Instr :=
  let d := bits w 7 5
  let a := bits w 12 5
  let fa := bits w 17 4
  let fb := bits w 21 4
  let m := bits w 28 1
  let u := bits w 29 1
  if bits w 30 1 != 0#1 || lit.isSome then none else
  match (bits w 25 3).toNat with
  | 0 => onlyIf (fa == 0#4 && fb == 0#4 && m == 0#1 && a == 0#5) (.copyj u d)
  | 1 => onlyIf (bits fa 1 3 == 0#3 && fb == 0#4 && m == 0#1 && u == 0#1) (.jobw (bits fa 0 1) a d)
  | 2 => onlyIf (fa == 0#4 && fb == 0#4 && m == 0#1 && u == 0#1) (.publish a d)
  | _ => none

/-- Major REP (R161). -/
noncomputable def decodeRep (w : BitVec 32) : Option Instr :=
  onlyIf (bits w 22 10 == 0#10) (.rep (bits w 19 3) (bits w 16 3) (bits w 13 3) (bits w 7 6))

/-- Major HINT (R169, Table 7-9). -/
noncomputable def decodeHint (w : BitVec 32) (lit : OptLit) : Option Instr :=
  let d := bits w 7 5
  let a := bits w 12 5
  let h := bits w 17 14
  match h.toNat with
  | 1 => some (.hintLoopBufferResident a d lit)
  | 2 => some (.hintFreeQueueSlots a d lit)
  | 3 => some (.hintPinRequest a d lit)
  | _ => some (.hint h a d lit)

/-- Major BLK (R156), the header of a block. -/
noncomputable def decodeBlk (w : BitVec 32) : Option Instr :=
  onlyIf (bits w 29 3 == 0#3) (.blk (bits w 28 1) (bits w 26 2) (bits w 25 1) (bits w 19 6) (bits w 7 12))

/-- A 32-bit instruction by its major (Table 7-4). -/
noncomputable def decodeWord (w : BitVec 32) (lit : OptLit) : Option Instr :=
  match major w with
  | 0 => decodeSalu w lit
  | 1 => decodeSalui w lit
  | 2 => decodeLi w lit
  | 4 => decodeBr w lit
  | 5 => decodeJmp w lit
  | 6 => if lit.isSome then none else decodeQop w
  | 7 => if lit.isSome then none else decodeSys w
  | 8 => decodeLdst w lit
  | 9 => if lit.isSome then none else decodeLdstx w
  | 10 => if lit.isSome then none else decodeLdqs w
  | 11 => decodeOrd w lit
  | 12 => decodeAtom w
  | 13 => decodeAtomw w
  | 14 => if lit.isSome then none else decodeRing w
  | 15 => if lit.isSome then none else decodeSealop w
  | 16 => decodeVint w lit
  | 17 => decodeVfp w lit
  | 18 => decodeVhalf w lit
  | 19 => decodeVcvt w lit
  | 20 => decodeVcmp w lit
  | 21 => decodeVperm w lit
  | 22 => decodeVqt w lit
  | 23 => decodeBrc w lit
  | 24 => decodePred w lit
  | 25 => decodeGln w lit
  | 26 => decodeJobm w lit
  | 27 => decodeJobg w lit
  | 28 => decodeJobc w lit
  | 29 => decodeRep w
  | 30 => decodeHint w lit
  | 31 => decodeBlk w
  | _ => none

/-- The instruction a code reads as, before the checks of its fields. -/
noncomputable def decodeRaw : Code → Option Instr
  | .half h => decodeHalf h
  | .word w => if hasLiteral w then none else decodeWord w none
  | .wide w l => if hasLiteral w then decodeWord w (some l) else none

/-- The decoder: `none` for every encoding that 07 does not allocate (R170). -/
noncomputable def decode (c : Code) : Option Instr :=
  match decodeRaw c with
  | some i => if wellFormed i then some i else none
  | none => none

/-- The code at the head of a list of bytes, and how many bytes it takes (R153); `none` when the list is too short or
opens with the reserved quadrant 10 (R155). -/
def frameBytes : List Byte → Option Code
  | b0 :: b1 :: rest =>
    if bits b0 0 2 != 3#2 then (if bits b0 0 2 == 2#2 then none else some (.half (b1 ++ b0))) else
    match rest with
    | b2 :: b3 :: more =>
      let w : BitVec 32 := b3 ++ b2 ++ b1 ++ b0
      if hasLiteral w then
        match more with
        | l0 :: l1 :: l2 :: l3 :: _ => some (.wide w (l3 ++ l2 ++ l1 ++ l0))
        | _ => none
      else some (.word w)
    | _ => none
  | _ => none

/-- The instruction at the head of a list of bytes, with the bytes it occupies. -/
noncomputable def decodeBytes (bs : List Byte) : Option (Instr × Nat) :=
  match frameBytes bs with
  | some c => (decode c).map fun i => (i, c.bytes)
  | none => none

/-- The bytes of a code, lowest address first (R2, R153). -/
def Code.toBytes : Code → List Byte
  | .half h => [bits h 0 8, bits h 8 8]
  | .word w => [bits w 0 8, bits w 8 8, bits w 16 8, bits w 24 8]
  | .wide w l => [bits w 0 8, bits w 8 8, bits w 16 8, bits w 24 8, bits l 0 8, bits l 8 8, bits l 16 8, bits l 24 8]

/-! ### Writing -/

/-- A SALU instruction (R185). -/
def encSalu (func : BitVec 9) (d a : Reg) : SrcB → Code
  | .reg b => .word (frameScalar 0#5 0#1 func b a d)
  | .lit l => .wide (frameScalar 0#5 1#1 func 0#5 a d) l

/-- A SALUI instruction (R185). -/
def encSalui (op : BitVec 5) (d a : Reg) : Imm9 → Code
  | .imm i => .word (frameImm 0#1 i op a d)
  | .lit l => .wide (frameImm 1#1 0#9 op a d) l

/-- A branch, jump or BRC (R189, R191, R265). -/
def encBr (maj : BitVec 5) (cond : BitVec 3) (b a : BitVec 5) : Off11 → Code
  | .off o => .word (frameBranch maj 0#1 o cond b a)
  | .lit l => .wide (frameBranch maj 1#1 0#11 cond b a) l

/-- An ORD instruction (R219). -/
def encOrd (op s : BitVec 3) (z : BitVec 2) (a d : Reg) : OptLit → Code
  | none => .word (frameScalar 11#5 0#1 (0#6 ++ op) (s ++ z) a d)
  | some l => .wide (frameScalar 11#5 1#1 (0#6 ++ op) (s ++ z) a d) l

/-- A hint (R169). -/
def encHint (h : BitVec 14) (a d : Reg) : OptLit → Code
  | none => .word (frameHint 0#1 h a d)
  | some l => .wide (frameHint 1#1 h a d) l

/-- The code of an instruction, from the frames of Table 7-3; `none` for the events, which have no encoding. -/
def encode : Instr → Option Code
  | .caddi f d => some (.half (0#3 ++ f ++ d ++ 0#2))
  | .cli f d => some (.half (1#3 ++ f ++ d ++ 0#2))
  | .cshli f d => some (.half (2#3 ++ f ++ d ++ 0#2))
  | .cshri f d => some (.half (3#3 ++ f ++ d ++ 0#2))
  | .csrai f d => some (.half (4#3 ++ f ++ d ++ 0#2))
  | .candi f d => some (.half (5#3 ++ f ++ d ++ 0#2))
  | .cmov a d => some (.half (6#3 ++ 0#1 ++ a ++ d ++ 0#2))
  | .cadd a d => some (.half (7#3 ++ 0#1 ++ a ++ d ++ 0#2))
  | .cnop => some (.half 0x0001#16)
  | .cqpush a q => some (.half (1#3 ++ 0#1 ++ a ++ q ++ 1#2))
  | .cqpop d q => some (.half (2#3 ++ 0#1 ++ d ++ q ++ 1#2))
  | .cbqpush a q => some (.half (3#3 ++ 0#1 ++ a ++ q ++ 1#2))
  | .cret => some (.half 0x8001#16)
  | .add d a b => some (encSalu 0#9 d a b)
  | .sub d a b => some (encSalu 1#9 d a b)
  | .and d a b => some (encSalu 2#9 d a b)
  | .or d a b => some (encSalu 3#9 d a b)
  | .xor d a b => some (encSalu 4#9 d a b)
  | .shl d a b => some (encSalu 5#9 d a b)
  | .shr d a b => some (encSalu 6#9 d a b)
  | .sra d a b => some (encSalu 7#9 d a b)
  | .mul d a b => some (encSalu 8#9 d a b)
  | .mulh d a b => some (encSalu 9#9 d a b)
  | .mulhU d a b => some (encSalu 10#9 d a b)
  | .div d a b => some (encSalu 11#9 d a b)
  | .divU d a b => some (encSalu 12#9 d a b)
  | .rem d a b => some (encSalu 13#9 d a b)
  | .remU d a b => some (encSalu 14#9 d a b)
  | .min d a b => some (encSalu 15#9 d a b)
  | .minU d a b => some (encSalu 16#9 d a b)
  | .max d a b => some (encSalu 17#9 d a b)
  | .maxU d a b => some (encSalu 18#9 d a b)
  | .clz d a => some (.word (frameScalar 0#5 0#1 19#9 0#5 a d))
  | .popc d a => some (.word (frameScalar 0#5 0#1 20#9 0#5 a d))
  | .brev d a => some (.word (frameScalar 0#5 0#1 21#9 0#5 a d))
  | .ext d a b => some (encSalu 22#9 d a b)
  | .extS d a b => some (encSalu 23#9 d a b)
  | .ins d a b => some (encSalu 24#9 d a b)
  | .madda d a b => some (encSalu 25#9 d a b)
  | .addImm d a i => some (encSalui 0#5 d a i)
  | .subImm d a i => some (encSalui 1#5 d a i)
  | .andImm d a i => some (encSalui 2#5 d a i)
  | .orImm d a i => some (encSalui 3#5 d a i)
  | .xorImm d a i => some (encSalui 4#5 d a i)
  | .shlImm d a i => some (encSalui 5#5 d a i)
  | .shrImm d a i => some (encSalui 6#5 d a i)
  | .sraImm d a i => some (encSalui 7#5 d a i)
  | .mulImm d a i => some (encSalui 8#5 d a i)
  | .mulhImm d a i => some (encSalui 9#5 d a i)
  | .mulhUImm d a i => some (encSalui 10#5 d a i)
  | .divImm d a i => some (encSalui 11#5 d a i)
  | .divUImm d a i => some (encSalui 12#5 d a i)
  | .remImm d a i => some (encSalui 13#5 d a i)
  | .remUImm d a i => some (encSalui 14#5 d a i)
  | .minImm d a i => some (encSalui 15#5 d a i)
  | .minUImm d a i => some (encSalui 16#5 d a i)
  | .maxImm d a i => some (encSalui 17#5 d a i)
  | .maxUImm d a i => some (encSalui 18#5 d a i)
  | .li d i => some (.word (0#1 ++ i ++ d ++ 2#5 ++ 3#2))
  | .liw d l => some (.wide (1#1 ++ 0#18 ++ 0#1 ++ d ++ 2#5 ++ 3#2) l)
  | .liwH d l => some (.wide (1#1 ++ 0#18 ++ 1#1 ++ d ++ 2#5 ++ 3#2) l)
  | .cbEq a b o => some (encBr 4#5 0#3 b a o)
  | .cbNe a b o => some (encBr 4#5 1#3 b a o)
  | .cbLt a b o => some (encBr 4#5 2#3 b a o)
  | .cbGe a b o => some (encBr 4#5 3#3 b a o)
  | .cbLtU a b o => some (encBr 4#5 4#3 b a o)
  | .cbGeU a b o => some (encBr 4#5 5#3 b a o)
  | .b o => some (encBr 4#5 6#3 0#5 0#5 o)
  | .bqb p o => some (encBr 4#5 7#3 0#5 (0#4 ++ p) o)
  | .call o => some (encBr 5#5 0#3 0#5 0#5 o)
  | .ret => some (.word (frameBranch 5#5 0#1 0#11 1#3 0#5 0#5))
  | .jmpr a o => some (encBr 5#5 2#3 a 0#5 o)
  | .callr a => some (.word (frameBranch 5#5 0#1 0#11 3#3 a 0#5))
  | .qpush q d => some (.word (frameQueue 0#6 0#3 0#5 q d))
  | .qpop q d => some (.word (frameQueue 0#6 1#3 0#5 q d))
  | .qdrop q b => some (.word (frameQueue 0#6 2#3 b q 0#5))
  | .qdropN q n => some (.word (frameQueue n 3#3 0#5 q 0#5))
  | .bqpush q d => some (.word (frameQueue 0#6 4#3 0#5 q d))
  | .wait l s c t => some (.word (frameSys 0#5 (0#3 ++ t ++ c ++ s ++ l)))
  | .pause n => some (.word (frameSys 1#5 (0#7 ++ n)))
  | .cfgr d r => some (.word (frameSys 2#5 (r ++ d)))
  | .cfgw a r => some (.word (frameSys 3#5 (r ++ a)))
  | .capr d a => some (.word (frameSys 4#5 (0#9 ++ a ++ d)))
  | .trap c => some (.word (frameSys 5#5 (0#3 ++ c)))
  | .uiret => some (.word (frameSys 6#5 0#19))
  | .uimask v => some (.word (frameSys 7#5 (0#18 ++ v)))
  | .launch d a b => some (.word (frameSys 8#5 (0#4 ++ b ++ a ++ d)))
  | .ld x z a d o => some (match o with | .imm i => .word (frameLdst 0#1 i x 0#1 z a d) | .lit l => .wide (frameLdst 1#1 0#10 x 0#1 z a d) l)
  | .st z a d o => some (match o with | .imm i => .word (frameLdst 0#1 i 0#1 1#1 z a d) | .lit l => .wide (frameLdst 1#1 0#10 0#1 1#1 z a d) l)
  | .ldIndexed c x z b a d => some (.word (frameScalar 9#5 0#1 (0#3 ++ c ++ x ++ 0#1 ++ z) b a d))
  | .stIndexed c z b a d => some (.word (frameScalar 9#5 0#1 (0#3 ++ c ++ 0#1 ++ 1#1 ++ z) b a d))
  | .ldq x z b a q => some (.word (frameScalar 10#5 0#1 (0#5 ++ x ++ 0#1 ++ z) b a q))
  | .stq z b a q => some (.word (frameScalar 10#5 0#1 (0#5 ++ 0#1 ++ 1#1 ++ z) b a q))
  | .lda s z a d l => some (encOrd 0#3 s z a d l)
  | .strel s z a d l => some (encOrd 1#3 s z a d l)
  | .fence s => some (encOrd 2#3 s 0#2 0#5 0#5 none)
  | .pref a l => some (encOrd 3#3 0#3 0#2 a 0#5 l)
  | .gadd s o z b a => some (.word (frameAtom 12#5 s o 0#4 z b a 0#5))
  | .gswap s o z b a d => some (.word (frameAtom 12#5 s o 1#4 z b a d))
  | .gcas s o z b a d => some (.word (frameAtom 12#5 s o 2#4 z b a d))
  | .gfadd s o z b a d => some (.word (frameAtom 12#5 s o 3#4 z b a d))
  | .gbfadd s o b a d => some (.word (frameAtom 12#5 s o 4#4 0#1 b a d))
  | .gincw s o z b a d => some (.word (frameAtom 12#5 s o 5#4 z b a d))
  | .gmin s o z b a d => some (.word (frameAtom 12#5 s o 6#4 z b a d))
  | .gmax s o z b a d => some (.word (frameAtom 12#5 s o 7#4 z b a d))
  | .gand s o z b a d => some (.word (frameAtom 12#5 s o 8#4 z b a d))
  | .gor s o z b a d => some (.word (frameAtom 12#5 s o 9#4 z b a d))
  | .gswapQ s o b a d => some (.word (frameAtom 13#5 s o 0#4 0#1 b a d))
  | .gcasQ s o b a d => some (.word (frameAtom 13#5 s o 1#4 0#1 b a d))
  | .gandQ s o b a d => some (.word (frameAtom 13#5 s o 2#4 0#1 b a d))
  | .gorQ s o b a d => some (.word (frameAtom 13#5 s o 3#4 0#1 b a d))
  | .barinit s o b a d => some (.word (frameAtom 13#5 s o 8#4 0#1 b a d))
  | .bararr s o b a d => some (.word (frameAtom 13#5 s (1#1 ++ o) 9#4 0#1 b a d))
  | .barwait s b a d => some (.word (frameAtom 13#5 s 1#2 10#4 0#1 b a d))
  | .barqry s o a d => some (.word (frameAtom 13#5 s o 11#4 0#1 0#5 a d))
  | .rresv d a b => some (.word (frameScalar 14#5 0#1 0#9 b a d))
  | .rpub d a b => some (.word (frameScalar 14#5 0#1 1#9 b a d))
  | .wenq d a b => some (.word (frameScalar 14#5 0#1 2#9 b a d))
  | .rpop d a => some (.word (frameScalar 14#5 0#1 3#9 0#5 a d))
  | .rpeek d a => some (.word (frameScalar 14#5 0#1 4#9 0#5 a d))
  | .msend d a b => some (.word (frameScalar 14#5 0#1 5#9 b a d))
  | .mstore d a b => some (.word (frameScalar 14#5 0#1 6#9 b a d))
  | .seal d => some (.word (frameScalar 15#5 0#1 0#9 0#5 0#5 d))
  | .sealw z b a d => some (.word (frameScalar 15#5 0#1 (0#4 ++ z ++ 1#3) b a d))
  | .rinr d => some (.word (frameScalar 15#5 0#1 2#9 0#5 0#5 d))
  | .vadd g d a b => some (.word (frameVec 16#5 0#4 b a d g))
  | .vsub g d a b => some (.word (frameVec 16#5 1#4 b a d g))
  | .vmul g d a b => some (.word (frameVec 16#5 2#4 b a d g))
  | .vmin g d a b => some (.word (frameVec 16#5 3#4 b a d g))
  | .vmax g d a b => some (.word (frameVec 16#5 4#4 b a d g))
  | .vand g d a b => some (.word (frameVec 16#5 5#4 b a d g))
  | .vor g d a b => some (.word (frameVec 16#5 6#4 b a d g))
  | .vxor g d a b => some (.word (frameVec 16#5 7#4 b a d g))
  | .vmulh g d a b => some (.wide (frameVec 16#5 8#4 b a d g) (modWord 0#16 0#5 0#1 0#2 0#4 0#4))
  | .vmulhU g d a b => some (.wide (frameVec 16#5 8#4 b a d g) (modWord 0#16 1#5 0#1 0#2 0#4 0#4))
  | .vminU g d a b => some (.wide (frameVec 16#5 8#4 b a d g) (modWord 0#16 2#5 0#1 0#2 0#4 0#4))
  | .vmaxU g d a b => some (.wide (frameVec 16#5 8#4 b a d g) (modWord 0#16 3#5 0#1 0#2 0#4 0#4))
  | .vaddSat g d a b => some (.wide (frameVec 16#5 8#4 b a d g) (modWord 0#16 4#5 0#1 0#2 0#4 0#4))
  | .vsubSat g d a b => some (.wide (frameVec 16#5 8#4 b a d g) (modWord 0#16 5#5 0#1 0#2 0#4 0#4))
  | .vdiv g d a b => some (.wide (frameVec 16#5 8#4 b a d g) (modWord 0#16 6#5 0#1 0#2 0#4 0#4))
  | .vdivU g d a b => some (.wide (frameVec 16#5 8#4 b a d g) (modWord 0#16 7#5 0#1 0#2 0#4 0#4))
  | .vrem g d a b => some (.wide (frameVec 16#5 8#4 b a d g) (modWord 0#16 8#5 0#1 0#2 0#4 0#4))
  | .vremU g d a b => some (.wide (frameVec 16#5 8#4 b a d g) (modWord 0#16 9#5 0#1 0#2 0#4 0#4))
  | .vshl g d a b => some (.wide (frameVec 16#5 8#4 b a d g) (modWord 0#16 10#5 0#1 0#2 0#4 0#4))
  | .vshr g d a b => some (.wide (frameVec 16#5 8#4 b a d g) (modWord 0#16 11#5 0#1 0#2 0#4 0#4))
  | .vsra g d a b => some (.wide (frameVec 16#5 8#4 b a d g) (modWord 0#16 12#5 0#1 0#2 0#4 0#4))
  | .vabs g d a => some (.wide (frameVec 16#5 8#4 0#6 a d g) (modWord 0#16 13#5 0#1 0#2 0#4 0#4))
  | .vnot g d a => some (.wide (frameVec 16#5 8#4 0#6 a d g) (modWord 0#16 14#5 0#1 0#2 0#4 0#4))
  | .vclz g d a => some (.wide (frameVec 16#5 8#4 0#6 a d g) (modWord 0#16 15#5 0#1 0#2 0#4 0#4))
  | .vpopc g d a => some (.wide (frameVec 16#5 8#4 0#6 a d g) (modWord 0#16 16#5 0#1 0#2 0#4 0#4))
  | .vmadd g d a b => some (.wide (frameVec 16#5 8#4 b a d g) (modWord 0#16 17#5 0#1 0#2 0#4 0#4))
  | .vaddImm g d a i => some (.wide (frameVec 16#5 9#4 0#6 a d g) (modWord i 18#5 0#1 0#2 0#4 0#4))
  | .vsubImm g d a i => some (.wide (frameVec 16#5 9#4 0#6 a d g) (modWord i 19#5 0#1 0#2 0#4 0#4))
  | .vmulImm g d a i => some (.wide (frameVec 16#5 9#4 0#6 a d g) (modWord i 20#5 0#1 0#2 0#4 0#4))
  | .vminImm g d a i => some (.wide (frameVec 16#5 9#4 0#6 a d g) (modWord i 21#5 0#1 0#2 0#4 0#4))
  | .vmaxImm g d a i => some (.wide (frameVec 16#5 9#4 0#6 a d g) (modWord i 22#5 0#1 0#2 0#4 0#4))
  | .vandImm g d a i => some (.wide (frameVec 16#5 9#4 0#6 a d g) (modWord i 23#5 0#1 0#2 0#4 0#4))
  | .vorImm g d a i => some (.wide (frameVec 16#5 9#4 0#6 a d g) (modWord i 24#5 0#1 0#2 0#4 0#4))
  | .vxorImm g d a i => some (.wide (frameVec 16#5 9#4 0#6 a d g) (modWord i 25#5 0#1 0#2 0#4 0#4))
  | .vmulhImm g d a i => some (.wide (frameVec 16#5 9#4 0#6 a d g) (modWord i 0#5 0#1 0#2 0#4 0#4))
  | .vmulhUImm g d a i => some (.wide (frameVec 16#5 9#4 0#6 a d g) (modWord i 1#5 0#1 0#2 0#4 0#4))
  | .vminUImm g d a i => some (.wide (frameVec 16#5 9#4 0#6 a d g) (modWord i 2#5 0#1 0#2 0#4 0#4))
  | .vmaxUImm g d a i => some (.wide (frameVec 16#5 9#4 0#6 a d g) (modWord i 3#5 0#1 0#2 0#4 0#4))
  | .vaddSatImm g d a i => some (.wide (frameVec 16#5 9#4 0#6 a d g) (modWord i 4#5 0#1 0#2 0#4 0#4))
  | .vsubSatImm g d a i => some (.wide (frameVec 16#5 9#4 0#6 a d g) (modWord i 5#5 0#1 0#2 0#4 0#4))
  | .vdivImm g d a i => some (.wide (frameVec 16#5 9#4 0#6 a d g) (modWord i 6#5 0#1 0#2 0#4 0#4))
  | .vdivUImm g d a i => some (.wide (frameVec 16#5 9#4 0#6 a d g) (modWord i 7#5 0#1 0#2 0#4 0#4))
  | .vremImm g d a i => some (.wide (frameVec 16#5 9#4 0#6 a d g) (modWord i 8#5 0#1 0#2 0#4 0#4))
  | .vremUImm g d a i => some (.wide (frameVec 16#5 9#4 0#6 a d g) (modWord i 9#5 0#1 0#2 0#4 0#4))
  | .vshlImm g d a i => some (.wide (frameVec 16#5 9#4 0#6 a d g) (modWord i 10#5 0#1 0#2 0#4 0#4))
  | .vshrImm g d a i => some (.wide (frameVec 16#5 9#4 0#6 a d g) (modWord i 11#5 0#1 0#2 0#4 0#4))
  | .vsraImm g d a i => some (.wide (frameVec 16#5 9#4 0#6 a d g) (modWord i 12#5 0#1 0#2 0#4 0#4))
  | .vmaddImm g d a i => some (.wide (frameVec 16#5 9#4 0#6 a d g) (modWord i 17#5 0#1 0#2 0#4 0#4))
  | .vfadd g d a b => some (.word (frameVec 17#5 0#4 b a d g))
  | .vfsub g d a b => some (.word (frameVec 17#5 1#4 b a d g))
  | .vfmul g d a b => some (.word (frameVec 17#5 2#4 b a d g))
  | .vfmin g d a b => some (.word (frameVec 17#5 3#4 b a d g))
  | .vfmax g d a b => some (.word (frameVec 17#5 4#4 b a d g))
  | .vfma g d a b => some (.word (frameVec 17#5 5#4 b a d g))
  | .vfms g d a b => some (.word (frameVec 17#5 6#4 b a d g))
  | .vfdiv g d a b => some (.word (frameVec 17#5 7#4 b a d g))
  | .vfaddRm rm g d a b => some (.wide (frameVec 17#5 8#4 b a d g) (modWord 0#16 0#5 0#1 rm 0#4 0#4))
  | .vfsubRm rm g d a b => some (.wide (frameVec 17#5 8#4 b a d g) (modWord 0#16 1#5 0#1 rm 0#4 0#4))
  | .vfmulRm rm g d a b => some (.wide (frameVec 17#5 8#4 b a d g) (modWord 0#16 2#5 0#1 rm 0#4 0#4))
  | .vfminRm rm g d a b => some (.wide (frameVec 17#5 8#4 b a d g) (modWord 0#16 3#5 0#1 rm 0#4 0#4))
  | .vfmaxRm rm g d a b => some (.wide (frameVec 17#5 8#4 b a d g) (modWord 0#16 4#5 0#1 rm 0#4 0#4))
  | .vfmaRm rm g d a b => some (.wide (frameVec 17#5 8#4 b a d g) (modWord 0#16 5#5 0#1 rm 0#4 0#4))
  | .vfmsRm rm g d a b => some (.wide (frameVec 17#5 8#4 b a d g) (modWord 0#16 6#5 0#1 rm 0#4 0#4))
  | .vfdivRm rm g d a b => some (.wide (frameVec 17#5 8#4 b a d g) (modWord 0#16 7#5 0#1 rm 0#4 0#4))
  | .vfsqrt rm g d a => some (.wide (frameVec 17#5 8#4 0#6 a d g) (modWord 0#16 8#5 0#1 rm 0#4 0#4))
  | .vfrcp g d a => some (.wide (frameVec 17#5 8#4 0#6 a d g) (modWord 0#16 9#5 0#1 0#2 0#4 0#4))
  | .vfrsq g d a => some (.wide (frameVec 17#5 8#4 0#6 a d g) (modWord 0#16 10#5 0#1 0#2 0#4 0#4))
  | .vfexp2 g d a => some (.wide (frameVec 17#5 8#4 0#6 a d g) (modWord 0#16 11#5 0#1 0#2 0#4 0#4))
  | .vflog2 g d a => some (.wide (frameVec 17#5 8#4 0#6 a d g) (modWord 0#16 12#5 0#1 0#2 0#4 0#4))
  | .vfabs g d a => some (.wide (frameVec 17#5 8#4 0#6 a d g) (modWord 0#16 13#5 0#1 0#2 0#4 0#4))
  | .vfneg g d a => some (.wide (frameVec 17#5 8#4 0#6 a d g) (modWord 0#16 14#5 0#1 0#2 0#4 0#4))
  | .vfnma rm g d a b => some (.wide (frameVec 17#5 8#4 b a d g) (modWord 0#16 15#5 0#1 rm 0#4 0#4))
  | .vfaddImm rm g d a i => some (.wide (frameVec 17#5 9#4 0#6 a d g) (modWord i 0#5 0#1 rm 0#4 0#4))
  | .vfsubImm rm g d a i => some (.wide (frameVec 17#5 9#4 0#6 a d g) (modWord i 1#5 0#1 rm 0#4 0#4))
  | .vfmulImm rm g d a i => some (.wide (frameVec 17#5 9#4 0#6 a d g) (modWord i 2#5 0#1 rm 0#4 0#4))
  | .vfminImm rm g d a i => some (.wide (frameVec 17#5 9#4 0#6 a d g) (modWord i 3#5 0#1 rm 0#4 0#4))
  | .vfmaxImm rm g d a i => some (.wide (frameVec 17#5 9#4 0#6 a d g) (modWord i 4#5 0#1 rm 0#4 0#4))
  | .vfmaImm rm g d a i => some (.wide (frameVec 17#5 9#4 0#6 a d g) (modWord i 5#5 0#1 rm 0#4 0#4))
  | .vfmsImm rm g d a i => some (.wide (frameVec 17#5 9#4 0#6 a d g) (modWord i 6#5 0#1 rm 0#4 0#4))
  | .vfdivImm rm g d a i => some (.wide (frameVec 17#5 9#4 0#6 a d g) (modWord i 7#5 0#1 rm 0#4 0#4))
  | .vfnmaImm rm g d a i => some (.wide (frameVec 17#5 9#4 0#6 a d g) (modWord i 15#5 0#1 rm 0#4 0#4))
  | .vhadd f rm sat g d a b => some (.wide (frameVec 18#5 8#4 b a d g) (modWord 0#16 0#5 sat rm 0#4 f))
  | .vhsub f rm sat g d a b => some (.wide (frameVec 18#5 8#4 b a d g) (modWord 0#16 1#5 sat rm 0#4 f))
  | .vhmul f rm sat g d a b => some (.wide (frameVec 18#5 8#4 b a d g) (modWord 0#16 2#5 sat rm 0#4 f))
  | .vhmin f rm sat g d a b => some (.wide (frameVec 18#5 8#4 b a d g) (modWord 0#16 3#5 sat rm 0#4 f))
  | .vhmax f rm sat g d a b => some (.wide (frameVec 18#5 8#4 b a d g) (modWord 0#16 4#5 sat rm 0#4 f))
  | .vhfma f rm sat g d a b => some (.wide (frameVec 18#5 8#4 b a d g) (modWord 0#16 5#5 sat rm 0#4 f))
  | .vcvt f f2 rm sat g d a => some (.wide (frameVec 19#5 8#4 0#6 a d g) (modWord 0#16 0#5 sat rm f2 f))
  | .vcvtPk f f2 rm sat j d a => some (.wide (frameVec 19#5 8#4 0#6 a d 0#3) (modWord (0#11 ++ j) 1#5 sat rm f2 f))
  | .vcvtUpk f f2 rm sat j d a => some (.wide (frameVec 19#5 8#4 0#6 a d 0#3) (modWord (0#11 ++ j) 2#5 sat rm f2 f))
  | .vcmpEq g p a b => some (.word (frameCmp 0#1 0#2 b a p g))
  | .vcmpNe g p a b => some (.word (frameCmp 0#1 1#2 b a p g))
  | .vcmpLt g p a b => some (.word (frameCmp 0#1 2#2 b a p g))
  | .vcmpLe g p a b => some (.word (frameCmp 0#1 3#2 b a p g))
  | .vcmpEqFmt f hi g p a b => some (.wide (frameCmp 1#1 0#2 b a p g) (modWord (0#15 ++ hi) 0#5 0#1 0#2 0#4 f))
  | .vcmpNeFmt f hi g p a b => some (.wide (frameCmp 1#1 0#2 b a p g) (modWord (0#15 ++ hi) 1#5 0#1 0#2 0#4 f))
  | .vcmpLtFmt f hi g p a b => some (.wide (frameCmp 1#1 0#2 b a p g) (modWord (0#15 ++ hi) 2#5 0#1 0#2 0#4 f))
  | .vcmpLeFmt f hi g p a b => some (.wide (frameCmp 1#1 0#2 b a p g) (modWord (0#15 ++ hi) 3#5 0#1 0#2 0#4 f))
  | .vcmpLtU g p a b => some (.wide (frameCmp 1#1 0#2 b a p g) (modWord 0#16 4#5 0#1 0#2 0#4 6#4))
  | .vcmpLeU g p a b => some (.wide (frameCmp 1#1 0#2 b a p g) (modWord 0#16 5#5 0#1 0#2 0#4 6#4))
  | .vcmpUn f hi g p a b => some (.wide (frameCmp 1#1 0#2 b a p g) (modWord (0#15 ++ hi) 6#5 0#1 0#2 0#4 f))
  | .vcmpOrd f hi g p a b => some (.wide (frameCmp 1#1 0#2 b a p g) (modWord (0#15 ++ hi) 7#5 0#1 0#2 0#4 f))
  | .vmov g d a => some (.word (frameVec 21#5 0#4 0#6 a d g))
  | .vsel n g d a b => some (.wide (frameVec 21#5 8#4 b a d g) (modWord (0#9 ++ n) 0#5 0#1 0#2 0#4 0#4))
  | .vperm g d a b => some (.wide (frameVec 21#5 8#4 b a d g) (modWord 0#16 1#5 0#1 0#2 0#4 0#4))
  | .vbcast n g d a => some (.wide (frameVec 21#5 8#4 0#6 a d g) (modWord (0#10 ++ n) 2#5 0#1 0#2 0#4 0#4))
  | .vshup n g d a b => some (.wide (frameVec 21#5 8#4 b a d g) (modWord (0#10 ++ n) 3#5 0#1 0#2 0#4 0#4))
  | .vshdn n g d a b => some (.wide (frameVec 21#5 8#4 b a d g) (modWord (0#10 ++ n) 4#5 0#1 0#2 0#4 0#4))
  | .vidx i g d => some (.wide (frameVec 21#5 8#4 0#6 0#6 d g) (modWord i 5#5 0#1 0#2 0#4 0#4))
  | .vredadd g d a b => some (.wide (frameVec 21#5 8#4 b a d g) (modWord 0#16 6#5 0#1 0#2 0#4 0#4))
  | .vredmin g d a b => some (.wide (frameVec 21#5 8#4 b a d g) (modWord 0#16 7#5 0#1 0#2 0#4 0#4))
  | .vredmax g d a b => some (.wide (frameVec 21#5 8#4 b a d g) (modWord 0#16 8#5 0#1 0#2 0#4 0#4))
  | .vfredadd rm g d a b => some (.wide (frameVec 21#5 8#4 b a d g) (modWord 0#16 9#5 0#1 rm 0#4 0#4))
  | .vfredmin g d a b => some (.wide (frameVec 21#5 8#4 b a d g) (modWord 0#16 10#5 0#1 0#2 0#4 0#4))
  | .vfredmax g d a b => some (.wide (frameVec 21#5 8#4 b a d g) (modWord 0#16 11#5 0#1 0#2 0#4 0#4))
  | .vbcasts g d a => some (.wide (frameVec 21#5 8#4 0#6 (0#1 ++ a) d g) (modWord 0#16 12#5 0#1 0#2 0#4 0#4))
  | .vpop g d q => some (.word (frameVec 22#5 0#4 q 0#6 d g))
  | .vpush g a q => some (.word (frameVec 22#5 1#4 q a 0#6 g))
  | .trow g d a t => some (.word (frameVec 22#5 2#4 (0#2 ++ t) (0#1 ++ a) d g))
  | .twrow g d a t => some (.word (frameVec 22#5 3#4 (0#2 ++ t) (0#1 ++ a) d g))
  | .tempty t => some (.word (frameVec 22#5 4#4 (0#2 ++ t) 0#6 0#6 0#3))
  | .tfill t => some (.word (frameVec 22#5 5#4 (0#2 ++ t) 0#6 0#6 0#3))
  | .twait t => some (.word (frameVec 22#5 6#4 (0#2 ++ t) 0#6 0#6 0#3))
  | .brc a o => some (encBr 23#5 0#3 0#5 a o)
  | .brcQ o => some (encBr 23#5 1#3 0#5 0#5 o)
  | .pand d a b => some (.word (framePred 0#4 b a d))
  | .por d a b => some (.word (framePred 1#4 b a d))
  | .pxor d a b => some (.word (framePred 2#4 b a d))
  | .pnot d a => some (.word (framePred 3#4 0#7 a d))
  | .pcnt s a b => some (.word (framePred 4#4 b a (0#2 ++ s)))
  | .pfirst d a => some (.word (framePred 5#4 0#7 a d))
  | .gmap p n g => some (.word (framePred 6#4 0#7 p (0#3 ++ n ++ g)))
  | .glean tag nv g a => some (.wide (frameVec 25#5 8#4 0#6 a 0#6 g) (modWord tag (0#3 ++ nv) 0#1 0#2 0#4 0#4))
  | .gdrain n nv m d => some (.wide (frameVec 25#5 9#4 0#6 0#6 d 0#3) (modWord (0#9 ++ n) (0#2 ++ m ++ nv) 0#1 0#2 0#4 0#4))
  | .nset f v => some (match v with | .reg a => .word (frameJob 26#5 0#1 0#1 0#1 0#3 (bits f 4 4) (bits f 0 4) a 0#5) | .lit l => .wide (frameJob 26#5 1#1 0#1 0#1 0#3 (bits f 4 4) (bits f 0 4) 0#5 0#5) l)
  | .mma u m f g d => some (.word (frameJob 26#5 0#1 u m 1#3 g f 0#5 d))
  | .mmag u m f g d => some (.word (frameJob 26#5 0#1 u m 2#3 g f 0#5 d))
  | .mmags u m f g d => some (.word (frameJob 26#5 0#1 u m 3#3 g f 0#5 d))
  | .plane u r g d => some (.word (frameJob 26#5 0#1 u 0#1 4#3 (0#3 ++ r) g 0#5 d))
  | .sacc u m f g a d => some (.word (frameJob 27#5 0#1 u m 0#3 g f a d))
  | .kld g a k => some (.word (frameJob 27#5 0#1 0#1 0#1 1#3 0#4 g a (0#1 ++ k)))
  | .drain u m f g d => some (.word (frameJob 27#5 0#1 u m 2#3 g f 0#5 d))
  | .gclr u a d => some (.word (frameJob 27#5 0#1 u 0#1 3#3 0#4 0#4 a d))
  | .copyj u d => some (.word (frameJob 28#5 0#1 u 0#1 0#3 0#4 0#4 0#5 d))
  | .jobw c a d => some (.word (frameJob 28#5 0#1 0#1 0#1 1#3 0#4 (0#3 ++ c) a d))
  | .publish a d => some (.word (frameJob 28#5 0#1 0#1 0#1 2#3 0#4 0#4 a d))
  | .rep b a d c => some (.word (0#10 ++ b ++ a ++ d ++ c ++ 0x77#7))
  | .hint h a d l => some (encHint h a d l)
  | .hintLoopBufferResident a d l => some (encHint 1#14 a d l)
  | .hintFreeQueueSlots a d l => some (encHint 2#14 a d l)
  | .hintPinRequest a d l => some (encHint 3#14 a d l)
  | .blk e c p r l => some (.word (frameBlk e c p r l))
  | .strandEnd => none
  | .userInterruptTake => none
  | .pauseExpiry => none
  | .hangCapture => none
  | .ldqEntryPush _ => none
  | .stqElementStore _ => none
  | .barwaitBoundExpiry => none
  | .jobHandoff _ => none
  | .blockEmit => none
  | .saccBufferRead => none
  | .tilePortClaim _ => none
  | .copyBarrierArrival _ => none
  | .jobRetire _ => none
  | .jobRunningFault _ _ _ => none
  | .remoteTimeout _ _ => none
  | .faultRecordPublish => none
  | .preemption _ => none
  | .sresumeResume _ _ => none
  | .sresumeEnd _ _ => none
  | .contextSave _ _ => none
  | .contextRestore _ _ => none
  | .expansionTableLoad _ _ => none
  | .expansionTableSwitch _ => none
  | .registerWrite _ _ _ _ => none
  | .xshoot _ _ _ => none
  | .shootdownComplete _ => none
  | .migration _ _ _ _ => none
  | .migrationCountHalving _ => none
  | .remoteRequest _ _ => none
  | .refusalNotice _ _ => none
  | .backoffExpiry _ _ => none
  | .reply _ _ => none
  | .lineEviction _ _ => none
  | .multicastMemberWrite _ _ _ => none
  | .multicastReply _ _ => none
  | .dataFlit _ _ => none
  | .marker _ _ => none
  | .acknowledgement _ _ => none
  | .negativeAcknowledgement _ _ => none
  | .rotationRequest _ => none
  | .kickclr _ _ => none
  | .nodestart _ _ => none
  | .loopPass _ _ => none
  | .eventNodeTest _ _ => none
  | .nodeend _ _ => none
  | .complete _ _ => none
  | .dispatch _ _ => none
  | .snap _ _ => none
  | .dispatcherFailure _ _ => none
  | .hlctlGo _ _ _ => none
  | .replayStop _ _ => none
  | .replayHandover _ => none
  | .speculationStart _ _ _ => none
  | .claim _ _ => none
  | .predctlFlush _ _ => none
  | .grantCreate _ _ _ => none
  | .mailboxNotify _ => none
  | .sreq _ _ => none
  | .barrier => none
  | .preempt => none
  | .flush => none
  | .vote _ => none
  | .commit => none
  | .release => none
  | .metadataScrub _ _ => none
  | .patrolScrub _ _ => none
  | .rbreq _ _ => none
  | .errinj _ _ _ => none
  | .powerUp => none
  | .ownctlClaim _ => none
  | .ownctlRelease _ _ => none
  | .packageReset _ => none
  | .frzThaw _ _ => none
  | .attctl _ _ => none
  | .swtrig _ => none
  | .externalPin => none
  | .thermalWarn _ _ => none
  | .thermalCrit _ _ => none
  | .hostWrite _ _ _ => none
  | .hostSnoop _ _ => none
  | .illegalEncoding => none
  | .packageRingLinkDown _ => none
  | .thermalRecovery _ _ => none
  | .traceSignal _ _ _ => none
  | .tentCreation _ => none
  | .ringRegistration _ => none
  | .grantRevocation _ _ => none
  | .ceilingLowering _ _ => none
  | .limitChange _ _ _ => none

/-- The instruction that the decoder reads from a row's bits, numbered as spec/opcode_table.json numbers them: the first
halfword's bits lowest, and zeros above `nbits`. -/
noncomputable def decodeTableWord (nbits w : Nat) : Option Instr :=
  let x : BitVec 64 := BitVec.ofNat 64 (w % 2 ^ nbits)
  (decodeBytes ((List.range 8).map fun k => (x >>> (8 * k)).setWidth 8)).map (·.1)

end Sys2Proof
end

