-- ==== Sys2Proof/Config.lean ====
section
/-!
DEFINITION. What an implementation or its signed manifest fixes and the spec gives no value for, and the free values.
Every constant here is opaque: nothing in the model or in a proof can see its value (assumption log 3 and 4).
-/
namespace Sys2Proof.Config

/-- A value the spec leaves open, drawn afresh at each use: the argument is the counter `State.fresh`, which the
use advances (assumption log 3). -/
opaque freeWord : Nat → BitVec 64

/-- A free choice of a small index among n candidates the spec leaves to the device (assumption log 3). -/
opaque freeIndex : Nat → Nat

/-- The 64 KiB frame firmware takes for a retired unit or for a new page table (R421); which one the spec leaves open. -/
opaque spareFrame : Nat → Nat

/-- The packages of the domain the manifest lists (R436 step 7, R88); the model's own package is always one of them. -/
opaque domainPackages : List Nat

/-- The package number that bring-up sets (R11, R436 step 6). -/
opaque packageNumber : BitVec 8

/-- Sizes and bases the manifest fixes and R386 and R425 show: journal copy A, journal copy B, checkpoint base. -/
opaque manifestJournalA : Nat → BitVec 64
opaque manifestJournalB : Nat → BitVec 64
opaque manifestCheckpoint : Nat → BitVec 64

/-- Where each die's undo log, silo and bivouac lie in its stacked DRAM (R13). -/
opaque manifestUndo : Nat → BitVec 64
opaque manifestSilo : Nat → BitVec 64
opaque manifestBivouac : Nat → BitVec 64

/-- The sizes the manifest sets for each die (R13): undo entries, and MiB of the silo, the bivouac and the checkpoint
area. -/
opaque manifestUndoCap : Nat → Nat
opaque manifestSiloMiB : Nat → BitVec 16
opaque manifestBivouacMiB : Nat → BitVec 16
opaque manifestCheckpointMiB : Nat → BitVec 16

/-- Whether a package of the domain reports capability 0x000B, native multicast (R373). -/
opaque nativeMulticast : Nat → Bool

/-- The rack-ring direction that bring-up sets for each destination package (R365). -/
opaque rackRoute : Nat → BitVec 1

/-- The physical core behind each logical core of a die, as the manifest's yield map names it (R9, R436 step 3). -/
opaque yieldMap : Nat → List Nat

/-- The seed that the PUF yields, the device's private key (R437), and the Ed448 public key of a private one. -/
opaque deviceSeed : List (BitVec 8)
opaque ed448Public : List (BitVec 8) → List (BitVec 8)

/-- The Ed448 signature of a private key over a message, and whether a public key verifies one; the curve arithmetic is not
evaluated (assumption log 15). -/
opaque ed448Sign : List (BitVec 8) → List (BitVec 8) → List (BitVec 8)
opaque ed448Verifies : List (BitVec 8) → List (BitVec 8) → List (BitVec 8) → Bool

/-- X448 for the links (R439): the private key derived from a device key for an agreement on a link, the public key that the
other end of the link shows, and the shared secret of a private and a public key (assumption log 15). -/
opaque x448Private : List (BitVec 8) → Nat → Nat → List (BitVec 8)
opaque x448Peer : Nat → Nat → List (BitVec 8)
opaque x448Shared : List (BitVec 8) → List (BitVec 8) → List (BitVec 8)

/-- Thermal thresholds of R444, from the manifest. -/
opaque thermWarn : Nat → BitVec 8
opaque thermCrit : Nat → BitVec 8

/-- Whether what a boot step needs of the hardware succeeds on a die: the boot store read, the PUF corrected, the yield map
applied, memory trained, the rings brought up (R436). -/
opaque bootStepPasses : Nat → Nat → Bool

/-- The images of the boot store by KIND, header and payload: 1 firmware, 2 expansion table, 3 manifest (R434, R436). -/
opaque bootImage : Nat → List (BitVec 8)

/-- The digest of the root public key that the boot ROM holds, and the key that is shown for it (R435). -/
opaque rootKeyDigest : List (BitVec 8)
opaque rootKey : List (BitVec 8)

/-- The firmware and the code key lists of a manifest's payload (R435), whose layout the spec does not give. -/
opaque firmwareKeys : List (BitVec 8) → List (List (BitVec 8))
opaque codeKeys : List (BitVec 8) → List (List (BitVec 8))

end Sys2Proof.Config
end

