-- ==== Sys2Proof/Machine/State.lean ====
section
/-!
DEFINITION. The state of the Thirok 940 as plain data: the strand whose turn it is, the other strands, and the
device around them (memory, page tables, tents, graph instances, dies, recovery). One package of eight dies (R9).
Every structure cites the rules that give its fields; INVENTORY.md lists them one by one with their reset values.
-/
namespace Sys2Proof.Machine

/-- A store of w-bit values by number: pairs with numbers strictly rising and no pair whose value is the 0 an unlisted
number reads as. -/
abbrev Cells (w : Nat) := List (Nat × BitVec w)

/-- The form every store has: numbers strictly rising and no listed zero. -/
def Cells.wf {w : Nat} : Cells w → Bool
  | [] => true
  | [(_, b)] => b != 0
  | (a, b) :: (a', b') :: m => b != 0 && a < a' && Cells.wf ((a', b') :: m)

/-- Memory as address and byte pairs (`Host.Cell`) in the one form of `Memory.wf`; an unlisted address reads 0
(assumption log 5). -/
abbrev Memory := List Host.Cell

/-- The form every memory has: addresses strictly rising and no listed zero. -/
abbrev Memory.wf (m : Memory) : Bool := Cells.wf (w := 8) m

/-- The three streams of a strand (R49). -/
inductive StreamId where
  | c
  | a
  | x
  deriving DecidableEq, Repr

/-- What a stream does (R22, R336): it has not begun or has ended, or it runs. A stalled stream is a running one whose
`stall` is not 0. -/
inductive RunState where
  | running
  | ended
  deriving DecidableEq, Repr

/-- An entry of the return stack (R192). -/
structure RetEntry where
  ret : Word
  hdr : Word
  left : BitVec 6
  pass : BitVec 6
  deriving DecidableEq, Repr

/-- The REP state of a stream (R163): the REP's address, its fields (R161) and the number of the next issue. -/
structure RepState where
  addr : Word
  ib : BitVec 3
  ia : BitVec 3
  id : BitVec 3
  last : BitVec 6
  issue : Nat
  deriving DecidableEq, Repr

/-- A BARWAIT in progress (R232): the object's place, whether it was counted in WAITERS, whether a completion has
released it, and its bound. -/
structure BarWait where
  loc : Nat × Nat
  counted : Bool
  released : Bool
  expired : Bool
  bound : BitVec 32
  deriving DecidableEq, Repr

/-- One stream of a strand: its scalar file (R51), program counter, block state (R157), return stack (R192), and the
state of an instruction in progress (R163, R197, R199, R232, R367; `claim` is the counter a ring operation has claimed
and not yet written, R243). `bodyEnd` is the address after the body of the
current block, which the header at `hdr` fixes (R156); while a REP is in progress `pc` stays at the REP (R170). -/
structure Stream where
  regs : Vector Word 32
  pc : Word
  hdr : Word
  bodyEnd : Word
  left : BitVec 6
  pass : BitVec 6
  atHeader : Bool
  run : RunState
  stall : Nat
  stallCycles : Nat
  stack : List RetEntry
  spl : Nat
  rsbase : Word
  rep : Option RepState
  drop : Option Nat
  pause : Nat
  barwait : Option BarWait
  reply : Option Nat
  claim : Option Word
  deriving DecidableEq, Repr

/-- A tile's state (R56) with the claiming source of Table 15-15: 0 X, 1 DRAIN, 2 copy job, 3 remote copy. -/
inductive TileState where
  | empty
  | claimed (src : BitVec 3)
  | full
  deriving DecidableEq, Repr

/-- A tile register: its state and its 16 KiB (R51, R271). -/
structure Tile where
  st : TileState
  data : Memory
  deriving DecidableEq, Repr

/-- An inter-stream queue (R61) as R335 shows it: its occupancy, the slot of its oldest entry, the next slot to be
pushed, and the slots; `pushed` counts the entries pushed so far, by which an access is told to be earlier than a token
(R95, R208). -/
structure Queue where
  occ : Nat
  head : Nat
  tail : Nat
  slots : Cells 2048
  pushed : Nat := 0
  deriving DecidableEq, Repr

/-- An unfinished LDQ or STQ stream (R217, R218); `held` is the entry an STQ has popped and not stored whole, `replies`
the tags an LDQ entry's remote elements wait for, `kinds` the ordering kinds of the pages its elements lie on (R91),
`tl` and `cp` the ordinals the jobs issued before it had reached (R95, R97), and `toks` the entries pushed before it into
sqac and bqc (R95, R208). A stream of queue 13 is a plain store that
Table 4-7 keeps behind an unfinished stream (R91): its one element is `held`. -/
structure QStream where
  store : Bool
  sext : Bool
  sz : BitVec 2
  base : Word
  shape : Word
  queue : Nat
  entry : Nat
  elem : Nat
  held : Option VReg
  replies : List Nat
  kinds : List Nat
  iaddr : Word
  tl : Nat
  cp : Nat
  toks : Nat × Nat := (0, 0)
  deriving DecidableEq, Repr

/-- A region of a job card (R280): length 0 is unused. -/
structure Region where
  base : Word
  len : BitVec 32
  deriving DecidableEq, Repr

/-- Where a card stands (R151, R152): queued, running on its unit, or finished and waiting for its turn to retire;
`faulted` holds a card that met a running fault (R294). -/
inductive CardPhase where
  | queued
  | running
  | finished
  | faulted
  deriving DecidableEq, Repr

/-- A job card (R280): Table 11-4, with its phase, the flags its arithmetic raised so far (R121), whether its barrier
arrival was performed and met an overrun (R150), the physical vector registers and predicates it leases (R59), its place in the strand's
issue order (R96), the strand its grant names as (die, STAG, SIX) (R149), the number of its egress reservation, 0 for
none (R419), the tiles it has claimed (R56), the tags of the requests a copy waits for (R367, R370), and its place among the finished thresher
jobs (R152). -/
structure Card where
  kind : BitVec 4
  fa : BitVec 4
  fb : BitVec 4
  im : BitVec 1
  ui : BitVec 1
  nbv : BitVec 8
  nest : Vector (BitVec 16) 6
  started : Bool
  ord : Nat
  regions : Vector Region 6
  params : List (Nat × Word)
  operand : Word
  row : VReg
  col : VReg
  phase : CardPhase
  flags : BitVec 5
  arrived : Bool
  overrun : Bool
  leaseV : BitVec 64
  leaseP : BitVec 96
  stamp : Nat
  target : Option (Nat × Nat × Nat)
  hold : Nat
  claims : List Nat
  tags : List Nat := []
  fin : Nat := 0
  deriving DecidableEq, Repr

/-- A fault record (R338, Table 15-9). -/
structure FaultRec where
  cause : BitVec 8
  src : BitVec 3
  sys : Bool
  defer : Bool
  detail : BitVec 16
  tid : BitVec 8
  iaddr : Word
  faddr : Word
  aux : Word
  core : BitVec 9
  pkg : BitVec 8
  stag : BitVec 16
  six : BitVec 3
  rin : BitVec 32
  deriving DecidableEq, Repr

/-- A delivery from another strand or a mailbox waiting at a tile port (R57, R319). -/
structure TileFill where
  tile : Nat
  bytes : List (Nat × Byte)
  deriving DecidableEq, Repr

/-- What a strand is: its place (R9, R11), its sheaf (R23, R26, R27), its grid position, stage and task (R30, R36,
R40), and its mode (R331). -/
structure Ident where
  pkg : BitVec 8
  die : BitVec 3
  clus : BitVec 3
  core : BitVec 3
  stag : BitVec 16
  six : BitVec 3
  scntM1 : BitVec 3
  cor : Bool
  gx : BitVec 16
  gy : BitVec 16
  gz : BitVec 16
  xm1 : BitVec 16
  ym1 : BitVec 16
  zm1 : BitVec 16
  stg : BitVec 3
  nstgM1 : BitVec 3
  ringin : Word
  ringout : Word
  tid : BitVec 8
  asid : BitVec 16
  pri : BitVec 4
  sys : Bool
  task : Nat
  deriving DecidableEq, Repr

/-- User-level interrupt state (R72, R73, Table 3-12). -/
structure UiState where
  pend : BitVec 8
  mask : Bool
  inh : Bool
  ovf : Bool
  srcs : BitVec 3
  vec : Word
  ret : Word
  hdr : Word
  pass : Word
  shadow : Vector Word 8
  deriving DecidableEq, Repr

/-- The job state of a strand: the shadow table (R279), the two job queues (R151), the ordinals issued (R277), the
sequence counts (R71), the ordinals of the copy jobs whose completion records an overrun (R150), and the deliveries waiting
at its tile ports (R57, R319). -/
structure JobState where
  table : Vector Word 256
  thq : List Card
  cpq : List Card
  issuedTl : Nat
  issuedCp : Nat
  seqcp : Word
  seqtl : Word
  overruns : List Nat
  fills : List TileFill
  deriving DecidableEq, Repr

/-- The run of a portable-form section on a strand (R180): the object's address, the section, the next element, and the
write slots the element's run has written so far. -/
structure Portable where
  base : Word
  wpf : List Byte
  elem : Nat
  wrote : List Nat
  deriving DecidableEq, Repr

/-- A strand on its core (R19, R51): present when `resident`; `frozen` by a fault (R337) with the records of the
freeze, how many of them are published (R338), the streams whose turn in the cycle of the freeze has passed (R341) and the
faults due at the access stream's next boundary (R215); `hung` when the freeze
holds its jobs too (R74); `ended` once it has ended (R22), `parked` when it was restored and not yet started (R348),
`spillReady` once its spill areas are committed (R192), `portable` when it runs a portable-form section (R180). Of a strand
saved through cfg.ctxop, `imageAt` are the parts of its image in memory as (offset, key, length) (R348). -/
structure Strand where
  id : Ident
  resident : Bool
  frozen : Bool
  hung : Bool
  ended : Bool
  parked : Bool
  spillReady : Bool
  portable : Option Portable
  faults : List FaultRec
  published : Nat
  turned : List StreamId
  deferred : List FaultRec
  ctl : Stream
  acc : Stream
  exe : Stream
  v : Vector VReg 64
  p : Vector (BitVec 64) 96
  gmap : Vector (BitVec 8) 8
  vrb : BitVec 5
  prb : BitVec 6
  tiles : Vector Tile 16
  k : Vector VReg 16
  queues : Vector Queue 13
  qstreams : List QStream
  glean : Cells 192
  gleanOcc : Nat
  gleanHead : Nat
  ld : Nat
  st : Nat
  ui : UiState
  fflags : BitVec 5
  nbv : BitVec 8
  pbst : Vector (BitVec 2) 4
  wptr : BitVec 2
  cptr : BitVec 2
  srt : Bool
  jobs : JobState
  ls : Memory
  gr : Memory
  spec : Option Nat
  ctxSt : BitVec 2
  snapshot : List Word
  table : BitVec 32
  imageAt : List (Nat × Nat × Nat) := []
  deriving DecidableEq, Repr

/-- A translation a TLB holds (R359), tagged by address space, page number and page size: the leaf, the level it was
found at, and the units of the page that were seen committed. -/
structure TlbEntry where
  asid : Nat
  page : Nat
  level : Nat
  leaf : Word
  seen : List Nat
  deriving DecidableEq, Repr

/-- A part of a remote access: bytes `start` to `start + len` of the access, at the place `key` names, of ordering kind
`pkind`; `line` says that it is fetched for the die's line cache (R367), `counted` that it counts toward migration
(R363), and `strand` names the strand that a grant sends it to, wherever that is when it is performed (R149). -/
structure ReqPart where
  start : Nat
  len : Nat
  key : Nat
  pkind : Nat
  line : Bool
  counted : Bool
  strand : Option (Nat × Nat × Nat) := none
  deriving DecidableEq, Repr

/-- A request of a strand to another die (R366, R370): kind 0 load, 1 store, 2 atomic, 3 multicast. `served` says that
the owner has accepted it, `dropped` that it was discarded for its age (R371, R372), `performed` that its effect stands,
`replied` that the reply has reached the requester; `onSt` that it counts on st and not on ld (R210), `job` that it is a copy
job's, with `mode` how its bytes are added (R142, R146). `bytes` are the bytes of the access, of a load those
read so far, `poison` the poisoned lines it read and `fetched` the cached lines it brings (R367), `value` the result of an
atomic. A multicast carries its group's members as (peer, address) and mode, `wrote` is the bitmap of those that have
performed the write, `bitmap` of those that have not acknowledged, and `value` of those its reply reports (R374). -/
structure Request where
  tag : Nat
  gen : BitVec 3
  age : Nat
  kind : BitVec 2
  core : Nat
  stag : BitVec 16
  six : BitVec 3
  parts : List ReqPart
  bytes : List Byte
  poison : List Nat
  fetched : List (Nat × BitVec 512)
  onSt : Bool
  refusals : Nat
  served : Bool
  dropped : Bool := false
  performed : Bool
  replied : Bool
  job : Bool := false
  mode : Nat := 0
  value : BitVec 128
  wrote : BitVec 16 := 0
  bitmap : BitVec 16
  members : List (Nat × Nat)
  chain : Bool
  iaddr : Word
  faddr : Word
  deriving DecidableEq, Repr

/-- A flit of a request that has timed out and is still under way (R371, R372): the request, and for an atomic not yet
performed the strand as it stood. -/
structure Stray where
  req : Request
  strand : Option Strand
  deriving DecidableEq, Repr

/-- A line of a die's remote line cache (R368), with the tents whose strands have touched it. -/
structure CacheLine where
  line : Nat
  tids : List (BitVec 8)
  data : BitVec 512
  dirty : BitVec 64
  present : BitVec 64
  deriving DecidableEq, Repr

/-- An undo entry (R410). -/
structure UndoEntry where
  line : Nat
  rin : BitVec 32
  otag : BitVec 8
  poison : Bool
  data : BitVec 512
  deriving DecidableEq, Repr

/-- An entry of the egress hold buffer (R418): its bytes with their places; `reserved` for a copy job's entry. -/
structure EgressEntry where
  line : Nat
  bytes : List (Nat × Byte)
  rin : BitVec 32
  owner : Option Nat
  deriving DecidableEq, Repr

/-- A grant table entry (R405). -/
structure Grant where
  idx : Nat
  gen : BitVec 3
  live : Bool
  spec : GrantSpec
  rin : BitVec 32
  deriving DecidableEq, Repr

/-- A launch doorbell (R305, Table 12-9); `ask` is TID and Q of the publication under way. -/
structure Doorbell where
  desc : Word
  args : Word
  busy : Bool
  st : BitVec 3
  ask : BitVec 11
  deriving DecidableEq, Repr

/-- A unit of dispatch (R380, R387): one sheaf, a stage group or a co-resident task, as the sheaves (x, y, z, stage) it
starts, or resumes when they are `saved`; `clus` is the cluster set of the RUN entry that handed it over (R395), 0 when
the dispatcher chooses. -/
structure DispUnit where
  task : Nat
  sheaves : List (Nat × Nat × Nat × Nat)
  level : Nat
  stamp : Nat
  popmark : Nat
  bank : Nat
  saved : Bool
  clus : Nat
  deriving DecidableEq, Repr

/-- A journal record (R381): its fields but for CRC, which the bytes fix; BODY as words of 4 bytes. -/
structure JournalRec where
  seq : Nat
  kind : BitVec 16
  tid : BitVec 8
  inst : BitVec 32
  body : List Nat
  deriving DecidableEq, Repr

/-- A dispatcher slot: the records of its journal from the newest snapshot on and the bytes of the journal's two copies
(R381), completion holding FIFO (R382), the units it has taken and holds (R383, R390), the last kick bit served
(R391), and the scheduler core that serves it (R379, R384). -/
structure Slot where
  seq : Nat
  journal : List JournalRec
  ringA : Memory
  ringB : Memory
  fifo : List Nat
  held : List DispUnit
  lastKick : Nat
  core : BitVec 2
  deriving DecidableEq, Repr

/-- The registers of a die control window beside those named elsewhere (Tables 15-2, 16-3, 17-2, 18-4, 19-1, 20-7), with where
the manifest puts the undo log, the silo and the bivouac (R13); `xtGen` is the whole generation of the expansion table in
force, whose low 8 bits cfg.xtctl shows (R351, R438; assumption log 96). -/
structure Window where
  hangto : BitVec 5
  traprcb : Word
  hangbuf : Word
  migthr : BitVec 16
  xtSt : BitVec 2
  xtGen : BitVec 32
  astbase : Word
  xsva : Word
  xsBusy : Bool
  xsDone : BitVec 16
  xsOp : Word
  ftimeout : BitVec 5
  late : BitVec 32
  sb : BitVec 2
  sbv : Bool
  tko : BitVec 16
  silo : BitVec 16
  biv : BitVec 16
  jrnl : Word
  jrnlb : Word
  dgen : BitVec 32
  predEn : Bool
  start : BitVec 16
  claim : BitVec 16
  drs : BitVec 16
  dmis : BitVec 16
  doth : BitVec 16
  sbto : BitVec 5
  undoCap : Nat
  seals : BitVec 32
  rolls : BitVec 16
  retired : BitVec 16
  ckbase : Word
  ckSize : BitVec 16
  injPaddr : Word
  temp : BitVec 8
  warn : BitVec 8
  crit : BitVec 8
  thr : Bool
  pwr : BitVec 16
  bootStep : BitVec 3
  bootReason : BitVec 4
  xtDigest : BitVec 512
  undoBase : Nat
  siloBase : Nat
  bivBase : Nat
  yieldMap : List Nat
  deriving DecidableEq, Repr

/-- One die: its window, its phases of a seal and of a rollback (R414, R421), its second-level TLB and the first-level
ones of its cores by package-wide number (R359), its fabric station, its undo
log (newest first), the bytes of the log's ring by offset in the carve-out and the number of entries appended (R410), its egress hold buffer, its ready structure (R387), its slots and its grant table. -/
structure Die where
  win : Window
  sph : BitVec 3
  rph : BitVec 3
  voted : Bool
  tlb : List TlbEntry
  l1 : List (Nat × List TlbEntry)
  requests : List Request
  strays : List Stray
  gens : List (Nat × BitVec 3)
  backoff : List (Nat × Nat)
  lines : List CacheLine
  undo : List UndoEntry
  undoRing : Memory
  undoNext : Nat
  egress : List EgressEntry
  migCount : List ((Nat × Nat) × Nat)
  migQueue : List (Nat × Nat)
  ready : List DispUnit
  enq : Vector Nat 12
  pops : Vector Nat 12
  stamp : Nat
  slot0 : Slot
  slot1 : Slot
  kicks : List Nat
  nextStag : BitVec 16
  grants : List Grant
  bells : Vector Doorbell 3
  trapWait : List FaultRec
  deriving DecidableEq, Repr

/-- A launch record of a device launch queue (R207): the header and argument words LAUNCH copied. -/
structure LaunchRec where
  desc : Word
  header : BitVec 512
  args : List Word
  handle : Word
  deriving DecidableEq, Repr

/-- A launch in the predictor's history (R399): the kernel identifier (0 for none) and the argument words, with the
priority after capping and the dies of its graph, which R400 predicts by, and whether the prediction made after it has
been started (assumption log 64). -/
structure HistEntry where
  kernel : BitVec 256
  args : List Word
  pri : Nat
  dies : List Nat
  spent : Bool
  deriving DecidableEq, Repr

/-- A tent (R37, R304, R379). -/
structure Tent where
  tid : Nat
  asid : Nat
  ceiling : BitVec 4
  home : Nat
  unsigned : Bool
  usedStk : BitVec 32
  limStk : BitVec 32
  usedLp : BitVec 32
  limLp : BitVec 32
  devq : List LaunchRec
  rings : List (Nat × Word)
  handles : List (Nat × Word)
  mailboxes : List Word
  hist : List (Nat × List HistEntry)
  persist : List (Nat × Nat)
  graphRings : List GraphRing
  deriving DecidableEq, Repr

/-- What firmware made a mapping for (R21, R192, R297, R313, R314, R412). -/
inductive MapOwner where
  | object (base : Word)
  | task (n : Nat)
  | instance_ (n : Nat)
  | tent (tid : Nat)
  | sheaf (die stag : Nat)
  | link (die producer consumer : Nat)
  deriving DecidableEq, Repr

/-- Pages that scheduler firmware maps itself: 64 KiB units from `base` on, in the frames from `key` on, with the leaf's
attribute bits [10:0]; `charged` when they count in USED. -/
structure Mapping where
  asid : Nat
  base : Word
  units : Nat
  key : Nat
  attrs : Nat
  owner : MapOwner
  charged : Bool
  deriving DecidableEq, Repr

/-- A published code object (R297, R298): where it lies, its block starts as byte offsets, its attribute record. -/
structure CodeObj where
  asid : Nat
  base : Word
  len : Nat
  sys : Bool
  entries : Vector (BitVec 32) 3
  starts : List Nat
  attr : List Byte
  digest : BitVec 256
  rin : BitVec 32
  deriving DecidableEq, Repr

/-- How far a node has come (R308): not started, waiting to be tested again (R310), running, done and about to end,
ended. -/
inductive NodePhase where
  | idle
  | waiting
  | running
  | done
  | ended
  deriving DecidableEq, Repr

/-- A node of an instance: its record (R301), its phase, the passes a loop has begun (R309) and the range a control
node selected (R302). -/
structure NodeState where
  record : BitVec 512
  phase : NodePhase
  passes : Nat
  range : Nat × Nat
  deriving DecidableEq, Repr

/-- A trace entry (R394), bits as in Table 17-4. -/
abbrev TraceEntry := BitVec 128

/-- A recorded schedule (R394): its key, its refinement count and each die's lane. -/
structure Trace where
  tid : Nat
  hash : BitVec 128
  refined : Nat
  lanes : List (Nat × List TraceEntry)
  lastUse : Nat
  deriving DecidableEq, Repr

/-- What replay holds for an instance (R392, R395, R396, R398): its shape hash, the trace it replays as it stood at
acceptance, the recorded guard values, whether it is recording or replaying, each lane's place, the semaphores, the dies
that stopped, and the units that wait for their RUN entries. -/
structure ReplayState where
  hash : BitVec 128
  trace : Option Trace
  guards : List Word
  recording : Bool
  replaying : Bool
  entries : List (Nat × TraceEntry)
  places : List (Nat × Nat)
  sems : List ((Nat × Nat) × Nat)
  stopping : Bool
  stopped : List Nat
  failed : Bool
  pending : List DispUnit
  deriving DecidableEq, Repr

/-- A graph instance (R300 to R310), with the blocks of its rings (R313) and whether it waits for a claim (R402). A
nonzero `code` while it runs says that it has failed and waits for its running tasks (R306). -/
structure Instance where
  num : Nat
  tid : Nat
  queue : Nat
  handle : Word
  state : BitVec 4
  code : BitVec 8
  node : BitVec 16
  loopcap : Bool
  header : BitVec 512
  edges : List (Nat × Nat)
  guards : List (Nat × Nat)
  nodes : List NodeState
  args : List Word
  rin : BitVec 32
  replay : Option ReplayState
  rings : List Nat
  claiming : Bool
  deriving DecidableEq, Repr

/-- A task (R28): a kernel node's run. -/
structure Task where
  num : Nat
  inst : Nat
  node : Nat
  tid : Nat
  sys : Bool
  obj : Word
  gx : Nat
  gy : Nat
  gz : Nat
  strands : Nat
  stages : Nat
  cor : Bool
  pri : Nat
  spec : Option Nat
  args : List Word
  argBlock : Word
  total : Nat
  ended : Nat
  failed : Bool
  dies : List Nat
  deriving DecidableEq, Repr

/-- A resident or saved sheaf (R26): its tag, its task and position, how many of its strands have ended, whether it is
asked to stop for a pre-emption (step 1 of Table 15-13), and the number of its latest placement (R390). -/
structure Sheaf where
  die : Nat
  stag : BitVec 16
  task : Nat
  x : Nat
  y : Nat
  z : Nat
  stage : Nat
  cores : List Nat
  endedStrands : Nat
  saved : Bool
  stopping : Bool
  placed : Nat
  deriving DecidableEq, Repr

/-- A speculation of a launch queue (R401): its predicted launch, its bivouac bytes, the uncommitted TV units they lie in
(R402), its read set (exact lines and filter bits), whether a monitored write made it stale and whether it has ended. -/
structure Speculation where
  num : Nat
  tid : Nat
  queue : Nat
  die : Nat
  pri : Nat
  kernel : BitVec 256
  args : List Word
  writes : Memory
  written : List Nat
  units : List Nat
  readSet : List Nat
  filter : List Nat
  stale : Bool
  ended : Bool
  deriving DecidableEq, Repr

/-- A seal's checkpoint data (R411, R414, R421): what a rollback returns to; `pages` are the persistent regions as the device
holds them. -/
structure Checkpoint where
  rin : BitVec 32
  persist : List ((Nat × Nat) × Memory)
  pages : List (Nat × Nat × Nat)
  tents : List Tent
  maps : List Mapping
  instances : List Instance
  tasks : List Task
  sheaves : List Sheaf
  images : List Strand
  ready : List (List DispUnit)
  seqs : List (Nat × Nat)
  kicks : List (List Nat)
  lastKicks : List (Nat × Nat)
  eosWait : List ((Nat × Nat) × BitVec 8)
  deriving DecidableEq, Repr

/-- One direction of a rack-ring link (R375 to R377): the two key slots (key, salt, installed, counter), the sender's slot,
the retry buffer as (sequence, marker, slot, counter), the receiver's next sequence and expected slot, the failures
of the flit it waits for, whether it is discarding, and whether the link is up. -/
structure Link where
  keys : Vector (BitVec 256) 2
  salts : Vector (BitVec 32) 2
  installed : Vector Bool 2
  ctr : Vector Nat 2
  txSlot : BitVec 1
  nextSeq : Nat
  retry : List (Nat × Bool × BitVec 1 × Nat)
  inFlight : List (Nat × Bool × BitVec 1 × Nat)
  rxNext : Nat
  rxSlot : BitVec 1
  fails : Nat
  discarding : Bool
  rotate : Bool
  up : Bool
  deriving DecidableEq, Repr

/-- The package-wide management state: ownership, dispatch open and identity (R436, R441, Table 20-4), attestation (R438), the lantern
trigger (R442), the MSI-X vectors raised (R443). -/
structure Manage where
  owner : BitVec 2
  frz : BitVec 3
  isOpen : Bool
  ident : BitVec 128
  attBusy : Bool
  attDone : Bool
  armed : Bool
  en : BitVec 4
  src : BitVec 4
  latching : Bool
  msix : List Nat
  attReq : Option (Nat × Word)
  deriving DecidableEq, Repr

/-- A SEALW in progress (R248, R416): the strand, the address and bytes of its store, its destination, whether the
seal it forced has committed, and then the places its bytes go to. -/
structure SealwReq where
  die : Nat
  stag : Nat
  six : Nat
  ea : Word
  bytes : List Byte
  d : Reg
  committed : Bool
  out : List (Nat × Byte)
  deriving DecidableEq, Repr

/-- The device around the strands. Physical memory is keyed by peer × 2^52 + physical address (R352); `tags` and
`poison` are the per-line metadata (R408, R420), an unlisted line's tag being `baseTag`; `notices` are mailbox
notifications not yet delivered as (RCB place, payload) (R319); `eosWait` are end-of-stream records waiting for room in
a stage link as (name of the RCB's place, tent) (R34); `sealw` are the SEALWs that the next seal serves (R416);
`checkpoint` is what a rollback returns to, none the end of boot (R406), `pending` what FLUSH has copied for a seal not
yet committed; `restored` are the lines a rollback restored poisoned (R423); `persistPages` the persistent regions
as (place, bytes, tent), 256 + n standing for the trap ring of die n (R411, R412); lines are numbered key / 64; `routes` is the
rack ring that bring-up set for each other package, 0 the clockwise one (R365); `away` are the undo entries that dies of the
domain's other packages hold for lines this package has written there (R107, R408). -/
structure Device where
  pkg : BitVec 8
  mem : Memory
  tags : List (Nat × BitVec 8)
  baseTag : BitVec 8
  poison : List Nat
  restored : List Nat
  rin : BitVec 32
  dies : Vector Die 8
  tents : List Tent
  objects : List CodeObj
  maps : List Mapping
  instances : List Instance
  tasks : List Task
  sheaves : List Sheaf
  images : List Strand
  silo : List Trace
  specs : List Speculation
  persistPages : List (Nat × Nat × Nat)
  checkpoint : Option Checkpoint
  pending : Option Checkpoint
  sealReq : Bool
  nextSeal : Bool
  sealw : List SealwReq
  failed : Bool
  serial : Nat
  links : List Link
  man : Manage
  notices : List (Nat × List Byte)
  eosWait : List ((Nat × Nat) × BitVec 8)
  routes : List (Nat × BitVec 1)
  away : List UndoEntry
  deriving DecidableEq, Repr

/-- Whose turn it is when the agenda names nobody: a stream, or the engines of the current core. -/
inductive Turn where
  | stream (t : StreamId)
  | engine
  deriving DecidableEq, Repr

/-- An entry of the agenda: the package-wide number of the core that becomes current, and the step it takes, a stream's
next instruction or an event of the table (assumption log 2); or scheduler firmware's launch of a system task from the
code object at `obj` on a die at a level (R331, R332). -/
inductive Move where
  | stream (core : Nat) (t : StreamId)
  | event (core : Nat) (i : Instr)
  | system (die : Nat) (obj : Word) (args : List Word) (level : Nat)
  deriving DecidableEq, Repr

/-- The machine. `cur` is the strand of the current core and `others` the strands of the other cores that hold one,
`turn` whose turn it is, `agenda` the moves the outside world and the interleaving dictate next, `fresh` the counter
the free values are drawn by (the model's own, assumption log 3). -/
structure State where
  cur : Strand
  others : List Strand
  turn : Turn
  agenda : List Move
  dev : Device
  fresh : Nat
  deriving DecidableEq, Repr

/-! ### The state after reset -/

/-- A stream at strand start but for its entry block (R20, R445): registers zero, no block begun, ended. -/
def Stream.blank : Stream :=
  { regs := Vector.replicate 32 0, pc := 0, hdr := 0, bodyEnd := 0, left := 0, pass := 0, atHeader := true,
    run := .ended, stall := 0, stallCycles := 0, stack := [], spl := 0, rsbase := 0, rep := none, drop := none,
    pause := 0, barwait := none, reply := none, claim := none }

/-- An identity of zeros (assumption log 6). -/
def Ident.blank : Ident :=
  { pkg := 0, die := 0, clus := 0, core := 0, stag := 0, six := 0, scntM1 := 0, cor := false, gx := 0, gy := 0, gz := 0,
    xm1 := 0, ym1 := 0, zm1 := 0, stg := 0, nstgM1 := 0, ringin := 0, ringout := 0, tid := 0, asid := 0, pri := 0,
    sys := false, task := 0 }

/-- The strand state of R20: everything zero or empty, p0 all ones, every alias bound to p0. -/
def Strand.blank : Strand :=
  { id := Ident.blank, resident := false, frozen := false, hung := false, ended := false, parked := false,
    spillReady := true, portable := none, faults := [], published := 0, turned := [], deferred := [],
    ctl := Stream.blank, acc := Stream.blank, exe := Stream.blank, v := Vector.replicate 64 0,
    p := Vector.replicate 96 0, gmap := Vector.replicate 8 0, vrb := 0, prb := 0,
    tiles := Vector.replicate 16 { st := .empty, data := [] }, k := Vector.replicate 16 0,
    queues := Vector.replicate 13 { occ := 0, head := 0, tail := 0, slots := [] }, qstreams := [], glean := [],
    gleanOcc := 0, gleanHead := 0, ld := 0, st := 0,
    ui := { pend := 0, mask := false, inh := false, ovf := false, srcs := 0, vec := 0, ret := 0, hdr := 0, pass := 0,
            shadow := Vector.replicate 8 0 },
    fflags := 0, nbv := 0, pbst := Vector.replicate 4 0, wptr := 0, cptr := 0, srt := false,
    jobs := { table := Vector.replicate 256 0, thq := [], cpq := [], issuedTl := 0, issuedCp := 0,
              seqcp := 0, seqtl := 0, overruns := [], fills := [] },
    ls := [], gr := [], spec := none, ctxSt := 0, snapshot := [], table := 0 }

/-- The registers of a die control window after reset (Tables 15-4, 15-7, 16-3, 16-5, 17-2, 18-4, 19-1, 20-7). -/
def Window.blank : Window :=
  { hangto := 24, traprcb := 0, hangbuf := 0, migthr := 0x1000, xtSt := 0, xtGen := 0, astbase := 0, xsva := 0,
    xsBusy := false, xsDone := 0, xsOp := 0, ftimeout := 22, late := 0, sb := 2, sbv := true, tko := 0, silo := 1024,
    biv := 64, jrnl := 0, jrnlb := 0, dgen := 0x9E3779B9, predEn := true, start := 0, claim := 0, drs := 0, dmis := 0,
    doth := 0, sbto := 22, undoCap := 67108864, seals := 0, rolls := 0, retired := 0, ckbase := 0, ckSize := 768,
    injPaddr := 0, temp := 0, warn := 0, crit := 0, thr := false, pwr := 0, bootStep := 0, bootReason := 0, xtDigest := 0
    undoBase := 0, siloBase := 0, bivBase := 0, yieldMap := [] }

/-- A dispatcher slot after reset, served by the given scheduler core (R379). -/
def Slot.blank (core : BitVec 2) : Slot :=
  { seq := 0, journal := [], ringA := [], ringB := [], fifo := [], held := [], lastKick := 0, core := core }

/-- A die after reset. -/
def Die.blank : Die :=
  { win := Window.blank, sph := 0, rph := 0, voted := false, tlb := [], l1 := [], requests := [], strays := [], gens := [],
    backoff := [], lines := [], undo := [], undoRing := [], undoNext := 0, egress := [], migCount := [], migQueue := [], ready := [],
    enq := Vector.replicate 12 0, pops := Vector.replicate 12 0, stamp := 0, slot0 := Slot.blank 0,
    slot1 := Slot.blank 1, kicks := [], nextStag := 0, grants := [],
    bells := Vector.replicate 3 { desc := 0, args := 0, busy := false, st := 0, ask := 0 }, trapWait := [] }

/-- The package-wide management state after reset (Tables 20-4 and 20-6). -/
def Manage.blank : Manage :=
  { owner := 0, frz := 0, isOpen := false, ident := 0, attBusy := false, attDone := false,
    armed := false, en := 0, src := 0, latching := false, msix := [], attReq := none }

/-- The device after reset. -/
def Device.blank : Device :=
  { pkg := 0, mem := [], tags := [], baseTag := 0xFF, poison := [], restored := [], rin := 0, dies := Vector.replicate 8 Die.blank,
    tents := [], objects := [], maps := [], instances := [], tasks := [], sheaves := [], images := [], silo := [], specs := [],
    persistPages := [], checkpoint := none, pending := none, sealReq := false, nextSeal := false, sealw := [],
    failed := false, serial := 0, links := [], man := Manage.blank, notices := [],
    eosWait := [], routes := [], away := [] }

/-- The machine right after reset: no strand is resident, every register at the value its rule gives, and 0 where no
rule gives one (assumption log 6). -/
def State.reset : State :=
  { cur := Strand.blank, others := [], turn := .stream .c, agenda := [], dev := Device.blank, fresh := 0 }

/-- Why the machine stops. -/
inductive Fault where
  /-- Raised by `step` alone, with the domain in FAIL and nothing on the agenda: "the domain stops until it is reset"
  (R420). A package reset on the agenda leaves FAIL (R441). Safe: the spec says that the domain stops. -/
  | domainFailed
  deriving DecidableEq, Repr

/-- Why a step has no meaning. -/
inductive Refusal where
  /-- Raised by an arm of `exec` whose instruction has no meaning yet. Safe. -/
  | notModelled (mnemonic : String)
  deriving DecidableEq, Repr

end Sys2Proof.Machine
end

