-- ==== Sys2Proof/Machine/Ops.lean ====
section
/-!
DEFINITION. The named operations over registers, memory and streams that every meaning is written with: sparse stores,
scalar registers (R52), the block and REP state at the end of an instruction (R157, R163), stalls (R74), taking an
exception as one operation (R337 to R341), and the free values.
-/
namespace Sys2Proof.Machine

/-- The result of a step. -/
abbrev Res := Host.Outcome State Fault Refusal

/-! ### Sparse stores and memory -/

/-- The value at number `a`. -/
def Cells.get {w : Nat} : Cells w → Nat → BitVec w
  | [], _ => 0
  | (k, b) :: m, a => if a < k then 0 else if a == k then b else Cells.get m a

/-- The store with the value at number `a` replaced, in the one form of `Cells.wf`. -/
def Cells.set {w : Nat} : Cells w → Nat → BitVec w → Cells w
  | [], a, b => if b == 0 then [] else [(a, b)]
  | (k, c) :: m, a, b =>
    if a < k then (if b == 0 then (k, c) :: m else (a, b) :: (k, c) :: m)
    else if a == k then (if b == 0 then m else (a, b) :: m)
    else (k, c) :: Cells.set m a b

/-- The byte at an address. -/
def Memory.get (m : Memory) (a : Nat) : Byte := Cells.get (w := 8) m a

/-- The memory with one byte written. -/
def Memory.set (m : Memory) (a : Nat) (b : Byte) : Memory := Cells.set (w := 8) m a b

/-- Bytes written one after another from `a` up. -/
def Memory.put (m : Memory) (a : Nat) : List Byte → Memory
  | [] => m
  | b :: bs => Memory.put (Memory.set m a b) (a + 1) bs

/-- The `n` bytes from `a` up. -/
def Memory.bytes (m : Memory) (a : Nat) : Nat → List Byte
  | 0 => []
  | n + 1 => Memory.get m a :: Memory.bytes m (a + 1) n

/-- Bytes as a number, the first lowest (R2). -/
def leNat : List Byte → Nat
  | [] => 0
  | b :: bs => b.toNat + 256 * leNat bs

/-- The low `n` bytes of a number, the lowest first (R2). -/
def natLe : Nat → Nat → List Byte
  | 0, _ => []
  | n + 1, v => BitVec.ofNat 8 v :: natLe n (v / 256)

/-- The 16- or 32-bit words of a list of bytes, `w` bytes each. -/
def chunks (w : Nat) : Nat → List Byte → List Nat
  | 0, _ => []
  | n + 1, bs => leNat (bs.take w) :: chunks w n (bs.drop w)

/-- Eight bytes of a word. -/
def bytes8 (w : Word) : List Byte := natLe 8 w.toNat

/-- A little-endian word of `n` bytes. -/
def Memory.nat (m : Memory) (a n : Nat) : Nat := leNat (Memory.bytes m a n)

/-- A 64-bit word. -/
def Memory.w64 (m : Memory) (a : Nat) : Word := BitVec.ofNat 64 (Memory.nat m a 8)

/-- A range set to zero. -/
def Memory.clear (m : Memory) (a n : Nat) : Memory := m.filter fun c => c.1 < a || a + n ≤ c.1

/-- The listed bytes of a range, by their offset in it. -/
def Memory.slice (m : Memory) (a n : Nat) : Memory :=
  (m.filter fun c => a ≤ c.1 && c.1 < a + n).map fun c => (c.1 - a, c.2)

/-- Bytes written at the places their numbers give. -/
def Memory.scatter (m : Memory) : List (Nat × Byte) → Memory
  | [] => m
  | c :: cs => Memory.scatter (Memory.set m c.1 c.2) cs

/-- A range replaced by a slice of its own length. -/
def Memory.paste (m : Memory) (a n : Nat) (c : Memory) : Memory :=
  (m.filter fun x => x.1 < a) ++ (c.map fun x => (a + x.1, x.2)) ++ m.filter fun x => a + n ≤ x.1

/-- The nonzero bytes of a list, listed from `a` up. -/
def listed (a : Nat) : List Byte → Memory
  | [] => []
  | b :: bs => if b == 0 then listed (a + 1) bs else (a, b) :: listed (a + 1) bs

/-- A whole block written at once. -/
def Memory.blit (m : Memory) (a : Nat) (bs : List Byte) : Memory :=
  Memory.paste m a bs.length (listed 0 bs)

/-- The value under a key of an association list. -/
def lookupD {α β : Type} [BEq α] (d : β) : List (α × β) → α → β
  | [], _ => d
  | (k, v) :: m, a => if k == a then v else lookupD d m a

/-- The association list with the value under a key replaced. -/
def insertKey {α β : Type} [BEq α] (m : List (α × β)) (a : α) (v : β) : List (α × β) :=
  (a, v) :: m.filter fun c => !(c.1 == a)

/-- An element of a vector by number. -/
def vget {α : Type} {n : Nat} (v : Vector α n) (i : Nat) (d : α) : α := (v[i]?).getD d

/-- The numbers 0 to n - 1. -/
abbrev upto (n : Nat) : List Nat := List.range n

/-- An element put into a sorted list before the first that it goes before. -/
def insertBy {α : Type} (le : α → α → Bool) (a : α) : List α → List α
  | [] => [a]
  | b :: rest => if le a b then a :: b :: rest else b :: insertBy le a rest

/-- A list in an order, equal elements as they stood. -/
def sortBy {α : Type} (le : α → α → Bool) (l : List α) : List α := l.foldr (insertBy le) []

/-! ### Streams of the current strand -/

/-- The number of a stream in fault records (Table 15-9). -/
def StreamId.num : StreamId → Nat
  | .c => 0
  | .a => 1
  | .x => 2

/-- A stream of a strand. -/
def Strand.stream (k : Strand) : StreamId → Stream
  | .c => k.ctl
  | .a => k.acc
  | .x => k.exe

/-- A strand with one stream replaced. -/
def Strand.setStream (k : Strand) (t : StreamId) (x : Stream) : Strand :=
  match t with
  | .c => { k with ctl := x }
  | .a => { k with acc := x }
  | .x => { k with exe := x }

/-- The stream that issues: the one whose turn it is. -/
def State.who (s : State) : StreamId :=
  match s.turn with
  | .stream t => t
  | .engine => .c

/-- The issuing stream. -/
def State.me (s : State) : Stream := s.cur.stream s.who

/-- The machine with the issuing stream replaced. -/
def State.setMe (s : State) (x : Stream) : State := { s with cur := s.cur.setStream s.who x }

/-- The machine with the current strand replaced. -/
def State.setCur (s : State) (k : Strand) : State := { s with cur := k }

/-- The machine with its device replaced. -/
def State.setDev (s : State) (d : Device) : State := { s with dev := d }

/-- A scalar register: s0 reads zero (R52, R184). -/
def Stream.get (x : Stream) (r : Reg) : Word := if r = 0 then 0 else x.regs[r.toNat]'r.isLt

/-- A write to a scalar register: a write to s0 has no effect (R52, R184). -/
def Stream.put (x : Stream) (r : Reg) (v : Word) : Stream :=
  if r = 0 then x else { x with regs := x.regs.set r.toNat v r.isLt }

/-- s[r] of the issuing stream (R184). -/
def State.rd (s : State) (r : Reg) : Word := s.me.get r

/-- s[r] := v of the issuing stream (R184). -/
def State.wr (s : State) (r : Reg) (v : Word) : State := s.setMe (s.me.put r v)

/-- The register after `r`, for the pairs of R227. -/
def Reg.next (r : Reg) : Reg := r + 1

/-! ### The end of an instruction -/

/-- Where a stream goes on from: at the end of the body the next pass or the halfword after the body (R157). -/
def Stream.settle (x : Stream) (next : Word) : Stream :=
  if next = x.bodyEnd then
    if x.left = 0 then { x with pc := next, atHeader := true }
    else { x with pc := x.hdr + 4, left := x.left - 1, pass := x.pass + 1 }
  else { x with pc := next }

/-- A stream that has not stalled, or has stopped stalling. -/
def Stream.calm (x : Stream) : Stream := { x with stall := 0, stallCycles := 0 }

/-- A stream after an instruction of `len` bytes: the next issue of a REP (R161, R163), the next instruction, the next
pass or the end of the body. -/
def Stream.done (x : Stream) (len : Nat) : Stream :=
  match x.rep with
  | some r =>
    if r.issue < r.last.toNat then { x.calm with rep := some { r with issue := r.issue + 1 } }
    else { x.calm with rep := none }.settle (x.pc + 4 + BitVec.ofNat 64 len)
  | none => x.calm.settle (x.pc + BitVec.ofNat 64 len)

/-- The issuing stream has completed an instruction of `len` bytes. -/
def State.complete (s : State) (len : Nat) : State := s.setMe (s.me.done len)

/-- Two strands of one sheaf (R26). -/
def Ident.mates (a b : Ident) : Bool := a.pkg == b.pkg && a.die == b.die && a.stag == b.stag

/-- The package-wide number of a core (R11). -/
def Ident.coreNum (i : Ident) : BitVec 9 := i.die ++ i.clus ++ i.core

/-- A die by number. -/
def Device.die (d : Device) (n : Nat) : Die := vget d.dies n Die.blank

/-- The device with a die replaced. -/
def Device.setDie (d : Device) (n : Nat) (x : Die) : Device := { d with dies := d.dies.setIfInBounds n x }

/-- The die of the current strand. -/
def State.myDie (s : State) : Die := s.dev.die s.cur.id.die.toNat

/-- The machine with the die of the current strand replaced. -/
def State.setMyDie (s : State) (x : Die) : State := s.setDev (s.dev.setDie s.cur.id.die.toNat x)

/-- A seal or a rollback of the domain is in progress, by the phase of the current strand's die (R414, R421). -/
def State.sealing (s : State) : Bool := s.myDie.sph != 0

/-- Whether a stalled cycle of this kind counts toward the hang time-out (R341, R417). -/
def State.stallCounts (s : State) (kind : Nat) : Bool :=
  !(s.others.any fun o => o.id.mates s.cur.id && o.frozen) && !(kind == 7 && s.sealing)

/-- The issuing stream stalls: nothing of its instruction is performed and it executes again (R74, Table 3-7). -/
def State.stallOn (s : State) (kind : Nat) : State :=
  let x := s.me
  s.setMe { x with stall := kind, stallCycles := if s.stallCounts kind then x.stallCycles + 1 else x.stallCycles }

/-- The issuing stream waits on no condition of Table 3-7: its instruction executes again, and a stall before it is over (R74). -/
def State.idle (s : State) : State := s.setMe s.me.calm

/-! ### Taking an exception -/

/-- The address a fault record gives for the instruction of a stream: the REP that heads it, or the instruction
(Table 15-9); `pc` stays at the REP while one is in progress. -/
def Stream.iaddr (x : Stream) : Word := x.pc

/-- AUX of a fault of a REP target at issue i: i in [63:48], the cause's own AUX below (Table 15-10). -/
def Stream.aux (x : Stream) (aux : Word) : Word :=
  match x.rep with
  | some r => BitVec.ofNat 16 r.issue ++ aux.setWidth 48
  | none => aux

/-- A fault record against the current strand (Table 15-9). -/
def State.faultRec (s : State) (cause : BitVec 8) (src : Nat) (defer : Bool) (detail : BitVec 16)
    (iaddr faddr aux : Word) : FaultRec :=
  let i := s.cur.id
  { cause := cause, src := BitVec.ofNat 3 src, sys := i.sys, defer := defer, detail := detail, tid := i.tid,
    iaddr := iaddr, faddr := faddr, aux := aux, core := i.coreNum, pkg := i.pkg, stag := i.stag, six := i.six,
    rin := s.dev.rin }

/-- The strand freezes with a record that waits in the core to be published (R337, R338). -/
def State.freeze (s : State) (r : FaultRec) : State :=
  s.setCur { s.cur with frozen := true, faults := s.cur.faults ++ [r] }

/-- TAKING AN EXCEPTION: the issuing stream raises a precise fault. The strand freezes, the record saves the address of
the instruction and what Table 15-10 asks for, and nothing else of the instruction is performed (R337 to R340). The
supervisor receives the record through the trap ring and ends the freeze through cfg.sresume (R339). -/
def State.fault (s : State) (cause : BitVec 8) (detail : BitVec 16) (faddr aux : Word) : State :=
  s.freeze (s.faultRec cause s.who.num false detail s.me.iaddr faddr (s.me.aux aux))

/-- An illegal-encoding fault (cause 0x01). -/
def State.illegal (s : State) : State := s.fault 0x01 0 0 0

/-- RETURN FROM AN EXCEPTION, the part in the strand: RESUME unfreezes it (R339). A stream that raised a breakpoint goes
on past its TRAP, whose two halfwords it steps over (R204). -/
def Strand.unfreeze (k : Strand) : Strand :=
  { k with frozen := false, hung := false, faults := [], published := 0, turned := [] }

/-- The stream past a TRAP that the record names (R204, R339). -/
def Strand.pastTrap (k : Strand) (r : FaultRec) : Strand :=
  if r.cause == 0x12 then
    match r.src.toNat with
    | 0 => { k with ctl := k.ctl.done 4 }
    | 1 => { k with acc := k.acc.done 4 }
    | 2 => { k with exe := k.exe.done 4 }
    | _ => k
  else k

/-- Every record of a frozen strand handled as RESUME does. -/
def Strand.resumeAll (k : Strand) : Strand := (k.faults.foldl Strand.pastTrap k).unfreeze

/-! ### Free values -/

/-- The next free value (assumption log 3). -/
def State.free (s : State) : Word := Config.freeWord s.fresh

/-- The machine after a free value has been used. -/
def State.drew (s : State) : State := { s with fresh := s.fresh + 1 }

/-! ### User-level interrupts, flags -/

/-- An interrupt becomes pending from source bit `b` of SRCS (R72, Table 3-12): PEND saturates at 255 and OVF marks it. -/
def UiState.raise (u : UiState) (b : Nat) : UiState :=
  let u := { u with srcs := u.srcs ||| (1#3 <<< b) }
  if u.pend = 255 then { u with ovf := true } else { u with pend := u.pend + 1 }

/-- An interrupt becomes pending for the current strand. -/
def State.raiseUi (s : State) (b : Nat) : State := s.setCur { s.cur with ui := s.cur.ui.raise b }

/-- Flags of cfg.fflags are raised: they are sticky (R121). -/
def State.raiseFlags (s : State) (f : BitVec 5) : State := s.setCur { s.cur with fflags := s.cur.fflags ||| f }

end Sys2Proof.Machine
end

