-- ==== Sys2Proof/Machine/Hash.lean ====
section
/-!
DEFINITION. SHAKE256 of R297 and of the hashes that cite it, as FIPS 202 defines it, and the CRC-32C of journal records
(R381).
-/
namespace Sys2Proof.Machine

/-- The 1600 bits of the sponge, lane (x, y) at 64 (x + 5 y). -/
abbrev Sponge := BitVec 1600

/-- Lane (x, y), both taken modulo 5. -/
def Sponge.at (z : Sponge) (x y : Nat) : Word := z.extractLsb' (64 * (x % 5 + 5 * (y % 5))) 64

/-- The sponge whose lane (x, y) is `f x y`. -/
def spongeOf (f : Nat → Nat → Word) : Sponge :=
  (upto 25).foldr (fun i z => (z <<< 64) ||| (f (i % 5) (i / 5)).setWidth 1600) 0

/-- A lane takes in the parity of the column before it and the turned parity of the column after it. -/
def Sponge.mix (z : Sponge) : Sponge :=
  let column := fun x => z.at x 0 ^^^ z.at x 1 ^^^ z.at x 2 ^^^ z.at x 3 ^^^ z.at x 4
  spongeOf fun x y => z.at x y ^^^ column (x + 4) ^^^ (column (x + 1)).rotateLeft 1

/-- The walk over the 24 lanes beside (0, 0): the lane met at step t goes to the place of the next one, turned by the
triangular number of t + 1. -/
def Sponge.walk (z : Sponge) : Nat → Nat → Nat → (Nat → Nat → Word) → Nat → Nat → Word
  | 0, _, _, f => f
  | n + 1, x, y, f =>
    let t := 24 - n
    let turned := (z.at x y).rotateLeft (t * (t + 1) / 2 % 64)
    let y' := (2 * x + 3 * y) % 5
    z.walk n y y' fun a b => if a == y && b == y' then turned else f a b

/-- The eight-bit register that the round constants are drawn from, after n steps. -/
def drawn (n : Nat) : BitVec 8 := (upto n).foldl (fun r _ => (r <<< 1) ^^^ (if r.msb then 0x71 else 0)) 1

/-- The constant of a round: the bits at 0, 1, 3, 7, 15, 31 and 63, drawn in turn. -/
def roundWord (n : Nat) : Word :=
  (upto 7).foldl (fun w j => if (drawn (7 * n + j)).getLsbD 0 then w ||| (1 <<< (2 ^ j - 1)) else w) 0

/-- Round n of the permutation of FIPS 202. -/
def Sponge.round (z : Sponge) (n : Nat) : Sponge :=
  let m := z.mix
  let moved := spongeOf (m.walk 24 1 0 fun _ _ => m.at 0 0)
  (spongeOf fun x y => moved.at x y ^^^ (moved.at (x + 2) y &&& ~~~moved.at (x + 1) y)) ^^^ (roundWord n).setWidth 1600

/-- The permutation. -/
def Sponge.permute (z : Sponge) : Sponge := (upto 24).foldl Sponge.round z

/-- A message padded to whole blocks of 136 bytes, as SHAKE256 pads it. -/
def padded (m : List Byte) : List Byte :=
  let n := (m.length / 136 + 1) * 136
  natLe n (leNat m + 0x1F * 256 ^ m.length + 0x80 * 256 ^ (n - 1))

/-- The sponge after a whole number of blocks. -/
def Sponge.takeIn : Sponge → Nat → List Byte → Sponge
  | z, 0, _ => z
  | z, n + 1, bs => (z ^^^ BitVec.ofNat 1600 (leNat (bs.take 136))).permute.takeIn n (bs.drop 136)

/-- The first n words of SHAKE256, n at most 17. -/
def shakeLanes (n : Nat) (m : List Byte) : List Byte :=
  natLe (8 * n) (Sponge.takeIn 0 (m.length / 136 + 1) (padded m)).toNat

/-- The first 32 bytes of SHAKE256. -/
def shake256 (m : List Byte) : List Byte := shakeLanes 4 m

/-- One bit of the CRC-32C, reflected. -/
def crcBit (c : BitVec 32) : BitVec 32 := if c.getLsbD 0 then (c >>> 1) ^^^ 0x82F63B78 else c >>> 1

/-- CRC-32C of a list of bytes. -/
def crc32c (bs : List Byte) : BitVec 32 :=
  ~~~(bs.foldl (fun c b => (upto 8).foldl (fun c _ => crcBit c) (c ^^^ b.setWidth 32)) 0xFFFFFFFF)

end Sys2Proof.Machine
end

