-- ==== Sys2Proof/Machine/Recover.lean ====
section
/-!
DEFINITION. What every store and every fault has to know of recovery: line tags and the undo log (R408 to R410), poison
(R420, R423), seal requests (R413), the lantern latch (R442), the end of a speculation (R404), and the rollback itself
as one operation (R421 to R424).
-/
namespace Sys2Proof.Machine

/-- The key of a physical address in `Device.mem`: the peer in front of the 52 address bits (R352). -/
def physKey (peer pa : Nat) : Nat := peer * 2 ^ 52 + pa

/-- The peer number of a die of this package (R352). -/
def Device.peerOf (d : Device) (die : Nat) : Nat := d.pkg.toNat * 8 + die

/-- The peer that owns a line. -/
def linePeer (line : Nat) : Nat := line / 2 ^ 46

/-- The tag of a line (R408): 0xFF at the end of boot (R409). -/
def Device.tag (d : Device) (line : Nat) : BitVec 8 := lookupD d.baseTag d.tags line

/-- A line holds its current contents in the interval already: it needs no undo entry (R408). -/
def Device.logged (d : Device) (line : Nat) : Bool := d.tag line == d.rin.setWidth 8

/-- Whether a peer is a die of this package, whose log the model holds. -/
def Device.owns (d : Device) (peer : Nat) : Bool := peer / 8 == d.pkg.toNat

/-- Whether stores are performed at the owners now: not in FAIL, not in a rollback, not while a seal flushes, votes or
commits (R414, R415, R421). -/
def Device.storing (d : Device) : Bool :=
  !d.failed && d.dies.toList.all fun x => x.rph == 0 && !(3 ≤ x.sph.toNat && x.sph.toNat ≤ 5)

/-- The same, with a rollback that has reached REDISPATCH (R424). -/
def Device.publishing (d : Device) : Bool :=
  !d.failed && d.dies.toList.all fun x => (x.rph == 0 || x.rph == 6) && !(3 ≤ x.sph.toNat && x.sph.toNat ≤ 5)

/-! ### Carve-outs (R13) -/

/-- The undo log of a die in its stacked DRAM, as (physical address, bytes) (R410). -/
def Window.undoArea (w : Window) : Nat × Nat := (w.undoBase, 128 * w.undoCap)
/-- The checkpoint area (R411, R425). -/
def Window.ckArea (w : Window) : Nat × Nat := (w.ckbase.toNat, w.ckSize.toNat * 2 ^ 20)
/-- Copy A of the journals of both slots (R381, R386). -/
def Window.areaA (w : Window) : Nat × Nat := (w.jrnl.toNat, 2 ^ 26)
/-- Copy B. -/
def Window.areaB (w : Window) : Nat × Nat := (w.jrnlb.toNat, 2 ^ 26)

/-- What a die's manifest carves out of its stacked DRAM once it is in force (R13, R381, R386, R425, R436 step 3). -/
def Window.carveOuts (w : Window) : List (Nat × Nat) :=
  if w.bootStep.toNat < 3 then []
  else [w.undoArea, (w.siloBase, w.silo.toNat * 2 ^ 20), (w.bivBase, w.biv.toNat * 2 ^ 20), w.areaA, w.areaB, w.ckArea]

/-- Whether an address lies in an area. -/
def inArea (a : Nat × Nat) (pa : Nat) : Bool := a.1 ≤ pa && pa < a.1 + a.2

/-- Whether a line lies in a carve-out of its die: writes there are never logged (R408). -/
def Device.carved (d : Device) (line : Nat) : Bool :=
  d.owns (linePeer line) && (d.die (linePeer line % 8)).win.carveOuts.any fun a => inArea a (line * 64 % 2 ^ 52)

/-- Whether two ranges lie apart. -/
def apart (a n b m : Nat) : Bool := a + n ≤ b || b + m ≤ a

/-- Whether `n` bytes of physical memory of a die are free for firmware to map: in no carve-out and in none of its own
mappings (R13). -/
def Device.frameFree (d : Device) (die pa n : Nat) : Bool :=
  ((d.die die).win.carveOuts.all fun c => apart pa n c.1 c.2) &&
    d.maps.all fun m => apart (physKey (d.peerOf die) pa) n m.key (65536 * m.units)

/-- The first number from `k` on that satisfies `p`, among so many. -/
def firstFrom (p : Nat → Bool) : Nat → Nat → Option Nat
  | 0, _ => none
  | fuel + 1, k => if p k then some k else firstFrom p fuel (k + 1)

/-- The physical address of free frames of a die's stacked DRAM, or of its LPDDR; which ones the spec leaves open (assumption
log 3). None when the memory holds none. -/
def Device.freeFrame (d : Device) (die units draw : Nat) (lpddr : Bool) : Option Nat :=
  let n := 65536 * units
  let count := if lpddr then 3 * 2 ^ 20 else 2 ^ 19
  let base := if lpddr then 2 ^ 36 else 0
  let frame (k : Nat) : Nat := base + (Config.spareFrame draw + k) % count * 65536
  (firstFrom (fun k => frame k + n ≤ base + count * 65536 && d.frameFree die (frame k) n) count 0).map frame

/-- Frames for firmware on a die: of stacked DRAM, or of LPDDR when that is full, where no carve-out lies. -/
def Device.takeFrame (d : Device) (die units draw : Nat) : Nat :=
  ((d.freeFrame die units draw false).or (d.freeFrame die units draw true)).getD (2 ^ 36)

/-- Whether a line can no longer be read that a rollback needs: a poisoned line of an undo log or of the checkpoint area, or
one of both copies of a journal record (R420). -/
def Device.lost (d : Device) : Bool :=
  d.poison.any fun l =>
    let w := (d.die (linePeer l % 8)).win
    let pa := l * 64 % 2 ^ 52
    d.carved l && (inArea w.undoArea pa || inArea w.ckArea pa ||
      (inArea w.areaA pa && d.poison.contains (physKey (linePeer l) (w.jrnlb.toNat + (pa - w.jrnl.toNat)) / 64)))

/-- Whether a write to the line needs an undo entry that the owner's full log has no room for (R417). -/
def Device.undoFull (d : Device) (line : Nat) : Bool :=
  !d.logged line && !d.carved line && d.owns (linePeer line) &&
    (d.die (linePeer line % 8)).win.undoCap ≤ (d.die (linePeer line % 8)).undo.length

/-- Whether writes to some lines together need more undo entries than an owner's log has room for; what needs more than the
whole log waits for an empty one (R417). -/
def Device.undoLacks (d : Device) (ls : List Nat) : Bool :=
  let new := ls.eraseDups.filter fun l => !d.logged l && !d.carved l && d.owns (linePeer l)
  (upto 8).any fun n =>
    let x := d.die n
    let need := (new.filter fun l => linePeer l % 8 == n).length
    need != 0 && x.win.undoCap < x.undo.length + max 1 (min need x.win.undoCap)

/-- The 512 bits of a line. -/
def Device.lineData (d : Device) (line : Nat) : BitVec 512 := BitVec.ofNat 512 (d.mem.nat (line * 64) 64)

/-- Whether this package is the lowest-numbered one of its domain, which holds the seal master (R407). -/
def Device.masterPkg (d : Device) : Bool := Config.domainPackages.all fun p => d.pkg.toNat ≤ p

/-- Whether slot 0 of a die is the seal master, once bring-up has joined the domain (R407, R436). -/
def Device.masterDie (d : Device) (die : Nat) : Bool := die == 0 && d.masterPkg && (d.die 0).win.bootStep == 7

/-- Whether a seal is in progress anywhere in the package (R414). -/
def Device.sealing (d : Device) : Bool := d.dies.toList.any fun x => x.sph != 0

/-- A seal is requested: it coalesces into one in progress until the vote is complete, after which it starts the next
(R413). -/
def Device.requestSeal (d : Device) : Device :=
  if d.dies.toList.any fun x => x.sph.toNat == 5 || x.sph.toNat == 6 then { d with nextSeal := true }
  else if d.dies.toList.all fun x => x.voted then { d with nextSeal := true }
  else { d with sealReq := true }

/-- The 128 bytes of an undo entry (Table 18-1). -/
def UndoEntry.bytes (u : UndoEntry) : List Byte :=
  let head := natLe 8 (u.line * 64 % 2 ^ 52) ++ natLe 4 u.rin.toNat ++ natLe 1 u.otag.toNat ++ natLe 1 (if u.poison then 1 else 0) ++
    List.replicate 46 0
  let data := natLe 64 u.data.toNat
  head ++ natLe 4 (crc32c (head ++ data)).toNat ++ data

/-- A die with an entry appended to its log, at the next place of the ring (R410). -/
def Die.appendUndo (x : Die) (u : UndoEntry) : Die :=
  { x with undo := u :: x.undo, undoRing := x.undoRing.blit (128 * (x.undoNext % x.win.undoCap)) u.bytes, undoNext := x.undoNext + 1 }

/-- A die whose undo entries are rewritten, in its log's ring too (R364, R421). -/
def Die.rewriteUndo (x : Die) (f : UndoEntry → UndoEntry) : Die :=
  let changed := ((upto x.undo.length).zip x.undo).filter fun p => f p.2 != p.2
  { x with undo := x.undo.map f
           undoRing := changed.foldl (fun m p => m.blit (128 * ((x.undoNext - 1 - p.1) % x.win.undoCap)) (f p.2).bytes) x.undoRing }

/-- The undo entry of R408, appended before a write to a line of stacked DRAM or LPDDR, and the line's new tag; none in a
carve-out. A log that reaches 75 % of its capacity requests a seal (R413). -/
def Device.logLine (d : Device) (line : Nat) : Device :=
  if d.logged line || d.carved line then d else
  let e : UndoEntry := { line := line, rin := d.rin, otag := d.tag line, poison := d.poison.contains line,
                         data := d.lineData line }
  let n := linePeer line % 8
  let d1 := { d with tags := insertKey d.tags line (d.rin.setWidth 8) }
  if d.owns (linePeer line) then
    let x := d1.die n
    let d2 := d1.setDie n (x.appendUndo e)
    if x.win.undoCap * 3 ≤ (x.undo.length + 1) * 4 then d2.requestSeal else d2
  else { d1 with away := e :: d1.away }

/-- The lines that `n` bytes from `key` touch. -/
def linesOf (key n : Nat) : List Nat :=
  if n = 0 then [] else (upto ((key + n - 1) / 64 - key / 64 + 1)).map fun i => key / 64 + i

/-- cfg.wcnt (Table 3-11): CP and TL are the numbers of unretired jobs (R70). -/
def Strand.wcnt (k : Strand) : Word :=
  BitVec.ofNat 16 k.jobs.thq.length ++ BitVec.ofNat 16 k.jobs.cpq.length ++ BitVec.ofNat 16 k.st ++ BitVec.ofNat 16 k.ld

/-- A tile's state word (Table 15-15). -/
def TileState.word : TileState → BitVec 32
  | .empty => 0
  | .claimed src => 1 ||| (src.setWidth 32 <<< 2)
  | .full => 2

/-- cfg.pbstat (Table 6-3). -/
def Strand.pbstat (k : Strand) : Word :=
  (k.cptr ++ k.wptr ++ vget k.pbst 3 0 ++ vget k.pbst 2 0 ++ vget k.pbst 1 0 ++ vget k.pbst 0 0 : BitVec 12).setWidth 64

/-! ### Lantern latch -/

/-- Bytes as words, eight to a word. -/
def packWords (n : Nat) (bs : List Byte) : List Word := (upto n).map fun i => BitVec.ofNat 64 (leNat ((bs.drop (8 * i)).take 8))

/-- What a core's snapshot holds in its 128 bytes (R442). DESIGN CHOICE (assumption log 14), as the rule gives no layout: the
three PCs, the three stall kinds as bytes, cfg.wcnt, cfg.seqcp, cfg.seqtl, cfg.gqocc and cfg.pbstat, a byte of state for each
tile, a byte of occupancy for each queue. -/
def Strand.shot (k : Strand) : List Word :=
  [k.ctl.pc, k.acc.pc, k.exe.pc] ++ packWords 1 ([k.ctl.stall, k.acc.stall, k.exe.stall].map (BitVec.ofNat 8)) ++
    [k.wcnt, k.jobs.seqcp, k.jobs.seqtl, BitVec.ofNat 64 k.gleanOcc, k.pbstat] ++
    packWords 2 (k.tiles.toList.map fun t => t.st.word.setWidth 8) ++ packWords 2 (k.queues.toList.map fun q => BitVec.ofNat 8 q.occ)

/-- An MSI-X vector is raised (R443). -/
def State.msix (s : State) (v : Nat) : State :=
  { s with dev := { s.dev with man := { s.dev.man with msix := s.dev.man.msix ++ [v] } } }

/-- A lantern source fires: while armed and enabled it latches every core's snapshot, clears ARMED and is recorded in
SRC, as is an enabled source that fires later in the cycle of the latch (R442; assumption log 7). `b` is its bit in EN: 0
software, 1 hang trap, 2 rollback FREEZE, 3 external pin. -/
def State.lantern (s : State) (b : Nat) : State :=
  let m := s.dev.man
  if m.latching && m.en.getLsbD b then { s with dev := { s.dev with man := { m with src := m.src ||| (1#4 <<< b) } } }
  else if m.armed && m.en.getLsbD b then
    State.msix
      { s with
        cur := { s.cur with snapshot := s.cur.shot }
        others := s.others.map fun k => { k with snapshot := k.shot }
        dev := { s.dev with man := { m with armed := false, latching := true, src := m.src ||| (1#4 <<< b) } } } 1
  else s

/-! ### Speculations -/

/-- A core that holds no strand: the strand's state is gone, what belongs to the core stays. -/
def Strand.vacate (k : Strand) : Strand :=
  { Strand.blank with
    id := { Ident.blank with pkg := k.id.pkg, die := k.id.die, clus := k.id.clus, core := k.id.core }
    ctxSt := k.ctxSt, snapshot := k.snapshot, table := k.table }

/-- The strands that hold `p` leave their cores. -/
def State.vacateIf (s : State) (p : Strand → Bool) : State :=
  { s with cur := if p s.cur then s.cur.vacate else s.cur
           others := s.others.map fun k => if p k then k.vacate else k }

/-- The end-of-stream records held for links of sheaves that `gone` tells, by die and tag, are dropped (R34). -/
def Device.dropEos (d : Device) (gone : Nat → Nat → Bool) : Device :=
  { d with eosWait := d.eosWait.filter fun e => e.1.1 = 0 || !gone ((e.1.1 - 1) / 8 / 65536) ((e.1.1 - 1) / 8 % 65536) }

/-- A speculation is discarded silently: its cores are freed, its lines are dropped and one counter rises (R404). -/
def State.dropSpec (s : State) (n : Nat) (bump : Window → Window) : State :=
  match s.dev.specs.find? fun p => p.num == n with
  | none => s
  | some p =>
    let s1 := s.vacateIf fun k => k.spec == some n
    let x := s1.dev.die p.die
    let gone := (s1.dev.tasks.filter fun t => t.spec == some n).map (·.num)
    let mine (h : Sheaf) : Bool := gone.contains h.task
    let ended (a b : Nat) : Bool := s1.dev.sheaves.any fun h => mine h && h.die == a && h.stag.toNat == b
    let kept (m : Mapping) : Bool := match m.owner with
      | .task k => !gone.contains k
      | .sheaf a b => !ended a b
      | .link a b _ => !ended a b
      | _ => true
    { s1 with dev := { ((s1.dev.setDie p.die { x with win := bump x.win }).dropEos ended) with
        maps := s1.dev.maps.filter kept
        instances := s1.dev.instances.map fun i => if i.tid == p.tid && i.queue == p.queue then { i with claiming := false } else i
        specs := s1.dev.specs.filter fun q => !(q.num == n)
        tasks := s1.dev.tasks.filter fun t => !(t.spec == some n)
        sheaves := s1.dev.sheaves.filter fun h => !gone.contains h.task } }

/-- The counter of discards for reasons other than stale reads and mispredictions (Table 17-2). -/
def Window.bumpDoth (w : Window) : Window := { w with doth := w.doth + 1 }

/-- Every speculation is discarded (R414, R421). -/
def State.dropSpecs (s : State) : State := (s.dev.specs.map (·.num)).foldl (fun t n => t.dropSpec n Window.bumpDoth) s

/-- A fault of the current strand: a speculative run raises none and its speculation is discarded silently (R404). -/
def State.raise (s : State) (cause : BitVec 8) (detail : BitVec 16) (faddr aux : Word) : State :=
  match s.cur.spec with
  | some n => s.dropSpec n Window.bumpDoth
  | none => s.fault cause detail faddr aux

/-- An illegal-encoding fault, with the same exception for a speculative run. -/
def State.raiseIllegal (s : State) : State := s.raise 0x01 0 0 0

/-- A speculative run that reaches what it must not perform is discarded (R106, R209, R212, R297); any other run goes
on as `k` says. -/
def State.unlessSpec (s : State) (k : State) : State :=
  match s.cur.spec with
  | some n => s.dropSpec n Window.bumpDoth
  | none => k

/-! ### Rollback -/

/-- One undo entry applied: the line's old bytes, tag and poison return (R421). -/
def Device.undoOne (d : Device) (e : UndoEntry) : Device :=
  { d with
    mem := d.mem.put (e.line * 64) (natLe 64 e.data.toNat)
    tags := insertKey d.tags e.line e.otag
    poison := if e.poison then (if d.poison.contains e.line then d.poison else e.line :: d.poison)
              else d.poison.filter fun l => !(l == e.line) }

/-- The entries of the abandoned interval of one die applied, newest first; those of a committed interval that RELEASE had
not freed are skipped, and freed (R421). -/
def Device.undoDie (d : Device) (n : Nat) : Device :=
  let x := d.die n
  let d1 := (x.undo.filter fun e => e.rin == d.rin).foldl Device.undoOne d
  let y := d1.die n
  d1.setDie n { y with undo := [] }

/-- The entries of the abandoned interval for lines of the domain's other packages applied, newest first (R107, R421). -/
def Device.undoAway (d : Device) : Device :=
  { (d.away.filter fun e => e.rin == d.rin).foldl Device.undoOne d with away := [] }

/-- The two filter bits of a line (R401). -/
def bloomBits (line : Nat) : List Nat :=
  let a : Word := BitVec.ofNat 64 (line % 2 ^ 46)
  [((a * 0x9E3779B97F4A7C15) >>> 48).toNat, ((a * 0xC2B2AE3D27D4EB4F) >>> 48).toNat]

/-- Whether the monitor finds a line in a read set (R401). -/
def Speculation.reads (p : Speculation) (line : Nat) : Bool :=
  p.readSet.contains line || ((bloomBits line).all fun b => p.filter.contains b)

/-- A monitored write to a line marks the speculations that read it stale (R401). -/
def Device.monitor (d : Device) (line : Nat) : Device :=
  { d with specs := d.specs.map fun p => if p.reads line then { p with stale := true } else p }

/-- Whether a line lies in stacked DRAM or LPDDR (Table 16-1). -/
def lineInDram (line : Nat) : Bool :=
  let pa := line * 64 % 2 ^ 52
  pa < 0x800000000 || (0x1000000000 ≤ pa && pa < 0x4000000000)

/-- The bytes an egress entry holds leave for their target (R418): host memory behind a host port (R443), or a line of
the domain, where they are logged like any write (R408). -/
def Device.sendEgress (d : Device) (e : EgressEntry) : Device :=
  let d1 := if lineInDram e.line then (d.logLine e.line).monitor e.line else d
  let whole := 64 ≤ (e.bytes.map (·.1)).eraseDups.length
  { d1 with mem := d1.mem.scatter e.bytes
            poison := if whole then d1.poison.filter fun l => !(l == e.line) else d1.poison
            restored := if whole then d1.restored.filter fun l => !(l == e.line) else d1.restored }

/-- The entries of a die whose seal has committed leave in order (R418); `which` tells them. -/
def Device.releaseEgress (d : Device) (n : Nat) (which : EgressEntry → Bool) : Device :=
  let x := d.die n
  let d1 := (x.egress.filter which).foldl Device.sendEgress d
  let y := d1.die n
  d1.setDie n { y with egress := y.egress.filter fun e => !which e }

/-- The stores of the SEALWs whose seal has committed are sent, after the entries of their dies' releases (R416, R418). -/
def Device.sendSealw (d : Device) : Device :=
  (d.sealw.filter fun q => q.committed).foldl (fun (d : Device) q =>
    ((q.out.map fun c => c.1 / 64).eraseDups).foldl (fun (e : Device) l =>
      e.sendEgress { line := l, bytes := q.out.filter fun c => c.1 / 64 == l, rin := e.rin, owner := none }) d) d

/-- What a die keeps over a rollback: no speculation, request, cached line, seal phase or entry of the abandoned
interval (R421), nor a translation, which could show a leaf or a commit bit that UNDO takes back or a frame that RETIRE
leaves (R359, R364; assumption log 63); the tags of its outstanding requests advance in generation (R370). -/
def Die.afterFreeze (x : Die) : Die :=
  { x with
    sph := 0, rph := 0, voted := false, lines := [], requests := [], strays := [], backoff := [], tlb := [], l1 := []
    gens := x.requests.foldl (fun g r => insertKey g r.tag (lookupD 0 g r.tag + 1)) x.gens
    win := { x.win with rolls := if x.win.rolls = 0xFFFF then 0xFFFF else x.win.rolls + 1 } }

/-- A dispatcher slot returned to the SEALSTEP commit record of the seal (R421): later journal records are void. -/
def Slot.rewind (x : Slot) (seq lastKick : Nat) : Slot :=
  { x with seq := seq, journal := x.journal.filter fun r => r.seq < seq, fifo := [], held := [], lastKick := lastKick }

/-- A tent after a rollback: USED of both classes, its device launch queue, handles, mailboxes and history are those of
the seal; what the supervisor sets (LIMIT, ceiling) stands (R421). -/
def Tent.restore (t : Tent) (old : Option Tent) : Tent :=
  match old with
  | some o => { t with usedStk := o.usedStk, usedLp := o.usedLp, devq := o.devq, hist := o.hist }
  | none => { t with usedStk := 0, usedLp := 0, devq := [], hist := [] }

/-- RESTORE, REWIND and REDISPATCH on the device's own lists (R421), from the checkpoint of the seal or from the end of
boot (R406). -/
def Device.restore (d : Device) : Device :=
  let rin := d.rin
  let kept := d.objects.filter fun o => !(o.rin == rin)
  let grants : Die → Die := fun x =>
    { x with grants := x.grants.map fun g => if g.rin == rin && g.live then { g with live := false, gen := g.gen + 1 } else g }
  match d.checkpoint with
  | some c =>
    let mem := c.persist.foldl (fun m r => Memory.paste m r.1.1 r.1.2 r.2) d.mem
    let ofSlot (l : List (Nat × Nat)) (n k : Nat) : Nat := ((l[n]?).map fun p => if k = 0 then p.1 else p.2).getD 0
    let back (x : Slot) (n k : Nat) : Slot := x.rewind (ofSlot c.seqs n k) (ofSlot c.lastKicks n k)
    let dies := (upto 8).foldl (fun (acc : Device) n =>
      let x := grants (acc.die n)
      acc.setDie n { x with ready := (c.ready[n]?).getD [], kicks := (c.kicks[n]?).getD []
                            slot0 := back x.slot0 n 0, slot1 := back x.slot1 n 1 }) d
    { dies with
      mem := mem, objects := kept
      tents := d.tents.map fun t => t.restore (c.tents.find? fun o => o.tid == t.tid)
      maps := c.maps, instances := c.instances, tasks := c.tasks, sheaves := c.sheaves, images := c.images, eosWait := c.eosWait
      persistPages := c.pages }
  | none =>
    let mem := d.persistPages.foldl (fun m r => Memory.clear m r.1 r.2.1) d.mem
    let dies := (upto 8).foldl (fun (acc : Device) n =>
      let x := grants (acc.die n)
      acc.setDie n { x with ready := [], kicks := [], slot0 := x.slot0.rewind 0 0, slot1 := x.slot1.rewind 0 0 }) d
    { dies with
      mem := mem, objects := kept, tents := d.tents.map fun t => t.restore none
      maps := [], instances := [], tasks := [], sheaves := [], images := [], persistPages := [], eosWait := [] }

/-- The leaves of the table at `key` (level `level`) and below that map the 64 KiB unit `unit` of the physical keys, as
(place of the entry, level, entry). -/
def leavesOf (m : Memory) (unit : Nat) : Nat → Nat → Nat → List (Nat × Nat × Nat)
  | 0, _, _ => []
  | fuel + 1, level, key =>
    (upto 1024).flatMap fun i =>
      let e := m.nat (key + 8 * i) 8
      let target := physKey (e / 2 ^ 52 % 2048) (e / 2 ^ 13 % 2 ^ 39 * 2 ^ 13)
      if e % 2 = 0 then []
      else if e / 2 % 2 = 1 then
        let units := 1024 ^ (3 - level)
        if target / 65536 ≤ unit && unit < target / 65536 + units then [(key + 8 * i, level, e)] else []
      else leavesOf m unit fuel (level + 1) target

/-- The leaf at `place` made to map the unit at the frame instead: a larger leaf is first replaced by a table of leaves
of the next smaller size, in the frames firmware took for it from `table` on (R421). -/
def repoint (m : Memory) (unit frame : Nat) : Nat → Nat → Nat → Nat → Nat → Memory
  | 0, _, _, _, _ => m
  | fuel + 1, table, place, level, e =>
    if level = 3 then
      m.put place (natLe 8 (e % 65536 + frame * 65536 % 2 ^ 52 + e / 2 ^ 52 * 2 ^ 52))
    else
      let page := e / 65536 % 2 ^ 36
      let step := 1024 ^ (2 - level)
      let m1 := (upto 1024).foldl (fun (m : Memory) i =>
        m.put (table + 8 * i) (natLe 8 (e % 65536 + (page + i * step) * 65536 + e / 2 ^ 52 * 2 ^ 52))) m
      let m2 := m1.put place (natLe 8 (1 + table % 2 ^ 52 + e / 2 ^ 52 * 2 ^ 52))
      let i := (unit % 2 ^ 36 - page) / step
      repoint m2 unit frame fuel (table + 65536) (table + 8 * i) (level + 1) (m2.nat (table + 8 * i) 8)

/-- The roots of every address space, through the table ASTBASE of each die names (R356). -/
def Device.roots (d : Device) : List Nat :=
  (upto 8).flatMap fun n =>
    ((0 :: d.tents.map (·.asid)).map fun asid =>
      d.mem.nat (physKey (d.peerOf n) ((d.die n).win.astbase.toNat + 32 * asid)) 8).filterMap fun e =>
        if e % 2 = 1 then some (physKey (e / 2 ^ 52 % 2048) (e / 2 ^ 13 % 2 ^ 39 * 2 ^ 13)) else none

/-- A mapping of firmware's with a unit's frame replaced: the pages before it, its own, and those after it (R421). -/
def Mapping.repoint (m : Mapping) (unit frame : Nat) : List Mapping :=
  let i := unit - m.key / 65536
  if unit < m.key / 65536 || m.units ≤ i then [m]
  else [{ m with units := i }, { m with base := m.base + BitVec.ofNat 64 (65536 * i), units := 1, key := frame * 65536 },
    { m with base := m.base + BitVec.ofNat 64 (65536 * (i + 1)), units := m.units - i - 1, key := m.key + 65536 * (i + 1) }].filter
      fun p => p.units != 0

/-- A checkpoint whose mappings reach a moved unit at its new frame (R421). -/
def Checkpoint.repoint (c : Checkpoint) (unit frame : Nat) : Checkpoint :=
  { c with maps := c.maps.flatMap fun m => m.repoint unit frame }

/-- RETIRE for one unit: its contents, tags and poison move to a spare frame of its die, its leaf and firmware's own mappings
are repointed, and undo entries that name the frame name the new one (R364, R421, R423). -/
def Device.retireUnit (d : Device) (fresh unit : Nat) : Device :=
  let die := unit / 2 ^ 36 % 8
  let lpddr := 2 ^ 20 ≤ unit % 2 ^ 36
  let found := d.roots.flatMap fun r => leavesOf d.mem unit 4 0 r
  let first := d.takeFrame die (1 + 4 * found.length) fresh
  let frame := (if lpddr then (d.freeFrame die 1 fresh true).getD first else first) / 65536
  let frameKey := unit / 2 ^ 36 * 2 ^ 36 + frame % 2 ^ 36
  let table (j : Nat) : Nat := unit / 2 ^ 36 * 2 ^ 52 + first + 65536 * (1 + 4 * j)
  let moveLine (l : Nat) : Nat := if l / 1024 == unit then frameKey * 1024 + l % 1024 else l
  let kept (l : Nat) : Bool := l / 1024 != frameKey
  let mem := (d.mem.paste (frameKey * 65536) 65536 (d.mem.slice (unit * 65536) 65536))
  let mem := ((upto found.length).zip found).foldl (fun m f => repoint m unit frame 4 (table f.1) f.2.1 f.2.2.1 f.2.2.2) mem
  let n := linePeer (unit * 1024) % 8
  let x := d.die n
  let d1 := d.setDie n { x with win := { x.win with retired := if x.win.retired = 0xFFFF then 0xFFFF else x.win.retired + 1 } }
  { d1 with
    mem := mem
    tags := (d.tags.filter fun t => kept t.1).map fun t => (moveLine t.1, t.2)
    poison := (d.poison.filter kept).map moveLine
    restored := (d.restored.filter kept).map moveLine
    maps := d.maps.flatMap fun m => m.repoint unit frameKey
    checkpoint := d.checkpoint.map fun c => c.repoint unit frameKey
    dies := d1.dies.map fun x => x.rewriteUndo fun u => { u with line := moveLine u.line } }

/-- The domain enters FAIL, which only a package reset leaves (R420); vector 2 tells the host (R443). -/
def State.enterFail (s : State) : State :=
  State.msix { s with dev := { s.dev with
    failed := true, dies := Vector.replicate 8 Die.blank |>.mapIdx fun i _ => { s.dev.die i with rph := 7 } } } 2

/-- A ROLLBACK of the domain, FREEZE to REDISPATCH (R421): no strand survives, memory, persistent regions, USED and the
scheduler's lists return to the last committed seal, the egress entries of the abandoned interval are discarded, those
of a committed interval leave, the units whose poison started it are retired, and the records of that poison wait to be
published, which holds their die at REDISPATCH (R424, R428). Vector 0 tells the host of a ROLLS that rises (R443). `lines` are
the poisoned lines that started it and `recs` the records of their consumers. -/
def State.rollBack (s : State) (lines : List Nat) (recs : List FaultRec) : State :=
  let s1 := (s.lantern 2).dropSpecs
  let d0 := s1.dev
  let d1 := (upto 8).foldl (fun (d : Device) n => d.setDie n (d.die n).afterFreeze) d0
  let d2 := ((upto 8).foldl Device.undoDie d1).undoAway
  let d3 := (upto 8).foldl (fun (d : Device) n =>
    let e := d.releaseEgress n fun e => !(e.rin == d.rin)
    let x := e.die n
    e.setDie n { x with egress := [] }) d2
  let d3 := d3.sendSealw
  let d4 := { d3 with restored := d3.poison }.restore
  let units := (lines.map fun l => l / 1024).eraseDups
  let d5 := (units.zip (upto units.length)).foldl (fun (d : Device) u => d.retireUnit (s.fresh + 8 * u.2) u.1) d4
  let d6 := recs.foldl (fun (d : Device) r =>
    let n := s.cur.id.die.toNat
    let x := d.die n
    d.setDie n { x with trapWait := x.trapWait ++ [r], rph := 6 }) d5
  let d7 := { d6 with sealReq := false, nextSeal := false, sealw := [], pending := none, notices := []
                      links := d6.links.map fun l => { l with inFlight := [] } }
  let t : State := { s1.vacateIf (fun _ => true) with dev := d7, fresh := s.fresh + 8 * units.length, agenda := s.agenda }
  if s.dev.dies.toList.all fun x => x.win.rolls = 0xFFFF then t else t.msix 0

/-- A rollback, or FAIL where an error in what it needs cannot be undone (R420; assumption log 88). -/
def State.rollback (s : State) (lines : List Nat) (recs : List FaultRec) : State :=
  if s.dev.lost then s.enterFail else s.rollBack lines recs

/-- Poison of the given lines is consumed at cause 0x10: the record stands against the strand, and unless every line is
one a rollback restored poisoned, the domain rolls back (R420, R423, R424). -/
def State.poisoned (s : State) (lines : List Nat) (r : FaultRec) : State :=
  match s.cur.spec with
  | some n => s.dropSpec n Window.bumpDoth
  | none =>
    if lines.all fun l => s.dev.restored.contains l then s.freeze r
    else s.rollback (lines.filter fun l => !s.dev.restored.contains l) [r]

end Sys2Proof.Machine
end

