-- ==== Sys2Proof/Machine/Access.lean ====
section
/-!
DEFINITION. Addresses and accesses: the spaces of R76 to R80, translation (R353 to R359), the checks of Table 9-1, the
commit of R102 and R103, and how a checked access reads or writes its bytes (R84, R86, R90, R105, R367 to R369, R401).
-/
namespace Sys2Proof.Machine

/-- Where a byte lies: in an object of the current strand, in an object of another strand (by die, tag and index), or in
the physical memory of `Device.mem`. -/
inductive Loc where
  | own (obj off : Nat)
  | peer (die stag six obj off : Nat)
  | phys (key : Nat)
  deriving DecidableEq, Repr

/-- The place `n` bytes further on. -/
def Loc.add : Loc → Nat → Loc
  | .own o a, n => .own o (a + n)
  | .peer d t x o a, n => .peer d t x o (a + n)
  | .phys k, n => .phys (k + n)

/-- The physical key of a place that is no strand's object. -/
def Loc.physKey? : Loc → Option Nat
  | .phys k => some k
  | _ => none

/-! ### The on-chip objects of a strand (Table 4-2, R335) -/

/-- The size of an object. -/
def objSize (obj : Nat) : Nat :=
  match obj with
  | 0 => 0x200000
  | 1 => 0x80000
  | 2 => 0x4000
  | 3 => 768
  | 4 => 0x40000
  | 5 => 0x1000
  | 6 => 0x4C040
  | _ => 0

/-- Byte k of a value. -/
def byteOf {w : Nat} (v : BitVec w) (k : Nat) : Byte := (v >>> (8 * k)).setWidth 8

/-- A value with byte k replaced. -/
def setByteOf {w : Nat} (v : BitVec w) (k : Nat) (b : Byte) : BitVec w :=
  (v &&& ~~~((0xFF#8).setWidth w <<< (8 * k))) ||| (b.setWidth w <<< (8 * k))

/-- The depth of a queue (Table 3-6). -/
def queueDepth (q : Nat) : Nat := if q < 4 then 32 else if q < 10 then 16 else 64

/-- A queue's descriptor (R335). -/
def Queue.desc (q : Queue) : Word :=
  BitVec.ofNat 64 (q.occ % 128 + q.head % 64 * 256 + q.tail % 64 * 65536)

/-- The queue a written descriptor leaves. -/
def Queue.setDesc (q : Queue) (w : Word) : Queue :=
  { q with occ := w.toNat % 128, head := w.toNat / 256 % 64, tail := w.toNat / 65536 % 64 }

/-- The 64 slots of a branch-outcome queue as one word (R335). -/
def Queue.bits (q : Queue) : Word :=
  (upto 64).foldl (fun w k => if (Cells.get q.slots k).getLsbD 0 then w ||| (1#64 <<< k) else w) 0

/-- The slots a written word leaves. -/
def Queue.setBits (q : Queue) (w : Word) : Queue :=
  { q with slots := (upto 64).foldl (fun m k => Cells.set m k (if w.getLsbD k then 1 else 0)) q.slots }

/-- No queue. -/
def Queue.none : Queue := { occ := 0, head := 0, tail := 0, slots := [] }

/-- A byte of the queue object (R335). -/
def Strand.queueByte (k : Strand) (off : Nat) : Byte :=
  let q := off / 0x4000
  let r := off % 0x4000
  if q < 13 then
    let x := vget k.queues q Queue.none
    if r < 8 then byteOf x.desc r
    else if r < 0x100 then 0
    else if q < 4 then
      if r < 0x100 + 32 * 256 then byteOf (Cells.get x.slots ((r - 0x100) / 256)) ((r - 0x100) % 256) else 0
    else if q < 10 then
      if r < 0x100 + 128 then byteOf (Cells.get x.slots ((r - 0x100) / 8)) ((r - 0x100) % 8) else 0
    else if r < 0x108 then byteOf x.bits (r - 0x100) else 0
  else
    let g := off - 0x34000
    if g < 8 then byteOf (BitVec.ofNat 64 k.gleanOcc) g
    else if g < 16 then byteOf (BitVec.ofNat 64 k.gleanHead) (g - 8)
    else if g < 0x40 then 0
    else byteOf (Cells.get k.glean ((g - 0x40) / 24)) ((g - 0x40) % 24)

/-- The fields of a glean entry (Table 3-10); its other bits are zero. -/
def gleanFields : BitVec 192 := 0x1FF ||| (0xFFFF#192 <<< 16) ||| ((-1 : BitVec 192) <<< 64)

/-- A byte of the queue object written; a reserved bit of a glean entry stays zero (R335, Table 3-10). -/
def Strand.setQueueByte (k : Strand) (off : Nat) (b : Byte) : Strand :=
  let q := off / 0x4000
  let r := off % 0x4000
  let slot (x : Queue) (i j : Nat) : Queue := { x with slots := Cells.set x.slots i (setByteOf (Cells.get x.slots i) j b) }
  if q < 13 then
    let x := vget k.queues q Queue.none
    let y :=
      if r < 8 then x.setDesc (setByteOf x.desc r b)
      else if r < 0x100 then x
      else if q < 4 then (if r < 0x100 + 32 * 256 then slot x ((r - 0x100) / 256) ((r - 0x100) % 256) else x)
      else if q < 10 then (if r < 0x100 + 128 then slot x ((r - 0x100) / 8) ((r - 0x100) % 8) else x)
      else if r < 0x108 then x.setBits (setByteOf x.bits (r - 0x100) b) else x
    { k with queues := k.queues.setIfInBounds q y }
  else
    let g := off - 0x34000
    if g < 8 then { k with gleanOcc := (setByteOf (BitVec.ofNat 64 k.gleanOcc) g b).toNat }
    else if g < 16 then { k with gleanHead := (setByteOf (BitVec.ofNat 64 k.gleanHead) (g - 8) b).toNat }
    else if g < 0x40 then k
    else
      let i := (g - 0x40) / 24
      { k with glean := Cells.set k.glean i (setByteOf (Cells.get k.glean i) ((g - 0x40) % 24) b &&& gleanFields) }

/-- No tile. -/
def Tile.none : Tile := { st := .empty, data := [] }

/-- A byte of an object (Table 4-2); physical registers, p0 all ones (R52, R79). -/
def Strand.objByte (k : Strand) (obj off : Nat) : Byte :=
  match obj with
  | 0 => k.ls.get off
  | 1 => k.gr.get off
  | 2 => byteOf (vget k.v (off / 256) 0) (off % 256)
  | 3 => if off < 8 then 0xFF else byteOf (vget k.p (off / 8) 0) (off % 8)
  | 4 => (vget k.tiles (off / 16384) Tile.none).data.get (off % 16384)
  | 5 => byteOf (vget k.k (off / 256) 0) (off % 256)
  | 6 => k.queueByte off
  | _ => 0

/-- A byte of an object written; a write to p0 has no effect (R52). -/
def Strand.setObjByte (k : Strand) (obj off : Nat) (b : Byte) : Strand :=
  match obj with
  | 0 => { k with ls := k.ls.set off b }
  | 1 => { k with gr := k.gr.set off b }
  | 2 => { k with v := k.v.setIfInBounds (off / 256) (setByteOf (vget k.v (off / 256) 0) (off % 256) b) }
  | 3 => if off < 8 then k
         else { k with p := k.p.setIfInBounds (off / 8) (setByteOf (vget k.p (off / 8) 0) (off % 8) b) }
  | 4 =>
    let t := vget k.tiles (off / 16384) Tile.none
    { k with tiles := k.tiles.setIfInBounds (off / 16384) { t with data := t.data.set (off % 16384) b } }
  | 5 => { k with k := k.k.setIfInBounds (off / 256) (setByteOf (vget k.k (off / 256) 0) (off % 256) b) }
  | 6 => k.setQueueByte off b
  | _ => k

/-- Whether a strand is the one a (die, tag, index) name means (R26). -/
def Strand.named (k : Strand) (die stag six : Nat) : Bool :=
  k.id.die.toNat == die && k.id.stag.toNat == stag && k.id.six.toNat == six

/-- The strand of a name among the other cores, or else among the saved images. -/
def State.findPeer (s : State) (die stag six : Nat) : Option Strand :=
  match s.others.find? fun k => k.resident && k.named die stag six with
  | some k => some k
  | none => s.dev.images.find? fun k => k.named die stag six

/-- The first element that satisfies `p` replaced. -/
def updFirst {α : Type} (p : α → Bool) (f : α → α) : List α → List α
  | [] => []
  | x :: xs => if p x then f x :: xs else x :: updFirst p f xs

/-- The strand of a name, changed. -/
def State.updPeer (s : State) (die stag six : Nat) (f : Strand → Strand) : State :=
  if s.others.any fun k => k.resident && k.named die stag six then
    { s with others := updFirst (fun k => k.resident && k.named die stag six) f s.others }
  else { s with dev := { s.dev with images := updFirst (fun k => k.named die stag six) f s.dev.images } }

/-- Where a byte of an object stands in a context image (Table 15-15, R335). -/
def objImage (obj off : Nat) : Nat :=
  let q := off / 0x4000
  let r := off % 0x4000
  match obj with
  | 0 => 0x6B000 + off
  | 1 => 0x26B000 + off
  | 2 => 0xC40 + off
  | 3 => 0x4C40 + off
  | 4 => 0x4F80 + off
  | 5 => 0x44FC0 + off
  | _ =>
    if q < 13 then
      if r < 0x100 then 0x45FC0 + 8 * q + r
      else if q < 4 then 0x46040 + 8192 * q + (r - 0x100)
      else if q < 10 then 0x4E040 + 128 * (q - 4) + (r - 0x100)
      else 0x4E340 + 8 * (q - 10) + (r - 0x100)
    else if off - 0x34000 < 16 then 0x4E380 + (off - 0x34000)
    else 0x4E3C0 + (off - 0x34040)

/-- Bytes of a strand's image that lies in memory, written there by logged stores: what reaches a saved strand changes its
image (R149, R319, R335). -/
def State.writeSaved (s : State) (die stag six off : Nat) (bs : List Byte) : State :=
  match (if s.others.any fun k => k.resident && k.named die stag six then none else s.dev.images.find? fun k => k.named die stag six) with
  | none => s
  | some k => match k.imageAt.find? fun p => p.1 ≤ off && off < p.1 + p.2.2 with
    | none => s
    | some p =>
      let key := p.2.1 + (off - p.1)
      let d := (linesOf key bs.length).foldl Device.logLine s.dev
      s.setDev { d with mem := d.mem.put key bs }

/-- The byte at a place. -/
def State.getByte (s : State) : Loc → Byte
  | .own obj off => s.cur.objByte obj off
  | .peer d t x obj off => match s.findPeer d t x with
    | some k => k.objByte obj off
    | none => 0
  | .phys key => s.dev.mem.get key

/-- The byte at a place written, with nothing else. -/
def State.setByte (s : State) (l : Loc) (b : Byte) : State :=
  match l with
  | .own obj off => s.setCur (s.cur.setObjByte obj off b)
  | .peer d t x obj off =>
    let u := s.updPeer d t x fun k => k.setObjByte obj off b
    u.writeSaved d t x (objImage obj off) [((u.findPeer d t x).map fun k => k.objByte obj off).getD b]
  | .phys key => s.setDev { s.dev with mem := s.dev.mem.set key b }

/-- Bytes at a place. -/
def State.getBytes (s : State) (l : Loc) (n : Nat) : List Byte := (upto n).map fun k => s.getByte (l.add k)

/-- Bytes at a place written. -/
def State.setBytes (s : State) (l : Loc) : List Byte → State
  | [] => s
  | b :: bs => (s.setByte l b).setBytes (l.add 1) bs

/-! ### Translation -/

/-- The regions of a peer's physical space (Table 16-1). -/
inductive PhysRegion where
  | stacked
  | lpddr
  | host
  | mailbox
  | chip
  deriving DecidableEq, Repr

/-- The region that holds `n` bytes from `pa` whole; none when any lies in a hole. -/
def physRegion (peer pa n : Nat) : Option PhysRegion :=
  if pa + n ≤ 0x800000000 then some .stacked
  else if 0x1000000000 ≤ pa && pa + n ≤ 0x4000000000 then some .lpddr
  else if 0x80000000000 ≤ pa && pa + n ≤ 0x90000000000 && (peer % 8 == 0 || peer % 8 == 4) then some .host
  else if 0xFFE00000000 ≤ pa && pa + n ≤ 0xFFE00010000 then some .mailbox
  else if 0xFFF0000000000 ≤ pa && pa + n ≤ 0x10000000000000 then some .chip
  else none

/-- The first of `n` bytes at an on-chip physical address that names no object (R80, Table 4-3). -/
def chipMiss (pa n : Nat) : Option Nat :=
  let size := objSize (pa / 2 ^ 24 % 16)
  let off := pa % 2 ^ 24
  if pa / 2 ^ 40 != 0xFFF || pa / 2 ^ 37 % 8 != 0 || size ≤ off then some 0
  else if size < off + n then some (size - off)
  else none

/-- The object and place of an on-chip physical address (Table 4-3): (place, object), or the index of the first byte in
error. The object of a core that holds no strand is its memory in `Device.mem`, which granary hosts use (R412). -/
def State.chipAt (s : State) (pkg pa n : Nat) : Nat ⊕ (Loc × Nat × Nat) :=
  let obj := pa / 2 ^ 24 % 16
  let off := pa % 2 ^ 24
  let die := pa / 2 ^ 34 % 8
  let core := pa / 2 ^ 28 % 512
  match chipMiss pa n with
  | some k => .inl k
  | none =>
    let here := pkg == s.dev.pkg.toNat
    let peer := pkg * 8 + die
    if here && s.cur.resident && s.cur.id.coreNum.toNat == core then .inr (.own obj off, obj, peer)
    else match (if here then s.others.find? fun k => k.resident && k.id.coreNum.toNat == core else none) with
      | some k => .inr (.peer k.id.die.toNat k.id.stag.toNat k.id.six.toNat obj off, obj, peer)
      | none => .inr (.phys (physKey peer pa), obj, peer)

/-- The place in this package, or in the memory of another, that a physical key names. -/
def State.placeAt (s : State) (key n : Nat) : Loc :=
  match physRegion (key / 2 ^ 52) (key % 2 ^ 52) n with
  | some .chip => match s.chipAt (key / 2 ^ 52 / 8) (key % 2 ^ 52) n with
    | .inr (loc, _, _) => loc
    | .inl _ => .phys key
  | _ => .phys key

/-- A number of `n` bytes at the place a physical key names, as the walkers read it: tables may lie in any memory (R355,
R360). -/
def State.natAt (s : State) (key n : Nat) : Nat :=
  match s.placeAt key n with
  | .phys k => s.dev.mem.nat k n
  | l => leNat (s.getBytes l n)

/-- Whether a package belongs to the domain (R88, R355). -/
def State.inDomain (s : State) (pkg : Nat) : Bool := pkg == s.dev.pkg.toNat || Config.domainPackages.contains pkg

/-- The peer field of an entry (Table 16-2). -/
def ptePeer (e : Nat) : Nat := e / 2 ^ 52 % 2048
/-- The address bits of an entry. -/
def pteAddr (e : Nat) : Nat := e / 2 ^ 13 % 2 ^ 39 * 2 ^ 13
/-- A bit of an entry. -/
def pteBit (e k : Nat) : Bool := Nat.testBit e k

/-- The bytes a leaf of a level maps (R353). -/
def pageBytes (level : Nat) : Nat := 65536 * 1024 ^ (3 - level)

/-- Whether a valid entry is well formed at its level (R355). -/
def State.pteOk (s : State) (e level : Nat) : Bool :=
  !pteBit e 63 && s.inDomain (ptePeer e / 8) &&
  if pteBit e 1 then
    level != 0 && e / 128 % 4 != 3 && e / 512 % 4 != 3 && !(pteBit e 3 && pteBit e 4) && !pteBit e 11 &&
      e / 2 ^ 13 % 8 == 0 && pteAddr e % pageBytes level == 0 &&
      match physRegion (ptePeer e) (pteAddr e) (pageBytes level) with
      | none => false
      | some .host | some .mailbox => pteBit e 6
      | some _ => true
  else level != 3 && e / 4 % 2048 == 0 && (physRegion (ptePeer e) (pteAddr e) 8192).isSome

/-- The walk from a table (R353, R355): the leaf and its level, and the lines the walkers read. -/
def State.walkFrom (s : State) (va : Nat) : Nat → Nat → Nat → List Nat × Option (Nat × Nat)
  | 0, _, _ => ([], none)
  | fuel + 1, level, table =>
    let key := table + 8 * (va / 2 ^ (46 - 10 * level) % 1024)
    let e := s.natAt key 8
    if !pteBit e 0 || !s.pteOk e level then ([key / 64], none)
    else if pteBit e 1 then ([key / 64], some (e, level))
    else
      let r := s.walkFrom va fuel (level + 1) (physKey (ptePeer e) (pteAddr e))
      (key / 64 :: r.1, r.2)

/-- A word of the current address space's entry in the address space table of the current die (R356). -/
def State.astWord (s : State) (asid k : Nat) : Nat :=
  s.natAt (physKey (s.dev.peerOf s.cur.id.die.toNat) (s.myDie.win.astbase.toNat + 32 * asid + 8 * k)) 8

/-- Whether a word of the address space table names a table: valid, in the pointer layout of Table 16-2 (R356). -/
def State.tableNamed (s : State) (e : Nat) : Bool := pteBit e 0 && !pteBit e 1 && s.pteOk e 0

/-- Whether an address space translates at all: its ROOT names a table (R356). -/
def State.rooted (s : State) (asid : Nat) : Bool := s.tableNamed (s.astWord asid 0)

/-- A full walk of an address space (R353 to R356). -/
def State.walk (s : State) (asid va : Nat) : List Nat × Option (Nat × Nat) :=
  let root := s.astWord asid 0
  if s.rooted asid then s.walkFrom va 4 0 (physKey (ptePeer root) (pteAddr root)) else ([], none)

/-- Whether a level-2 entry of the commit map names a bitmap: valid, in the layout of R357. -/
def State.bitmapNamed (s : State) (e : Nat) : Bool :=
  pteBit e 0 && e / 2 % 64 == 0 && !pteBit e 63 && s.inDomain (ptePeer e / 8) &&
    (physRegion (ptePeer e) (e / 128 % 2 ^ 45 * 128) 128).isSome

/-- The place of the commit bit of a unit, as (place of its byte, bit), or none where an entry on its path has V = 0 or
breaks its layout (R357). -/
def State.commitFrom (s : State) (va : Nat) : Nat → Nat → Nat → Option (Nat × Nat)
  | 0, _, _ => none
  | fuel + 1, level, table =>
    let e := s.natAt (table + 8 * (va / 2 ^ (46 - 10 * level) % 1024)) 8
    if level = 2 then
      let bit := va / 65536 % 1024
      if s.bitmapNamed e then some (physKey (ptePeer e) (e / 128 % 2 ^ 45 * 128) + bit / 8, bit % 8) else none
    else if s.tableNamed e then s.commitFrom va fuel (level + 1) (physKey (ptePeer e) (pteAddr e))
    else none

/-- The commit bit's place for an address space. -/
def State.commitPlace (s : State) (asid va : Nat) : Option (Nat × Nat) :=
  let root := s.astWord asid 1
  if s.tableNamed root then s.commitFrom va 3 0 (physKey (ptePeer root) (pteAddr root)) else none

/-- Whether the commit map shows a unit as committed (R357). -/
def State.mapCommitted (s : State) (asid va : Nat) : Bool :=
  match s.commitPlace asid va with
  | some (k, b) => Nat.testBit (s.natAt k 1) b
  | none => false

/-- The lines the walkers read on the path of a commit bit (R357). -/
def State.commitLines (s : State) (va : Nat) : Nat → Nat → Nat → List Nat
  | 0, _, _ => []
  | fuel + 1, level, table =>
    let key := table + 8 * (va / 2 ^ (46 - 10 * level) % 1024)
    let e := s.natAt key 8
    if level = 2 then
      key / 64 :: (if s.bitmapNamed e then [(physKey (ptePeer e) (e / 128 % 2 ^ 45 * 128) + va / 65536 % 1024 / 8) / 64] else [])
    else if s.tableNamed e then key / 64 :: s.commitLines va fuel (level + 1) (physKey (ptePeer e) (pteAddr e))
    else [key / 64]

/-- Whether a TLB entry translates an address of an address space (R359). -/
def TlbEntry.covers (e : TlbEntry) (asid va : Nat) : Bool := e.asid == asid && va / pageBytes e.level == e.page

/-- The first-level TLB of a core (R359). -/
def Die.l1Of (x : Die) (core : Nat) : List TlbEntry := lookupD [] x.l1 core

/-- The TLB entry that translates an address for the current strand: of its core's first level, or of the die's second
level, which the agents of the die use alone (R359). -/
def State.tlbFind (s : State) (asid va : Nat) : Option TlbEntry :=
  let first := if s.cur.resident then (s.myDie.l1Of s.cur.id.coreNum.toNat).find? fun e => e.covers asid va else none
  first <|> s.myDie.tlb.find? fun e => e.covers asid va

/-- The mapping of scheduler firmware that holds an address. -/
def State.ownMapping (s : State) (asid va : Nat) : Option Mapping :=
  s.dev.maps.find? fun m => m.asid == asid && m.base.toNat ≤ va && va < m.base.toNat + m.units * 65536

/-- The leaf of a page of a mapping: bits [63:16] name the frame (Table 16-2). -/
def Mapping.leaf (m : Mapping) (va : Nat) : Nat := m.key + (va - m.base.toNat) / 65536 * 65536 + m.attrs

/-- The leaf that the tables give an address: of a mapping of firmware's, or of a walk (R353, R356). -/
def State.tableLeaf (s : State) (asid va : Nat) : Option (Nat × Nat) :=
  match (if s.rooted asid then s.ownMapping asid va else none) with
  | some m => some (m.leaf va, 3)
  | none => (s.walk asid va).2

/-- The leaf of an address: of a TLB entry, else of the tables; with MIG = 1 the walk is made again (R364). -/
def State.leafOf (s : State) (asid va : Nat) : Option (Nat × Nat) :=
  match s.tlbFind asid va with
  | some e => if pteBit e.leaf.toNat 12 then s.tableLeaf asid va else some (e.leaf.toNat, e.level)
  | none => s.tableLeaf asid va

/-- Whether a unit is committed: a mapping's of firmware, one a TLB shows committed, or one of the commit map (R359). -/
def State.committed (s : State) (asid va : Nat) : Bool :=
  (s.ownMapping asid va).isSome || (match s.tlbFind asid va with
   | some e => e.seen.contains (va / 65536)
   | none => false) || s.mapCommitted asid va

/-- The line of a word of the address space table. -/
def State.astLine (s : State) (asid k : Nat) : Nat :=
  physKey (s.dev.peerOf s.cur.id.die.toNat) (s.myDie.win.astbase.toNat + 32 * asid + 8 * k) / 64

/-- The poisoned lines the walkers read to translate a TV address of the current address space, when no TLB and no mapping
of firmware's gives its leaf (R353, R359, R420). -/
def State.walkPoison (s : State) (va : Nat) : List Nat :=
  let asid := s.cur.id.asid.toNat
  let held := match s.tlbFind asid va with
    | some e => !pteBit e.leaf.toNat 12
    | none => false
  if s.dev.poison.isEmpty || held || (s.ownMapping asid va).isSome then []
  else (s.astLine asid 0 :: (s.walk asid va).1).filter s.dev.poison.contains

/-- The poisoned lines the walkers read to learn whether a unit is committed (R357, R359, R420). -/
def State.mapPoison (s : State) (va : Nat) : List Nat :=
  let asid := s.cur.id.asid.toNat
  let seen := match s.tlbFind asid va with
    | some e => e.seen.contains (va / 65536)
    | none => false
  if s.dev.poison.isEmpty || seen || (s.ownMapping asid va).isSome then []
  else
    let root := s.astWord asid 1
    (s.astLine asid 1 :: (if s.tableNamed root then s.commitLines va 3 0 (physKey (ptePeer root) (pteAddr root)) else [])).filter
      s.dev.poison.contains

/-! ### What an address names -/

/-- What is known of a range once it is translated: its place and the physical key of it, page attributes (`pkind` 0 SO, 1 RC, 2 UO; on-chip objects
follow RC, R78), owner, memory class, commit state and the object rules that apply (Tables 4-2 and 4-4). -/
structure Hit where
  loc : Loc
  key : Nat
  r : Bool
  w : Bool
  x : Bool
  u : Bool
  irr : Bool
  pkind : Nat
  mode : Nat
  level : Nat
  peer : Nat
  remote : Bool
  cls : Option (BitVec 1)
  committed : Bool
  gran : Bool
  noLdst : Bool
  queueObj : Bool
  omPhys : Bool
  deriving DecidableEq, Repr

/-- The outcome of translating a range: what it names, the index of the first byte that fails, or a wait for a page
that moves (R364). -/
inductive Found where
  | hit (h : Hit)
  | miss (k : Nat)
  | wait
  deriving DecidableEq, Repr

/-- An on-chip object of the given place: no page, every right, the object rules of Table 4-2. -/
def objHit (loc : Loc) (key obj : Nat) (peer : Nat) (remote omPhys : Bool) : Hit :=
  { loc := loc, key := key, r := true, w := true, x := false, u := true, irr := false, pkind := 1, mode := 0, level := 0, peer := peer,
    remote := remote, cls := none, committed := true, gran := obj == 1, noLdst := 2 ≤ obj && obj ≤ 5,
    queueObj := obj == 6, omPhys := omPhys }

/-- The peer number of the current strand's die. -/
def State.myPeer (s : State) : Nat := s.dev.peerOf s.cur.id.die.toNat

/-- The physical key of a byte of an object of a core of this package (Table 4-3). -/
def Device.chipKey (d : Device) (core obj off : Nat) : Nat :=
  physKey (d.peerOf (core / 64)) (0xFFF * 2 ^ 40 + core * 2 ^ 28 + obj * 2 ^ 24 + off)

/-- What a TV range within one 64 KiB unit names (R81, R352 to R357). -/
def State.findTv (s : State) (va n : Nat) : Found :=
  let asid := s.cur.id.asid.toNat
  if 2 ^ 56 ≤ va then .miss 0
  else if 2 ^ 56 < va + n then .miss (2 ^ 56 - va)
  else match s.leafOf asid va with
    | none => .miss 0
    | some (e, level) =>
      if pteBit e 12 then .wait
      else
        let pa := pteAddr e + va % pageBytes level
        let peer := ptePeer e
        let page (loc : Loc) (owner : Nat) (cls : Option (BitVec 1)) (obj : Option Nat) : Found :=
          .hit { loc := loc, key := physKey owner pa, r := pteBit e 2, w := pteBit e 3, x := pteBit e 4, u := pteBit e 5, irr := pteBit e 6
                 pkind := e / 128 % 4, mode := e / 512 % 4, level := level, peer := owner, remote := owner != s.myPeer, cls := cls
                 committed := cls.isNone || s.committed asid va, gran := obj == some 1
                 noLdst := match obj with
                   | some o => 2 ≤ o && o ≤ 5
                   | none => false
                 queueObj := obj == some 6, omPhys := false }
        match physRegion peer pa n with
        | none => .miss 0
        | some .stacked => page (.phys (physKey peer pa)) peer (some 0) none
        | some .lpddr => page (.phys (physKey peer pa)) peer (some 1) none
        | some .host | some .mailbox => page (.phys (physKey peer pa)) peer none none
        | some .chip => match s.chipAt (peer / 8) pa n with
          | .inl k => .miss k
          | .inr (loc, obj, owner) => page loc owner none (some obj)

/-- What the `n` bytes from byte `start` of an access at `ea` name: the spaces of Table 4-1 (R76 to R80). In TV they lie
within one 64 KiB unit, and one that the access reaches past the end of TV does not exist (R77). -/
def State.locate (s : State) (ea : Word) (start n : Nat) : Found :=
  let off := ea.toNat % 2 ^ 56 + start
  let own (obj o : Nat) : Hit :=
    objHit (.own obj o) (s.dev.chipKey s.cur.id.coreNum.toNat obj o) obj s.myPeer false false
  let space (obj : Nat) : Found :=
    if objSize obj ≤ off then .miss 0
    else if objSize obj < off + n then .miss (objSize obj - off)
    else .hit (own obj off)
  match ea.toNat / 2 ^ 56 with
  | 0 => s.findTv off n
  | 1 => space 0
  | 2 => space 1
  | 3 =>
    let six := off / 2 ^ 28 % 8
    let obj := off / 2 ^ 24 % 16
    let o := off % 2 ^ 24
    if off / 2 ^ 31 != 0 || s.cur.id.scntM1.toNat < six || 6 < obj || objSize obj ≤ o then .miss 0
    else if objSize obj < o + n then .miss (objSize obj - o)
    else
      if six == s.cur.id.six.toNat then .hit (own obj o)
      else
        let key := match s.findPeer s.cur.id.die.toNat s.cur.id.stag.toNat six with
          | some k => s.dev.chipKey k.id.coreNum.toNat obj o
          | none => 0
        .hit (objHit (.peer s.cur.id.die.toNat s.cur.id.stag.toNat six obj o) key obj s.myPeer false false)
  | 4 =>
    if 2 ^ 52 ≤ off then .miss 0
    else match s.chipAt s.dev.pkg.toNat off n with
      | .inl k => .miss k
      | .inr (loc, obj, peer) => .hit (objHit loc (physKey peer off) obj peer (peer != s.myPeer) true)
  | _ => .miss 0

/-- A part of an access that lies within one 64 KiB unit: its first byte's index, its length, what it names. -/
structure Piece where
  start : Nat
  len : Nat
  hit : Hit
  deriving DecidableEq, Repr

/-- The lengths of the parts of a range, cut at the unit boundaries in TV (R84) and nowhere else. -/
def splits (ea : Word) (n : Nat) : List (Nat × Nat) :=
  if ea.toNat / 2 ^ 56 = 0 then
    let first := 65536 - ea.toNat % 65536
    if n ≤ first then [(0, n)]
    else (0, first) :: (upto ((n - first + 65535) / 65536)).map fun k =>
      (first + 65536 * k, min 65536 (n - first - 65536 * k))
  else [(0, n)]

/-- Kinds of access, for the permission checks (R82, R105, R226). -/
inductive AccKind where
  | load
  | store
  | release
  | atomic
  deriving DecidableEq, Repr

/-- DETAIL of a translation or permission fault (Table 15-10). -/
def AccKind.detail : AccKind → BitVec 16
  | .load => 0
  | .store => 1
  | .release => 1
  | .atomic => 2

/-- DETAIL of a fault of a check: only causes 0x04 and 0x05 carry the kind (Table 15-10). -/
def chkDetail (c : BitVec 8) (d : BitVec 16) : BitVec 16 := if c == 0x04 || c == 0x05 then d else 0

/-- The outcome of the checks of Table 9-1 up to order 6. -/
inductive Chk where
  | ok (ps : List Piece)
  | fault (cause : BitVec 8) (faddr : Word)
  | wait
  deriving DecidableEq, Repr

/-- Whether a store to the queue object finds its target frozen or saved (R335). -/
def State.queueOpen (s : State) : Loc → Bool
  | .own _ _ => s.cur.frozen
  | .peer d t x _ _ => match s.others.find? fun k => k.resident && k.named d t x with
    | some k => k.frozen
    | none => true
  | .phys _ => true

/-- Whether a part breaks a permission rule (R82, R105, R220, R226, R333, Table 4-2). -/
def State.denied (s : State) (kind : AccKind) (h : Hit) : Bool :=
  let user := !s.cur.id.sys
  (user && !h.u) ||
  (match kind with
   | .load => !h.r || (user && h.irr)
   | .store => !h.w
   | .release => !h.w || h.irr
   | .atomic => !h.r || !h.w || (user && h.irr)) ||
  h.noLdst ||
  (h.queueObj && kind != .load && !s.queueOpen h.loc)

/-- The privilege check made on the address alone (Table 9-1, order 2): OM physical space and the queue object in user
mode (R79, R80). -/
def State.privileged (s : State) (ea : Word) : Bool :=
  !s.cur.id.sys && (ea.toNat / 2 ^ 56 == 4 || (ea.toNat / 2 ^ 56 == 3 && ea.toNat / 2 ^ 24 % 16 == 6))

/-- The poisoned lines the walkers read for byte `a` of a range (R420); `map` asks for the commit map's. -/
def State.pathPoison (s : State) (ea : Word) (a : Nat) (map : Bool) : List Nat :=
  let va := ea.toNat % 2 ^ 56 + a
  if ea.toNat / 2 ^ 56 != 0 || 2 ^ 56 ≤ va then [] else if map then s.mapPoison va else s.walkPoison va

/-- The parts of a range translated: every part, or the first failure; a walker that reads poison consumes it (R420). -/
def State.locateAll (s : State) (ea : Word) : List (Nat × Nat) → Chk
  | [] => .ok []
  | (a, n) :: rest =>
    if !(s.pathPoison ea a false).isEmpty then .fault 0x10 (ea + BitVec.ofNat 64 a) else
    match s.locate ea a n with
    | .miss k => .fault 0x04 (ea + BitVec.ofNat 64 (a + k))
    | .wait => .wait
    | .hit h =>
      if h.cls.isSome && !(s.pathPoison ea a true).isEmpty then .fault 0x10 (ea + BitVec.ofNat 64 a) else
      match s.locateAll ea rest with
      | .ok ps => .ok ({ start := a, len := n, hit := h } :: ps)
      | e => e

/-- The first part for which `p` holds, as the address of its first byte. -/
def firstPart (p : Hit → Bool) (ea : Word) (ps : List Piece) : Option Word :=
  (ps.find? fun q => p q.hit).map fun q => ea + BitVec.ofNat 64 q.start

/-- The first part of a range that a user access reaches in a system-only object through a page (R79, R80). -/
def State.systemOnly (s : State) (ea : Word) (n : Nat) : Option Word :=
  if s.cur.id.sys || ea.toNat / 2 ^ 56 != 0 then none
  else (splits ea n).findSome? fun p => match s.locate ea p.1 p.2 with
    | .hit h => if h.queueObj then some (ea + BitVec.ofNat 64 p.1) else none
    | _ => none

/-- The checks of Table 9-1, orders 2 to 6, on one access of `n` bytes; `align` is 1 where any byte address will do,
`gran` marks the operations that only granaries perform (R100). -/
def State.check (s : State) (kind : AccKind) (align : Nat) (gran : Bool) (ea : Word) (n : Nat) : Chk :=
  if s.privileged ea then .fault 0x02 ea
  else if let some a := s.systemOnly ea n then .fault 0x02 a
  else if ea.toNat % align != 0 then .fault 0x03 ea
  else match s.locateAll ea (splits ea n) with
    | .ok ps =>
      if let some a := firstPart (s.denied kind) ea ps then .fault 0x05 a
      else if let some a := firstPart (fun h => gran && !h.gran) ea ps then .fault 0x05 a
      else .ok ps
    | e => e

/-! ### TLB fills, poison and the walkers -/

/-- The entry with a unit seen committed. -/
def TlbEntry.saw (e : TlbEntry) (unit : Nat) (committed : Bool) : TlbEntry :=
  if committed && !e.seen.contains unit then { e with seen := unit :: e.seen } else e

/-- A TLB of `size` entries with an entry in it; the oldest leaves a full one (R359, assumption log 70). -/
def tlbPut (size : Nat) (e : TlbEntry) (l : List TlbEntry) : List TlbEntry :=
  let same (o : TlbEntry) : Bool := o.asid == e.asid && o.level == e.level && o.page == e.page
  if l.any same then l.map fun o => if same o then e else o else (e :: l).take size

/-- A die with an entry in its second-level TLB and in the first-level one of a core (R359). -/
def Die.tlbKeep (x : Die) (core : Option Nat) (e : TlbEntry) : Die :=
  { x with tlb := tlbPut 16384 e x.tlb
           l1 := match core with
             | some c => insertKey x.l1 c (tlbPut 256 e (x.l1Of c))
             | none => x.l1 }

/-- The TLBs without the entries that `p` tells. -/
def Die.tlbDrop (x : Die) (p : TlbEntry → Bool) : Die :=
  { x with tlb := x.tlb.filter fun e => !p e, l1 := x.l1.map fun c => (c.1, c.2.filter fun e => !p e) }

/-- The entries that cover a unit show it committed (R357, R359). -/
def Die.tlbCommit (x : Die) (asid unit : Nat) : Die :=
  let mark (e : TlbEntry) : TlbEntry := e.saw unit (e.covers asid (unit * 65536))
  { x with tlb := x.tlb.map mark, l1 := x.l1.map fun c => (c.1, c.2.map mark) }

/-- The TLBs after an access has used a unit's translation (R359). -/
def State.fillTlb (s : State) (va : Nat) : State :=
  let asid := s.cur.id.asid.toNat
  let core := if s.cur.resident then some s.cur.id.coreNum.toNat else none
  let keep (e : TlbEntry) : State :=
    s.setMyDie (s.myDie.tlbKeep core (e.saw (va / 65536) (s.mapCommitted asid va)))
  match s.tlbFind asid va with
  | some e => if pteBit e.leaf.toNat 12 then s else keep e
  | none => match s.leafOf asid va with
    | none => s
    | some (e, level) =>
      keep { asid := asid, page := va / pageBytes level, level := level, leaf := BitVec.ofNat 64 e, seen := [] }

/-- The parts of an access that lie in TV leave their translations in the TLB. -/
def State.fillAll (s : State) (ea : Word) (ps : List Piece) : State :=
  if ea.toNat / 2 ^ 56 = 0 then ps.foldl (fun t p => t.fillTlb (ea.toNat + p.start)) s else s

/-- The poisoned lines that a part reads, of memory or of an on-chip object (R211, R299, R420). -/
def State.poisonIn (s : State) (ps : List Piece) : List Nat :=
  ps.flatMap fun p => match p.hit.loc with
    | .phys key => if p.hit.cls.isSome && !p.hit.committed then [] else (linesOf key p.len).filter s.dev.poison.contains
    | _ => (linesOf p.hit.key p.len).filter s.dev.poison.contains

/-- FADDR of a read at `ea` that meets poison: the first byte it reads in a poisoned line (Table 15-9). -/
def State.poisonAddr (s : State) (ea : Word) (ps : List Piece) : Word :=
  (ps.findSome? fun p => match s.poisonIn [p] with
    | l :: _ => some (ea + BitVec.ofNat 64 (p.start + (l * 64 - p.hit.key)))
    | [] => none).getD ea

/-- The poisoned lines consumed where a check failed with cause 0x10 at an address: those of its walks, else the one that
holds its byte (R420). -/
def State.poisonOf (s : State) (a : Word) : List Nat :=
  match s.pathPoison a 0 false ++ s.pathPoison a 0 true with
  | [] => match s.locate a 0 1 with
    | .hit h => s.poisonIn [{ start := 0, len := 1, hit := h }]
    | _ => []
  | ls => ls

/-- What a failed check raises: poison that a walker met is consumed, any other failure is the fault (R337, R420). -/
def State.raiseAt (s : State) (c : BitVec 8) (d : BitVec 16) (a aux : Word) : State :=
  if c = 0x10 then s.poisoned (s.poisonOf a) (s.faultRec 0x10 s.who.num false 0 s.me.iaddr a (s.me.aux 0))
  else s.raise c d a aux

/-! ### Speculative overlays, line caches, migration counts -/

/-- The speculation of the current strand (R401). -/
def State.mySpec (s : State) : Option Speculation :=
  match s.cur.spec with
  | some n => s.dev.specs.find? fun p => p.num == n
  | none => none

/-- The speculation replaced. -/
def State.setSpec (s : State) (p : Speculation) : State :=
  { s with dev := { s.dev with specs := s.dev.specs.map fun q => if q.num == p.num then p else q } }

/-- A line enters a read set: exactly while it holds fewer than 4,096 lines, else as two filter bits (R401). -/
def Speculation.sawLine (p : Speculation) (line : Nat) : Speculation :=
  if p.readSet.contains line then p
  else if p.readSet.length < 4096 then { p with readSet := line :: p.readSet }
  else { p with filter := (bloomBits line ++ p.filter).eraseDups }

/-- The cached line of a die (R368). -/
def Die.lineFind (x : Die) (line : Nat) : Option CacheLine := x.lines.find? fun c => c.line == line

/-- The byte a load of the current strand reads at a place: 0 in an uncommitted unit (R102), the bivouac's byte in a
speculative run (R401), the die's cached byte of a cached remote line (R86), else the byte there. -/
def State.loadByte (s : State) (h : Hit) (k : Nat) : Byte :=
  match h.loc.add k with
  | .phys key =>
    let spec := match s.mySpec with
      | some p => if p.written.contains key then some (p.writes.get key) else none
      | none => none
    match spec with
    | some b => b
    | none =>
      if h.cls.isSome && !h.committed then 0
      else if h.remote && h.mode == 1 then
        match s.myDie.lineFind (key / 64) with
        | some c => if c.present.getLsbD (key % 64) then byteOf c.data (key % 64) else s.getByte (.phys key)
        | none => s.getByte (.phys key)
      else s.getByte (.phys key)
  | l => s.getByte l

/-- The bytes a checked load reads. -/
def State.loadBytes (s : State) (ps : List Piece) : List Byte :=
  ps.flatMap fun p => (upto p.len).map fun k => s.loadByte p.hit k

/-- A write-back of one cached line: only the dirty bytes, which are stores at the owner (R368, R408); one of all 64 bytes ends
the line's poison (R420, R423). -/
def State.writeBack (s : State) (c : CacheLine) : State :=
  if c.dirty = 0 then s else
  let d1 := (s.dev.logLine c.line).monitor c.line
  let whole := c.dirty == -1
  s.setDev { d1 with
    mem := (upto 64).foldl (fun (m : Memory) k =>
      if c.dirty.getLsbD k then m.set (c.line * 64 + k) (byteOf c.data k) else m) d1.mem
    poison := if whole then d1.poison.filter fun l => !(l == c.line) else d1.poison
    restored := if whole then d1.restored.filter fun l => !(l == c.line) else d1.restored }

/-- A cached line of a die written back and dropped (R368, R369). -/
def State.evict (s : State) (die line : Nat) : State :=
  match (s.dev.die die).lineFind line with
  | none => s
  | some c =>
    let s1 := s.writeBack c
    let x := s1.dev.die die
    s1.setDev (s1.dev.setDie die { x with lines := x.lines.filter fun y => !(y.line == line) })

/-- The lines of `n` bytes at a key leave the current die's cache before a direct access (R369). -/
def State.evictKey (s : State) (key n : Nat) : State :=
  (linesOf key n).foldl (fun u l => u.evict u.cur.id.die.toNat l) s

/-- Whether a cached line is the tent's: one of its strands has touched it (R368). -/
def CacheLine.isOf (c : CacheLine) (tid : BitVec 8) : Bool := c.tids.contains tid

/-- A line that a tent has touched. -/
def CacheLine.touch (c : CacheLine) (tid : BitVec 8) : CacheLine :=
  if c.tids.contains tid then c else { c with tids := tid :: c.tids }

/-- Every dirty line of the tent on the die written back (R368). -/
def State.writeBackTent (s : State) : State :=
  let die := s.cur.id.die.toNat
  let mine := s.myDie.lines.filter fun c => c.isOf s.cur.id.tid
  let s1 := mine.foldl State.writeBack s
  let x := s1.dev.die die
  let clean (c : CacheLine) : CacheLine := if c.isOf s.cur.id.tid then { c with dirty := 0 } else c
  s1.setDev (s1.dev.setDie die { x with lines := x.lines.map clean })

/-- Every line of the tent on the die written back and dropped (R86, R368). -/
def State.dropTent (s : State) : State :=
  let s1 := s.writeBackTent
  let x := s1.myDie
  s1.setMyDie { x with lines := x.lines.filter fun (c : CacheLine) => !c.isOf s.cur.id.tid }

/-- A line's data with the bytes that a cached copy does not hold taken from the owner's. -/
def CacheLine.filled (c : CacheLine) (mem : BitVec 512) : BitVec 512 :=
  (upto 64).foldl (fun (d : BitVec 512) k => if c.present.getLsbD k then d else setByteOf d k (byteOf mem k)) c.data

/-- A die with a fetched line in its cache, for a tent (R367). -/
def Die.install (x : Die) (tid : BitVec 8) (line : Nat) (mem : BitVec 512) : Die :=
  match x.lineFind line with
  | none => { x with lines := { line := line, tids := [tid], data := mem, dirty := 0, present := -1 } :: x.lines }
  | some c =>
    let c1 := { c.touch tid with data := c.filled mem, present := -1 }
    { x with lines := x.lines.map fun y => if y.line == line then c1 else y }

/-- Whether a die's cache holds the bytes of a range that lie in a line. -/
def Die.holds (x : Die) (key len line : Nat) : Bool :=
  let from_ := max (line * 64) key
  let n := min (line * 64 + 64) (key + len) - from_
  match x.lineFind line with
  | some c => (upto n).all fun k => c.present.getLsbD (from_ % 64 + k)
  | none => false

/-- A die whose cached line a tent has touched (R368). -/
def Die.touch (x : Die) (tid : BitVec 8) (line : Nat) : Die :=
  { x with lines := x.lines.map fun (c : CacheLine) => if c.line == line then c.touch tid else c }

/-- The lines of `n` bytes at a key that the current die holds are touched by the current tent (R368). -/
def State.touchKey (s : State) (key n : Nat) : State :=
  s.setMyDie ((linesOf key n).foldl (fun x l => x.touch s.cur.id.tid l) s.myDie)

/-- A cached load of some bytes of a line at once: a hit touches the line, a miss fetches it (R367, R368). -/
def State.fetchLine (s : State) (key len line : Nat) : State :=
  if s.myDie.holds key len line then s.setMyDie (s.myDie.touch s.cur.id.tid line)
  else s.setMyDie (s.myDie.install s.cur.id.tid line (s.dev.lineData line))

/-- A store to a cached remote line: the bytes are dirty, a miss allocates the line without fetching it (R367). -/
def State.cacheStore (s : State) (key : Nat) (b : Byte) : State :=
  let x := s.myDie
  let line := key / 64
  let c := ((x.lineFind line).getD { line := line, tids := [], data := 0, dirty := 0, present := 0 }).touch s.cur.id.tid
  let c1 := { c with data := setByteOf c.data (key % 64) b, dirty := c.dirty ||| (1#64 <<< (key % 64))
                     present := c.present ||| (1#64 <<< (key % 64)) }
  s.setMyDie { x with lines := c1 :: x.lines.filter fun y => !(y.line == line) }

/-- A part served from the die's remote line cache (R86, R367): a cached page of another die's memory. -/
def Hit.cached (h : Hit) : Bool := h.remote && h.mode == 1 && (match h.loc with
  | .phys _ => true
  | _ => false)

/-- A part performed by a request to its owner (R367). -/
def Hit.direct (h : Hit) : Bool := h.remote && !h.cached

/-- Whether an access to a part counts toward migration: from another die, to a migrate-mode 64 KiB page (R363). -/
def Hit.counts (h : Hit) : Bool := h.remote && h.mode == 2 && h.level == 3

/-- The count of an access from a die at the owner of a page, and the request a count at THR queues (R363). -/
def Device.countPage (d : Device) (fromDie key : Nat) : Device :=
  let peer := key / 2 ^ 52
  if d.owns peer then
    let n := peer % 8
    let x := d.die n
    let page := (key / 65536, fromDie)
    let c := lookupD 0 x.migCount page + 1
    let asked := x.migQueue.any fun q => q.1 == page.1
    d.setDie n { x with
      migCount := insertKey x.migCount page c
      migQueue := if x.win.migthr != 0 && x.win.migthr.toNat ≤ c && !asked then x.migQueue ++ [page] else x.migQueue }
  else d

/-- An access of the current strand to a part counted (R363). -/
def State.countAccess (s : State) (h : Hit) : State :=
  if h.counts then s.setDev (s.dev.countPage s.cur.id.die.toNat h.key) else s

/-- The lines of a part enter the read set of a speculative run, but for bytes it wrote itself (R401). -/
def State.sawPart (s : State) (key len : Nat) : State :=
  match s.mySpec with
  | some q =>
    let fromMemory (l : Nat) : Bool := (upto len).any fun k => (key + k) / 64 == l && !q.written.contains (key + k)
    s.setSpec (((linesOf key len).filter fromMemory).foldl Speculation.sawLine q)
  | none => s

/-- The cached lines that a load's parts lie in and the die holds are touched by its tent (R368). -/
def State.touchParts (s : State) (ps : List Piece) : State :=
  ps.foldl (fun t p => if p.hit.cached then t.touchKey p.hit.key p.len else t) s

/-- What a load performed at once leaves behind: TLB fills, the fetched lines of a cached page, the access count, the read
set of a speculative run (R359, R363, R367, R401). An uncommitted unit reads as zero and fetches nothing (R357). -/
def State.afterLoad (s : State) (ea : Word) (ps : List Piece) : State :=
  ps.foldl (fun t p =>
    let t1 := t.countAccess p.hit
    let t2 := if p.hit.cached && !(p.hit.cls.isSome && !p.hit.committed) then
      (linesOf p.hit.key p.len).foldl (fun u l => u.fetchLine p.hit.key p.len l) t1 else t1
    if p.hit.cls.isSome then t2.sawPart p.hit.key p.len else t2) (s.fillAll ea ps)

/-- The dirty lines of direct parts leave the die's cache before the access (R369). -/
def State.evictDirect (s : State) (ps : List Piece) : State :=
  ps.foldl (fun t p => if p.hit.direct then t.evictKey p.hit.key p.len else t) s

/-! ### Writing -/

/-- The lines of memory that a store's parts write now: not those of cached and irrevocable pages (R367, R408, R418). -/
def loggedLines (ps : List Piece) : List Nat :=
  ps.flatMap fun p => match p.hit.loc with
    | .phys key => if p.hit.cls.isSome && !p.hit.irr && !(p.hit.remote && p.hit.mode == 1) then linesOf key p.len else []
    | _ => []

/-- Whether a store needs undo entries that a log has no room for (R417). -/
def State.logStall (s : State) (ps : List Piece) : Bool :=
  s.cur.spec.isNone && s.dev.undoLacks (loggedLines ps)

/-- A write to the lines of stacked DRAM or LPDDR that `bs` covers from `key`: undo entries first, then the bytes; a
line covered whole loses its poison (R408, R420); the monitor sees the lines (R401). -/
def Device.dramWrite (d : Device) (key : Nat) (bs : List Byte) : Device :=
  let ls := linesOf key bs.length
  let d1 := ls.foldl (fun e l => (e.logLine l).monitor l) d
  let whole := ls.filter fun l => key ≤ l * 64 && l * 64 + 64 ≤ key + bs.length
  { d1 with mem := d1.mem.put key bs
            poison := if whole.isEmpty then d1.poison else d1.poison.filter fun l => !whole.contains l
            restored := if whole.isEmpty then d1.restored else d1.restored.filter fun l => !whole.contains l }

/-- The bytes of one part entered in the egress hold buffer, one entry for each line (R105, R418); a buffer that
reaches 75 % of its capacity requests a seal (R413). -/
def State.holdStore (s : State) (key : Nat) (bs : List Byte) : State :=
  let x := s.myDie
  let cells := (upto bs.length).zip bs
  let entries := (linesOf key bs.length).map fun l =>
    ({ line := l, bytes := (cells.filter fun c => (key + c.1) / 64 == l).map fun c => (key + c.1, c.2)
       rin := s.dev.rin, owner := none } : EgressEntry)
  let s1 := s.setMyDie { x with egress := x.egress ++ entries }
  if 4096 * 3 ≤ (x.egress.length + entries.length) * 4 then s1.setDev s1.dev.requestSeal else s1

/-! ### Requests -/

/-- The store requests of the current strand that are not yet performed; firmware's agents have none. -/
def State.storesInFlight (s : State) : List Request :=
  s.myDie.requests.filter fun r => s.cur.resident && r.kind == 1 && !r.job && !r.performed && r.core == s.cur.id.coreNum.toNat % 64 &&
    r.stag == s.cur.id.stag && r.six == s.cur.id.six

/-- The peers that a request goes to. -/
def Request.peers (r : Request) : List Nat := ((r.parts.map fun (p : ReqPart) => p.key / 2 ^ 52) ++ r.members.map Prod.fst).eraseDups

/-- The peer that a request goes to, the first of several. -/
def Request.peer (r : Request) : Nat := r.peers.headD 0

/-- The peers that have not accepted what is under way of a request: of a multicast the members that have not written
(R366, R374). -/
def Request.waitsFor (r : Request) : List Nat :=
  if r.served || r.performed then []
  else if r.kind == 3 then
    ((upto r.members.length).zip r.members).filterMap fun m => if r.wrote.getLsbD m.1 then none else some m.2.1
  else r.peers

/-- Whether a die's station may send to a destination now: it is not backing off from it (R366). -/
def Die.reaches (x : Die) (peer : Nat) : Bool := !x.backoff.any fun b => b.1 == peer

/-- Whether the sender's next first transmission is a marker: a rotation is asked for and the other slot holds a key
(R376). -/
def Link.markerNext (l : Link) : Bool := l.rotate && vget l.installed (~~~l.txSlot).toNat false

/-- Whether a link still takes first transmissions: the key of its slot is not used up, or the marker that leaves it can be sent
(R376, R377; DEDUCED for the marker of a slot that is used up, assumption log 58). -/
def Link.sends (l : Link) : Bool :=
  l.up && ((vget l.installed l.txSlot.toNat false && vget l.ctr l.txSlot.toNat 0 < 2 ^ 40) || l.markerNext)

/-- The rack ring that leads to another package, as bring-up set it: link 0 leaves by the station of die 0, link 1 by that of
die 4 (R365). -/
def Device.route (d : Device) (pkg : Nat) : Nat := (lookupD 0 d.routes pkg).toNat

/-- Whether the way to a destination is open: a die of this package, or a package whose link still sends (R365, R376,
assumption log 12). -/
def Device.wayOpen (d : Device) (peer : Nat) : Bool :=
  d.owns peer || ((d.links[d.route (peer / 8)]?).map Link.sends).getD true

/-- Whether what the current die sends to a destination at once overtakes nothing and is held by nothing: no back-off, no
earlier request to it that its owner has not accepted, timed out or not (R366). -/
def State.pathClear (s : State) (peer : Nat) : Bool :=
  s.myDie.reaches peer && s.dev.wayOpen peer && !(s.myDie.requests.any fun r => r.waitsFor.contains peer) &&
    !s.myDie.strays.any fun y => y.req.waitsFor.contains peer

/-- Whether every remote part of an access that is performed at once, and every dirty line that leaves the cache for it,
can be sent now (R366, R369). -/
def State.partsClear (s : State) (ps : List Piece) : Bool :=
  ps.all fun p => !p.hit.remote || p.hit.cached || s.pathClear p.hit.peer

/-- A free tag of the current die (R370). -/
def State.freeTag (s : State) : Option Nat :=
  let used := s.myDie.requests.map (·.tag)
  (upto 4096).find? fun t => !used.contains t

/-- A new request of the current strand under a tag. -/
def State.newRequest (s : State) (tag : Nat) (kind : BitVec 2) (parts : List ReqPart) (bytes : List Byte) (onSt : Bool)
    (iaddr faddr : Word) : Request :=
  { tag := tag, gen := lookupD 0 s.myDie.gens tag, age := 0, kind := kind, core := s.cur.id.coreNum.toNat % 64
    stag := s.cur.id.stag, six := s.cur.id.six, parts := parts, bytes := bytes, poison := [], fetched := []
    onSt := onSt, refusals := 0, served := false, performed := false, replied := false, value := 0, bitmap := 0
    members := [], chain := false, iaddr := iaddr, faddr := faddr }

/-- A request under way behind those of its die (R366). -/
def State.addRequest (s : State) (r : Request) : State :=
  s.setMyDie { s.myDie with requests := s.myDie.requests ++ [r] }

/-- A request of the current strand in flight under a tag (R366, R370). -/
def State.sendRequest (s : State) (tag : Nat) (kind : BitVec 2) (parts : List ReqPart) (bytes : List Byte) (onSt : Bool)
    (iaddr faddr : Word) : State := s.addRequest (s.newRequest tag kind parts bytes onSt iaddr faddr)

/-- A whole part as a request carries it. -/
def Piece.whole (p : Piece) : ReqPart :=
  { start := p.start, len := p.len, key := p.hit.key, pkind := p.hit.pkind, line := false, counted := p.hit.counts }

/-- The parts of a load that a request must bring (R367): direct parts whole, of cached parts the lines that the die's
cache does not hold; an uncommitted unit reads as zero at once (R102). -/
def State.loadParts (s : State) (ps : List Piece) : List ReqPart :=
  ps.flatMap fun p =>
    if p.hit.cls.isSome && !p.hit.committed then []
    else if p.hit.direct then [p.whole]
    else if p.hit.cached then
      (linesOf p.hit.key p.len).filterMap fun l =>
        let from_ := max (l * 64) p.hit.key
        let n := min (l * 64 + 64) (p.hit.key + p.len) - from_
        if s.myDie.holds p.hit.key p.len l then none
        else some { start := p.start + (from_ - p.hit.key), len := n, key := from_, pkind := p.hit.pkind, line := true
                    counted := p.hit.counts }
    else []

/-- Bytes written by the owner of a place: logged in DRAM, at once elsewhere (R367, R408). What this package writes into an
on-chip object of another package of the domain is noted there for a rollback, which undoes it too (R107). -/
def State.ownerWrite (s : State) (key : Nat) (bs : List Byte) : State :=
  match s.placeAt key bs.length with
  | .phys k =>
    let away := k % 2 ^ 52 / 2 ^ 40 == 0xFFF && !s.dev.owns (k / 2 ^ 52)
    if lineInDram (k / 64) then s.setDev (s.dev.dramWrite k bs)
    else (if away then s.setDev ((linesOf k bs.length).foldl Device.logLine s.dev) else s).setBytes (.phys k) bs
  | l => s.setBytes l bs

/-- The place of a part that a grant sends to a strand, on its core or in its saved image (R149). -/
def State.granted (s : State) (p : ReqPart) : Option Loc :=
  p.strand.map fun t =>
    let obj := p.key / 2 ^ 24 % 16
    let off := p.key % 2 ^ 24
    if s.cur.named t.1 t.2.1 t.2.2 then .own obj off else .peer t.1 t.2.1 t.2.2 obj off

/-- The place of a part of a request when it is performed. -/
def State.partPlace (s : State) (p : ReqPart) : Loc := (s.granted p).getD (s.placeAt p.key p.len)

/-- Bytes of a part written at its owner. -/
def State.ownerPut (s : State) (p : ReqPart) (bs : List Byte) : State :=
  match s.granted p with
  | some l => s.setBytes l bs
  | none => s.ownerWrite p.key bs

/-- The store parts of a request performed at their owners, counted (R363). -/
def State.ownerStores (s : State) (fromDie : Nat) (bs : List Byte) (ps : List ReqPart) : State :=
  ps.foldl (fun t p =>
    let u := if p.counted then t.setDev (t.dev.countPage fromDie p.key) else t
    u.ownerPut p ((bs.drop p.start).take p.len)) s

/-- Bytes `start` on of a list replaced. -/
def spliceAt (bs : List Byte) (start : Nat) (new : List Byte) : List Byte :=
  bs.take start ++ new ++ bs.drop (start + new.length)

/-- A load request after its owners have read its parts: the values, the lines for the cache, the poisoned lines. -/
def State.ownerRead (s : State) (r : Request) : Request :=
  r.parts.foldl (fun (q : Request) p =>
    { q with
      bytes := spliceAt q.bytes p.start (s.getBytes (s.partPlace p) p.len)
      poison := q.poison ++ (linesOf p.key p.len).filter s.dev.poison.contains
      fetched := if p.line then (p.key / 64, s.dev.lineData (p.key / 64)) :: q.fetched else q.fetched }) r

/-- The accesses of a load request counted at their owners (R363). -/
def Device.countParts (d : Device) (fromDie : Nat) (ps : List ReqPart) : Device :=
  ps.foldl (fun d p => if p.counted then d.countPage fromDie p.key else d) d

/-- What a die keeps of a load's reply: the lines fetched for its cache, unless poisoned (R367). -/
def Die.installAll (x : Die) (tid : BitVec 8) (r : Request) : Die :=
  r.fetched.foldl (fun y l => if r.poison.contains l.1 then y else y.install tid l.1 l.2) x

/-- The bytes of a load's reply, those of cached lines as the cache now holds them. -/
def Die.replyBytes (x : Die) (r : Request) : List Byte :=
  r.parts.foldl (fun bs p => match (if p.line then x.lineFind (p.key / 64) else none) with
    | some c => spliceAt bs p.start ((upto p.len).map fun k => byteOf c.data (p.key % 64 + k))
    | none => bs) r.bytes

/-- The parts of a store that a request carries to their owners (R367). -/
def storeParts (ps : List Piece) : List ReqPart := (ps.filter fun p => p.hit.direct && !p.hit.irr).map Piece.whole

/-- One part of a checked store performed on this die: entered in the bivouac of a speculative run, the hold buffer, the
line cache, memory or an object (R90, R105, R367, R401). -/
def State.storePart (s : State) (ea : Word) (p : Piece) (bs : List Byte) : State :=
  match p.hit.loc with
  | .phys key =>
    match s.mySpec with
    | some q =>
      s.setSpec { q with writes := q.writes.put key bs
                         written := ((upto bs.length).map fun k => key + k) ++ q.written.filter fun a => !(key ≤ a && a < key + bs.length)
                         units := if p.hit.cls.isSome && !p.hit.committed then ((ea.toNat + p.start) / 65536 :: q.units).eraseDups
                                  else q.units }
    | none =>
      if p.hit.irr then ((s.countAccess p.hit).evictKey key bs.length).holdStore key bs
      else if p.hit.cached then ((upto bs.length).zip bs).foldl (fun t c => t.cacheStore (key + c.1) c.2) s
      else (s.countAccess p.hit).ownerWrite key bs
  | l => if p.hit.irr then (s.countAccess p.hit).holdStore p.hit.key bs else (s.countAccess p.hit).setBytes l bs

/-- A checked store performed (R214): the parts of this die in ascending order, the others by one request. `q` is none for
a plain store and the instruction address of an STQ otherwise, whose stream st counts already (R218). -/
def State.storeBytes (s : State) (q : Option Word) (ea : Word) (ps : List Piece) (bs : List Byte) : State :=
  let part (p : Piece) : List Byte := (bs.drop p.start).take p.len
  let remote := if s.cur.spec.isSome then [] else storeParts ps
  let here (p : Piece) : Bool := s.cur.spec.isSome || p.hit.irr || !p.hit.direct
  let t := ((ps.filter here).foldl (fun t p => t.storePart ea p (part p)) (s.fillAll ea ps)).evictDirect
    (if s.cur.spec.isSome then [] else ps)
  match remote, t.freeTag with
  | p :: rest, some tag =>
    let u := t.sendRequest tag 1 (p :: rest) bs q.isNone (q.getD s.me.iaddr) (ea + BitVec.ofNat 64 p.start)
    if q.isNone then u.setCur { u.cur with st := u.cur.st + 1 } else u
  | _, _ => t

/-- A checked read performed whole at once (R367): the direct lines leave the die's cache first (R369); the machine after it
and the bytes. -/
def State.readParts (s : State) (ea : Word) (ps : List Piece) : State × List Byte :=
  let t := s.evictDirect ps
  (t.afterLoad ea ps, t.loadBytes ps)

/-- A checked store performed whole within its instruction (R241): remote parts too, once their path is clear. -/
def State.storeNow (s : State) (ea : Word) (ps : List Piece) (bs : List Byte) : State :=
  ps.foldl (fun t p => (if t.cur.spec.isSome then t else t.evictDirect [p]).storePart ea p ((bs.drop p.start).take p.len))
    (s.fillAll ea ps)

/-! ### The quota commit -/

/-- A tent by number. -/
def Device.tent (d : Device) (tid : Nat) : Option Tent := d.tents.find? fun t => t.tid == tid

/-- cfg.qstk or cfg.qlp of a tent (Table 2-8). -/
def Tent.quota (t : Tent) (cls : BitVec 1) : Word :=
  if cls = 0 then t.limStk ++ t.usedStk else t.limLp ++ t.usedLp

/-- Whether a tent has room for one more unit of a class (R103). -/
def Tent.room (t : Tent) (cls : BitVec 1) : Bool :=
  if cls = 0 then t.usedStk.toNat < t.limStk.toNat else t.usedLp.toNat < t.limLp.toNat

/-- A tent with one more committed unit of a class (R102). -/
def Tent.charge (t : Tent) (cls : BitVec 1) : Tent :=
  if cls = 0 then { t with usedStk := t.usedStk + 1 } else { t with usedLp := t.usedLp + 1 }

/-- The outcome of a commit: the machine after it, the fault (cause, class, AUX), or no room in an undo log for the logged
store to the commit map (R357, R417). -/
inductive Commit where
  | done (s : State)
  | full
  | fault (cause : BitVec 8) (detail : BitVec 16) (faddr aux : Word)

/-- One unit of the current address space committed (R102, R103, R357): USED rises unless the strand is of the system
context (R332), the commit bit is set by a logged store, the unit's bytes become zero and take the current tag without
an entry (R408), and no die's cache holds older bytes of it. -/
def State.commitUnit (s : State) (va : Nat) (faddr : Word) (cls : BitVec 1) (key : Nat) (kind : BitVec 16) : Commit :=
  match s.commitPlace s.cur.id.asid.toNat va with
  | none => .fault 0x04 kind faddr 0
  | some (place, bit) =>
    let tent := s.dev.tent s.cur.id.tid.toNat
    let blocked := !s.cur.id.sys && (match tent with
      | some t => !t.room cls
      | none => false)
    if blocked then .fault 0x06 (cls.setWidth 16) faddr ((tent.map fun t => t.quota cls).getD 0)
    else if lineInDram (place / 64) && s.dev.undoFull (place / 64) then .full
    else
      let d := s.dev
      let d1 := if s.cur.id.sys then d else
        { d with tents := d.tents.map fun t => if t.tid == s.cur.id.tid.toNat then t.charge cls else t }
      let t := (s.setDev d1).ownerWrite place [BitVec.ofNat 8 (s.natAt place 1) ||| (1#8 <<< bit)]
      let d2 := t.dev
      let base := key / 65536 * 65536
      let inUnit (l : Nat) : Bool := l / 1024 == base / 65536
      let d3 : Device := { d2 with
        mem := d2.mem.clear base 65536
        tags := ((upto 1024).map fun k => (base / 64 + k, d2.rin.setWidth 8)) ++ d2.tags.filter fun (t : Nat × BitVec 8) => !inUnit t.1
        poison := d2.poison.filter fun l => !inUnit l
        restored := d2.restored.filter fun l => !inUnit l
        dies := d2.dies.map fun x => { x with lines := x.lines.filter fun (c : CacheLine) => !inUnit c.line } }
      let x := d3.die s.cur.id.die.toNat
      .done (t.setDev (d3.setDie s.cur.id.die.toNat (x.tlbCommit s.cur.id.asid.toNat (va / 65536))))

/-- Every uncommitted unit of the parts of a store committed, or the first fault with nothing committed (R103); a
speculative run commits nothing (R402). -/
def State.commitAll (s : State) (ea : Word) (kind : BitVec 16) : List Piece → Commit
  | [] => .done s
  | p :: ps =>
    match p.hit.cls, p.hit.loc with
    | some c, .phys key =>
      if p.hit.committed || s.cur.spec.isSome || s.mapCommitted s.cur.id.asid.toNat ((ea.toNat + p.start) % 2 ^ 56) then
        s.commitAll ea kind ps
      else match s.commitUnit ((ea.toNat + p.start) % 2 ^ 56) (ea + BitVec.ofNat 64 p.start) c key kind with
        | .done t => t.commitAll ea kind ps
        | e => e
    | _, _ => s.commitAll ea kind ps

/-! ### Footprints and queue streams -/

/-- Two ranges overlap only within one space (R281). -/
def overlaps (a : Word) (n : Nat) (b : Word) (m : Nat) : Bool :=
  a.toNat / 2 ^ 56 == b.toNat / 2 ^ 56 && n != 0 && m != 0 && a.toNat < b.toNat + m && b.toNat < a.toNat + n

/-- A region that a range overlaps. -/
def Region.hits (r : Region) (a : Word) (n : Nat) : Bool := overlaps r.base r.len.toNat a n

/-- The regions of a card, read regions 0 to 3 and write regions 4 and 5 (Table 11-4). -/
def Card.reads (c : Card) : List Region := c.regions.toList.take 4
/-- The write regions of a card. -/
def Card.writes (c : Card) : List Region := c.regions.toList.drop 4

/-- The unretired jobs of a strand (R151). -/
def Strand.cards (k : Strand) : List Card := k.jobs.thq ++ k.jobs.cpq

/-- Whether an access overlaps a footprint that R97 keeps it from. -/
def cardsStall (cs : List Card) (kind : AccKind) (a : Word) (n : Nat) : Bool :=
  cs.any fun c => (c.writes.any fun r => r.hits a n) || (kind != .load && c.reads.any fun r => r.hits a n)

/-- Whether an access stalls on an unretired job's footprint (R97). -/
def Strand.jobStall (k : Strand) (kind : AccKind) (a : Word) (n : Nat) : Bool := cardsStall k.cards kind a n

/-- The elements an entry of a queue stream has (R217). -/
def QStream.lanes (q : QStream) : Nat := if q.sz = 3 then 32 else 64
/-- The bytes of an element. -/
def QStream.width (q : QStream) : Nat := 2 ^ q.sz.toNat
/-- The entries of a queue stream (R216). -/
def QStream.count (q : QStream) : Nat := (q.shape.setWidth 16).toNat + 1
/-- The address of element i of entry e (R217). -/
def QStream.addr (q : QStream) (e i : Nat) : Word :=
  q.base + BitVec.ofNat 64 e * (q.shape.extractLsb' 32 32).signExtend 64 +
    BitVec.ofNat 64 i * (q.shape.extractLsb' 16 16).signExtend 64

/-- The elements of a queue stream not yet performed, as (entry, element). -/
def QStream.pending (q : QStream) : List (Nat × Nat) :=
  (upto (q.count - q.entry)).flatMap fun e =>
    ((upto q.lanes).filter fun i => e != 0 || q.elem ≤ i).map fun i => (q.entry + e, i)

/-- Whether a queue stream is a plain store that waits behind another (R91). -/
def QStream.plain (q : QStream) : Bool := q.queue == 13

/-- Where the bytes of a range lie, as (physical key, length): the same for every name of a byte (R67, R352). -/
def State.spans (s : State) (a : Word) (n : Nat) : List (Nat × Nat) :=
  (splits a n).filterMap fun p => match s.locate a p.1 p.2 with
    | .hit h => some (h.key, p.2)
    | _ => none

/-- Whether two lists of spans share a byte. -/
def spansMeet (xs ys : List (Nat × Nat)) : Bool := xs.any fun x => ys.any fun y => x.1 < y.1 + y.2 && y.1 < x.1 + x.2

/-- Whether two ranges overlap, by their addresses or by the bytes these name (R67). -/
def State.sameBytes (s : State) (a : Word) (n : Nat) (b : Word) (m : Nat) : Bool :=
  overlaps a n b m || spansMeet (s.spans a n) (s.spans b m)

/-- Whether a range overlaps an element of a stream not yet performed. -/
def State.meets (s : State) (q : QStream) (a : Word) (n : Nat) : Bool :=
  q.pending.any fun e => s.sameBytes (q.addr e.1 e.2) q.width a n

/-- Whether a later access overlaps an element not yet performed (R67). -/
def State.streamStall (s : State) (a : Word) (n : Nat) : Bool := s.cur.qstreams.any fun q => s.meets q a n

/-- Whether it overlaps an element of an LDQ or STQ. -/
def State.elementStall (s : State) (a : Word) (n : Nat) : Bool := s.cur.qstreams.any fun q => !q.plain && s.meets q a n

/-- Whether it overlaps a plain store that waits. -/
def State.plainMeets (s : State) (a : Word) (n : Nat) : Bool := s.cur.qstreams.any fun q => q.plain && s.meets q a n

/-- Element i of an entry (R217). -/
def QStream.lane (q : QStream) (v : VReg) (i : Nat) : Word :=
  if q.sz = 3 then v.extractLsb' (64 * i) 64 else (v.extractLsb' (32 * i) 32).setWidth 64

/-- The byte at an address of the store that a plain stream holds. -/
def QStream.byteAt (q : QStream) (a : Word) : Option Byte :=
  let k := (a - q.base).toNat
  if q.plain && k < q.width then some (byteOf (q.lane (q.held.getD 0) (q.lanes - 1)) k) else none

/-- The byte at an address of the latest store of the strand that waits (R90). -/
def Strand.forwarded (k : Strand) (a : Word) : Option Byte := k.qstreams.reverse.findSome? fun q => q.byteAt a

/-- Whether byte i of an access lies on an irrevocable page, where a load returns what memory holds (R333). -/
def irrAt (ps : List Piece) (i : Nat) : Bool := ps.any fun p => p.hit.irr && p.start ≤ i && i < p.start + p.len

/-- The byte at place i of a load that a store that waits gives: forwarding, but for an irrevocable page (R90, R333). -/
def Strand.forwardAt (k : Strand) (ea : Word) (ps : List Piece) (i : Nat) : Option Byte :=
  if irrAt ps i then none else k.forwarded (ea + BitVec.ofNat 64 i)

/-- The bytes of a load with those of stores that wait in their places (R90). -/
def Strand.forward (k : Strand) (ea : Word) (ps : List Piece) (bs : List Byte) : List Byte :=
  ((upto bs.length).zip bs).map fun c => (k.forwardAt ea ps c.1).getD c.2

/-- Whether stores that wait give every byte of a load. -/
def Strand.forwards (k : Strand) (ea : Word) (ps : List Piece) (n : Nat) : Bool :=
  (upto n).all fun i => (k.forwardAt ea ps i).isSome

/-- Whether a load overlaps a store that waits under another name, from which nothing is forwarded (R67). -/
def State.aliasMeets (s : State) (ea : Word) (ps : List Piece) (n : Nat) : Bool :=
  s.cur.qstreams.any fun q => q.plain && !overlaps q.base q.width ea n &&
    spansMeet (s.spans q.base q.width) (ps.map fun p => (p.hit.key, p.len))

/-! ### Order -/

/-- Whether Table 4-7 keeps two accesses in order, from the ordering kinds of their pages; `x` and `y` tell the stores
(R91). -/
def keptPair (x y : Bool) (kx ky : Nat) : Bool := if x && y then kx != 2 && ky != 2 else kx == 0 && ky == 0

/-- Whether an access waits for a remote store of its strand still in flight, which Table 4-7 keeps before it or which it
overlaps (R67, R91); requests to one die stay in order by themselves (R366). A release waits for all of them. -/
def State.keptBehind (s : State) (kind : AccKind) (h : Hit) (n : Nat) : Bool :=
  s.storesInFlight.any fun r => kind == .release || r.parts.any fun p =>
    ((p.key < h.key + n && h.key < p.key + p.len) || keptPair true (kind != .load) p.pkind h.pkind) &&
      !(h.direct && r.peers == [h.peer])

/-- Whether Table 4-7 keeps an access behind the elements of an unfinished queue stream (R67, R91). -/
def QStream.keeps (q : QStream) (kind : AccKind) (h : Hit) : Bool :=
  q.entry < q.count && q.kinds.any fun k => keptPair q.store (kind != .load) k h.pkind

/-- Whether an access is kept behind an earlier one of its strand. -/
def State.kept (s : State) (kind : AccKind) (ps : List Piece) : Bool :=
  ps.any fun p => s.keptBehind kind p.hit p.len || s.cur.qstreams.any fun q => q.keeps kind p.hit

/-- Whether those of some lines that the current die holds dirty can be written back now (R366, R417). -/
def State.canWriteBack (s : State) (ls : List Nat) : Bool :=
  let dirty := ls.filter fun l => (s.myDie.lineFind l).any fun c => c.dirty != 0
  (dirty.all fun l => s.pathClear (linePeer l)) && !s.dev.undoLacks dirty

/-- Whether the cached lines that a direct access takes out of the die's cache can be written back now (R366, R369,
R417). -/
def State.evictable (s : State) (ps : List Piece) : Bool :=
  s.canWriteBack ((ps.filter fun p => p.hit.direct).flatMap fun p => linesOf p.hit.key p.len)

/-- Whether an access whose remote parts are performed at once can go now (R366, R369, R417). -/
def State.clearToGo (s : State) (ps : List Piece) : Bool := s.partsClear ps && s.evictable ps

/-! ### Loads and stores of the access stream -/

/-- The request of a die with a tag. -/
def Die.request (x : Die) (tag : Nat) : Option Request := x.requests.find? fun r => r.tag == tag

/-- A request replaced. -/
def Die.setRequest (x : Die) (r : Request) : Die :=
  { x with requests := x.requests.map fun q => if q.tag == r.tag then r else q }

/-- The counter ld or st of the current strand changed (R70). -/
def State.count (s : State) (onSt : Bool) (f : Nat → Nat) : State :=
  s.setCur (if onSt then { s.cur with st := f s.cur.st } else { s.cur with ld := f s.cur.ld })

/-- A request that the issuing stream waits for: counted, its tag remembered (R70, R366); the access waits while the die has
no free tag. -/
def State.sendAwaited (s : State) (kind : BitVec 2) (parts : List ReqPart) (bs : List Byte) (onSt : Bool) (faddr : Word) :
    State :=
  match s.freeTag with
  | none => s.idle
  | some tag =>
    let t := (s.sendRequest tag kind parts bs onSt s.me.iaddr faddr).count onSt (· + 1)
    t.setMe { t.me.calm with reply := some tag }

/-- The request of an atomic, barrier or ring operation to the owner of its place; the die's copy of the line leaves its
cache first (R367, R369). -/
def State.sendOp (s : State) (h : Hit) (kind : BitVec 2) (onSt : Bool) (n : Nat) (faddr : Word) : State :=
  if s.freeTag.isNone then s.idle
  else (s.evictKey h.key n).sendAwaited kind [Piece.whole { start := 0, len := n, hit := h }] (List.replicate n 0) onSt faddr

/-- The issuing stream's reply consumed: its tag is free again and its counter falls; what of a multicast is still under way
goes on without it (R374). -/
def State.tookReply (s : State) (r : Request) : State :=
  let x := s.myDie
  let late : List Stray := if r.kind == 3 && r.bitmap != 0 then [{ req := r, strand := none }] else []
  let t := (s.setMyDie { x with requests := x.requests.filter (fun q => !(q.tag == r.tag)), strays := x.strays ++ late }).count r.onSt
    (· - 1)
  t.setMe { t.me with reply := none }

/-- The request the issuing stream waits for. -/
def State.awaited (s : State) : Option Request := s.me.reply.bind fun tag => s.myDie.request tag

/-- Goes on with `k` at once when the place is on this die, and after a request and its reply otherwise: the operation
waits for the reply, its instruction not complete (R215, R366, R367). -/
def State.remoteGate (s : State) (h : Option Hit) (kind : BitVec 2) (n : Nat) (faddr : Word) (k : State → State) : State :=
  match h with
  | none => k s
  | some h =>
    match s.awaited with
    | none => s.sendOp h kind false n faddr
    | some r => if r.replied then k (s.tookReply r) else s.idle

/-- The parts of an access that another die's memory gives are left to its request; the poisoned lines of the others
(R211, R420). -/
def State.poisonHere (s : State) (ps : List Piece) : List Nat := s.poisonIn (ps.filter fun p => !p.hit.remote)

/-- FADDR of a load whose request read poison: the first byte of a poisoned line (Table 15-9). -/
def Request.poisonAddr (r : Request) : Word :=
  match r.parts.findSome? fun p => ((linesOf p.key p.len).find? r.poison.contains).map fun l => p.start + (max (l * 64) p.key - p.key) with
  | some k => r.faddr + BitVec.ofNat 64 k - BitVec.ofNat 64 ((r.parts.head?.map (·.start)).getD 0)
  | none => r.faddr

/-- The bytes of a reply as a speculative run reads them: its own writes in their places (R401). -/
def State.ownWrites (s : State) (r : Request) : List Byte :=
  match s.mySpec with
  | none => r.bytes
  | some q => r.parts.foldl (fun bs p => (upto p.len).foldl (fun bs i =>
      if q.written.contains (p.key + i) then spliceAt bs (p.start + i) [q.writes.get (p.key + i)] else bs) bs) r.bytes

/-- A load's reply taken: `k` with its bytes, or the poison it consumed (R211, R401). -/
def State.takeLoad (s : State) (r : Request) (k : State → List Byte → State) : State :=
  let t := s.tookReply r
  match r.poison with
  | [] => k (r.parts.foldl (fun (u : State) p => if lineInDram (p.key / 64) then u.sawPart p.key p.len else u) t) (t.ownWrites r)
  | ls => t.poisoned ls (t.faultRec 0x10 t.who.num false 0 t.me.iaddr r.poisonAddr (t.me.aux 0))

/-- Whether a part is reached on a way that a speculative run may not take: an irrevocable page, the physical on-chip map, or
a page that maps on-chip state (R106, R401, R404). -/
def Hit.barred (h : Hit) (ea : Word) : Bool :=
  let space := ea.toNat / 2 ^ 56
  h.irr || space == 4 || (space == 0 && h.key % 2 ^ 52 / 2 ^ 40 == 0xFFF)

/-- Whether an access would take a speculative run where it may not go (R401, R404). -/
def State.specBarred (s : State) (ea : Word) (ps : List Piece) : Bool :=
  s.cur.spec.isSome && ps.any fun p => p.hit.barred ea

/-- The checks and waits of a load (R211, R214, R97, R67, R91), then `k` with the bytes it reads: from stores of the strand
that wait (R90), at once, or with the reply of the owners of its remote parts (R215, R367). -/
def State.load (s : State) (align : Nat) (ea : Word) (n : Nat) (k : State → List Byte → State) : State :=
  match s.awaited with
  | some r => if r.replied then s.takeLoad r k else s.idle
  | none =>
    match s.check .load align false ea n with
    | .fault c a => s.raiseAt c 0 a 0
    | .wait => s.idle
    | .ok ps =>
      if s.specBarred ea ps then s.unlessSpec s
      else if s.cur.jobStall .load ea n || s.elementStall ea n then s.stallOn 6
      else if s.kept .load ps || !s.evictable ps || s.aliasMeets ea ps n then s.idle
      else if s.cur.forwards ea ps n then k (s.fillAll ea ps) (s.cur.forward ea ps (List.replicate n 0))
      else match s.poisonHere ps with
        | l :: ls => s.poisoned (l :: ls) (s.faultRec 0x10 s.who.num false 0 s.me.iaddr (s.poisonAddr ea ps) (s.me.aux 0))
        | [] => match s.loadParts ps with
          | [] => k (s.afterLoad ea ps) (s.cur.forward ea ps (s.loadBytes ps))
          | p :: rest =>
            if s.plainMeets ea n then s.idle
            else (((s.fillAll ea ps).evictDirect ps).touchParts ps).sendAwaited 0 (p :: rest) (s.loadBytes ps) false
              (ea + BitVec.ofNat 64 p.start)

/-- An entry whose last element of a size is a value: what a plain store that waits holds. -/
def lastLane (z : BitVec 2) (v : Nat) : VReg := (BitVec.ofNat 2048 v) <<< (if z = 3 then 64 * 31 else 32 * 63)

/-- The entries pushed so far into sqac and bqc, whose pops order accesses before a LAUNCH (R95, R208). -/
def State.tokens (s : State) : Nat × Nat :=
  ((vget s.cur.queues 5 Queue.none).pushed, (vget s.cur.queues 10 Queue.none).pushed)

/-- A store that the page kinds keep behind an unfinished queue stream waits there, its instruction complete (R91). -/
def State.deferStore (s : State) (ea : Word) (ps : List Piece) (bs : List Byte) : State :=
  let z : BitVec 2 := if bs.length = 1 then 0 else if bs.length = 2 then 1 else if bs.length = 4 then 2 else 3
  let last := if z = 3 then 31 else 63
  let q : QStream :=
    { store := true, sext := false, sz := z, base := ea, shape := 0, queue := 13, entry := 0, elem := last
      held := some (lastLane z (leNat bs))
      replies := [], kinds := (ps.map fun p => p.hit.pkind).eraseDups, iaddr := s.me.iaddr
      tl := s.cur.jobs.issuedTl, cp := s.cur.jobs.issuedCp, toks := s.tokens }
  let t := (s.fillAll ea ps).count true (· + 1)
  t.setCur { t.cur with qstreams := t.cur.qstreams ++ [q] }

/-- Whether the hold buffer has no room for the irrevocable part of a store (R419). -/
def State.holdFull (s : State) (ps : List Piece) : Bool :=
  let held := ps.filter fun p => p.hit.irr
  !held.isEmpty && 4096 < s.myDie.egress.length + (held.flatMap fun p => linesOf p.hit.key p.len).length

/-- The checks, the commit and the waits of a store (R211, R214, R103, R97, R67, R91, R417, R419), then `k` after it is
performed, sent, or left to wait behind a queue stream. -/
def State.store (s : State) (kind : AccKind) (align : Nat) (ea : Word) (bs : List Byte) (k : State → State) : State :=
  match s.check kind align false ea bs.length with
  | .fault c a => s.raiseAt c (chkDetail c kind.detail) a 0
  | .wait => s.idle
  | .ok ps =>
    if s.specBarred ea ps then s.unlessSpec s
    else match s.commitAll ea kind.detail ps with
      | .fault c d a x => s.raise c d a x
      | .full => s.stallOn 7
      | .done t =>
        if s.cur.jobStall kind ea bs.length || s.elementStall ea bs.length then s.stallOn 6
        else if t.logStall ps then s.stallOn 7
        else if s.plainMeets ea bs.length || ps.any (fun p => s.cur.qstreams.any fun q => q.keeps kind p.hit) then
          k (t.deferStore ea ps bs)
        else if ps.any (fun p => s.keptBehind kind p.hit p.len) || !s.evictable ps then s.idle
        else if !(storeParts ps).isEmpty && s.freeTag.isNone then s.idle
        else if s.holdFull ps then s.idle.setDev s.dev.requestSeal
        else k (t.storeBytes none ea ps bs)

end Sys2Proof.Machine
end

