-- ==== Sys2Proof/Machine/Fetch.lean ====
section
/-!
DEFINITION. Code: fetching the bytes of an instruction (R153, R156), the block a transfer enters and the faults of a
transfer (R158, Table 7-7), and the stepping of a REP target (R161, R162).
-/
namespace Sys2Proof.Machine

/-- The stream class of a stream in a BLK header (Table 7-2). -/
def StreamId.cls (t : StreamId) : BitVec 2 := BitVec.ofNat 2 t.num

/-- The checks of an instruction fetch (R82, Table 7-7): the pages of the bytes, executable and reachable in the mode, and
no poison among them (R420).
DESIGN CHOICE (assumption log 78): an address outside TV, where Table 7-7 names no cause of its own, fails translation. -/
def State.fetchCheck (s : State) (va : Word) (n : Nat) : Chk :=
  if va.toNat / 2 ^ 56 != 0 then .fault 0x04 va
  else match s.locateAll va (splits va n) with
    | .ok ps =>
      match firstPart (fun h => !h.x || (!s.cur.id.sys && !h.u)) va ps with
      | some a => .fault 0x05 a
      | none => if (s.poisonIn ps).isEmpty then .ok ps else .fault 0x10 (s.poisonAddr va ps)
    | e => e

/-- The bytes of code at an address, whose fetch has been checked. -/
def State.codeBytes (s : State) (ps : List Piece) : List Byte :=
  ps.flatMap fun p => s.getBytes p.hit.loc p.len

/-- The fetch of a block's header counts toward the migration of its page (R363). DESIGN CHOICE (assumption log 103): the rest
of the block comes out of the loop buffer, whose residency R160 leaves to the device. -/
def State.fetched (s : State) (ps : List Piece) : State := ps.foldl (fun t p => t.countAccess p.hit) s

/-- The word of code at an address, when it can be fetched. -/
def State.codeWord (s : State) (va : Word) : Option (BitVec 32) :=
  match s.fetchCheck va 4 with
  | .ok ps => some (BitVec.ofNat 32 (leNat (s.codeBytes ps)))
  | _ => none

/-- The code object an address lies in (R297). -/
def State.objectAt (s : State) (va : Word) : Option CodeObj :=
  s.dev.objects.find? fun o => o.asid == s.cur.id.asid.toNat && o.base.toNat ≤ va.toNat && va.toNat < o.base.toNat + o.len

/-- Whether an address is a block start of its code object (R158). -/
def State.isStart (s : State) (va : Word) : Bool :=
  match s.objectAt va with
  | some o => o.starts.contains (va.toNat - o.base.toNat)
  | none => false

/-- Whether a stream at a block start has come there as R157 lets it: at strand start or by a transfer, which name the block,
or by falling through from a block of the same code object (R158). -/
def State.inObject (s : State) (x : Stream) : Bool :=
  x.pc == x.hdr || (s.objectAt x.pc).map (·.base) == (s.objectAt x.hdr).map (·.base)

/-- The fields of a BLK header (Table 7-2): EP, SC, passes - 1, body halfwords. -/
def hdrEp (w : BitVec 32) : Bool := w.getLsbD 28
/-- The stream class of a header. -/
def hdrSc (w : BitVec 32) : BitVec 2 := bits w 26 2
/-- The passes - 1 of a header. -/
def hdrRep (w : BitVec 32) : BitVec 6 := bits w 19 6
/-- The body halfwords of a header. -/
def hdrLen (w : BitVec 32) : Nat := (bits w 7 12).toNat

/-- The address after the body of the block at `hdr`. -/
def bodyEndOf (hdr : Word) (w : BitVec 32) : Word := hdr + 4 + BitVec.ofNat 64 (2 * hdrLen w)

/-- Whether a transfer to an address waits for a page that moves (R87, R364). -/
def State.transferWaits (s : State) (target : Word) : Bool := s.fetchCheck target 4 == .wait

/-- The fault of a transfer to an address that does not wait (Table 7-7), as (cause, faulting address, DETAIL); none when it
may go. -/
def State.transferFault (s : State) (t : StreamId) (target : Word) (indirect : Bool) : Option (BitVec 8 × Word × BitVec 16) :=
  match s.fetchCheck target 4 with
  | .fault c a => some (c, a, 4)
  | .wait => none
  | .ok ps =>
    let w : BitVec 32 := BitVec.ofNat 32 (leNat (s.codeBytes ps))
    if !s.isStart target then some (0x01, 0, 0)
    else if indirect && !hdrEp w then some (0x05, target, 4)
    else if hdrSc w != t.cls then some (0x01, 0, 0)
    else none

/-- A stream that has begun the block at a target: at its header, at pass 0 (R157). -/
def Stream.enter (x : Stream) (target : Word) (w : BitVec 32) : Stream :=
  { x with pc := target, hdr := target, left := hdrRep w, pass := 0, bodyEnd := bodyEndOf target w, atHeader := true, rep := none }

/-- The issuing stream begins the block at a target, whose header is `w`. -/
def State.enterBlock (s : State) (target : Word) (w : BitVec 32) : State := s.setMe (s.me.calm.enter target w)

/-- A transfer of the issuing stream: the fault of Table 7-7 with no effect, or `k` on the machine and then the target
block (R157, R158); it waits while the target's page moves (R364). -/
def State.transfer (s : State) (target : Word) (indirect : Bool) (k : State → State) : State :=
  if s.transferWaits target then s.idle
  else match s.transferFault s.who target indirect with
  | some (c, a, d) => s.raiseAt c d a 0
  | none => (k s).enterBlock target ((s.codeWord target).getD 0)

/-- The end of the body of the block whose header stands at an address. -/
def State.bodyEndAt (s : State) (hdr : Word) : Word := bodyEndOf hdr ((s.codeWord hdr).getD 0)

/-- A stream that continues at a recorded return point in a block (R159, R191, R206): at the header when the point is the
block's own start, else inside the body or at its end, where R157 decides. -/
def Stream.returnTo (x : Stream) (ret hdr bodyEnd : Word) (left pass : BitVec 6) : Stream :=
  let y := { x.calm with hdr := hdr, left := left, pass := pass, bodyEnd := bodyEnd, rep := none }
  if ret = hdr then { y with pc := ret, atHeader := true } else { y with atHeader := false }.settle ret

/-! ### REP targets -/

/-- A register field of a frame (Table 7-3): whether the instruction uses it as a register name, its lowest bit, its
width, and the size of its register file. -/
structure RegField where
  used : Bool
  lo : Nat
  width : Nat
  lim : Nat
  deriving DecidableEq, Repr

/-- The d, a and b fields of an instruction that may stand under a REP (R162); none for any other instruction. -/
def repFields (w : BitVec 32) (lit : OptLit) : Option (List RegField) :=
  let scalar (d a b : Bool) := some [⟨d, 7, 5, 32⟩, ⟨a, 12, 5, 32⟩, ⟨b, 17, 5, 32⟩]
  let vector (d a b : Bool) := some [⟨d, 10, 6, 64⟩, ⟨a, 16, 6, 64⟩, ⟨b, 22, 6, 64⟩]
  let pred (d a b : Bool) := some [⟨d, 7, 7, 96⟩, ⟨a, 14, 7, 96⟩, ⟨b, 21, 7, 96⟩]
  let xop := ((lit.getD 0).extractLsb' 11 5).toNat
  let func := (bits w 28 4).toNat
  match major w with
  | 0 =>
    let f := (bits w 22 9).toNat
    scalar true true (lit.isNone && !(19 ≤ f && f ≤ 21))
  | 1 => scalar true true false
  | 8 => scalar true true false
  | 9 => scalar true true true
  | 12 => scalar (bits w 23 4 != 0#4) true true
  | 16 => vector true true (func < 8 || (func == 8 && !(13 ≤ xop && xop ≤ 16)))
  | 17 => vector true true (func < 8 || (func == 8 && !(8 ≤ xop && xop ≤ 14)))
  | 18 => vector true true true
  | 19 => vector true true false
  | 20 => some [⟨true, 10, 7, 96⟩, ⟨true, 17, 6, 64⟩, ⟨true, 23, 6, 64⟩]
  | 21 =>
    if func == 0 then vector true true false
    else match xop with
      | 2 => vector true true false
      | 5 => vector true false false
      | 12 => some [⟨true, 10, 6, 64⟩, ⟨true, 16, 6, 32⟩, ⟨false, 22, 6, 64⟩]
      | _ => vector true true true
  | 24 =>
    match func with
    | 0 | 1 | 2 => pred true true true
    | 3 | 5 => pred true true false
    | 4 => some [⟨true, 7, 7, 32⟩, ⟨true, 14, 7, 96⟩, ⟨true, 21, 7, 96⟩]
    | _ => none
  | _ => none

/-- The value of a field in a word. -/
def RegField.get (f : RegField) (w : BitVec 32) : Nat := w.toNat / 2 ^ f.lo % 2 ^ f.width

/-- A word with a field set. -/
def RegField.set (f : RegField) (w : BitVec 32) (v : Nat) : BitVec 32 :=
  (w &&& ~~~(BitVec.ofNat 32 (2 ^ f.width - 1) <<< f.lo)) ||| (BitVec.ofNat 32 (v % 2 ^ f.width) <<< f.lo)

/-- Whether a field may be stepped by `inc` over `last` + 1 issues (R162). -/
def RegField.stepOk (f : RegField) (w : BitVec 32) (inc : BitVec 3) (last : Nat) : Bool :=
  let v : Int := f.get w + last * inc.toInt
  inc == 0 || (f.used && 0 ≤ v && v < f.lim)

/-- The increments of a REP in the order d, a, b (R161). -/
def RepState.incs (r : RepState) : List (BitVec 3) := [r.id, r.ia, r.ib]

/-- Whether a REP may head the instruction after it (R162). -/
def repOk (r : RepState) (w : BitVec 32) (lit : OptLit) : Bool :=
  match repFields w lit with
  | none => false
  | some fs => (fs.zip r.incs).all fun p => p.1.stepOk w p.2 r.last.toNat

/-- The word of a REP target at the next issue: each stepped field is f + i × inc (R161). -/
def RepState.step (r : RepState) (w : BitVec 32) (lit : OptLit) : BitVec 32 :=
  match repFields w lit with
  | none => w
  | some fs => (fs.zip r.incs).foldl (fun w p =>
      if p.2 == 0 then w else p.1.set w ((p.1.get w + r.issue * p.2.toInt : Int) % 2 ^ p.1.width).toNat) w

/-- The code of a REP target at the next issue. -/
def RepState.code (r : RepState) : Code → Code
  | .half h => .half h
  | .word w => .word (r.step w none)
  | .wide w l => .wide (r.step w (some l)) l

/-- The code of the next instruction, a REP target at its issue (R161), from the bytes of the body. -/
def nextCode (x : Stream) (bs : List Byte) : Option Code :=
  match x.rep, frameBytes bs with
  | some r, some c => some (r.code c)
  | none, some c => some c
  | _, none => none

/-- The address of the next instruction: the one after the REP that heads it, or the program counter. -/
def State.fetchAt (s : State) : Word := if s.me.rep.isSome then s.me.pc + 4 else s.me.pc

/-- The bytes at an address that lie inside the body (R156), at most eight; none when the first halfword cannot be
fetched. -/
def State.bodyBytes (s : State) (va : Word) : Chk × List Byte :=
  let room := (s.me.bodyEnd - va).toNat
  let n := if room < 8 then room else 8
  match s.fetchCheck va (if n < 2 then 2 else n) with
  | .ok ps => (.ok ps, (s.codeBytes ps).take n)
  | e => (e, [])

end Sys2Proof.Machine
end

