-- ==== Sys2Proof/Machine/Operands.lean ====
section
/-!
DEFINITION. Operand forms of the scalar instructions (R185, R189, R213, R219): operand B from a register or a literal,
displacements and offsets, and the bytes a form with or without a literal occupies (R153); and of the execute stream's
(R251): lanes, rotating names (R53), guards (R54) and leases (R59).
-/
namespace Sys2Proof.Machine

/-- The bytes of an instruction with or without a literal (R153). -/
def litLen (lit : Bool) : Nat := if lit then 8 else 4

/-- Operand B of SALU (R185). -/
def State.srcB (s : State) : SrcB → Word
  | .reg b => s.rd b
  | .lit l => l.signExtend 64

/-- The length of a SALU instruction. -/
def srcBLen : SrcB → Nat
  | .reg _ => 4
  | .lit _ => 8

/-- Operand B of SALUI (R185). -/
def imm9Val : Imm9 → Word
  | .imm i => i.signExtend 64
  | .lit l => l.signExtend 64

/-- The length of a SALUI instruction. -/
def imm9Len : Imm9 → Nat
  | .imm _ => 4
  | .lit _ => 8

/-- The displacement of a branch in bytes: off × 4 (R189, R191). -/
def off11Val : Off11 → Word
  | .off o => o.signExtend 64 * 4
  | .lit l => l.signExtend 64 * 4

/-- The length of a branch. -/
def off11Len : Off11 → Nat
  | .off _ => 4
  | .lit _ => 8

/-- The offset of LDST in bytes (R213). -/
def off10Val : Off10 → Word
  | .imm i => i.signExtend 64
  | .lit l => l.signExtend 64

/-- The length of an LDST instruction. -/
def off10Len : Off10 → Nat
  | .imm _ => 4
  | .lit _ => 8

/-- The byte offset of an ORD form (R219). -/
def optLitVal : OptLit → Word
  | none => 0
  | some l => l.signExtend 64

/-- The length of a form with an optional literal. -/
def optLitLen : OptLit → Nat
  | none => 4
  | some _ => 8

/-- The bytes SZ selects (R213). -/
def szBytes (z : BitVec 2) : Nat := 2 ^ z.toNat

/-- A value read from memory, extended as X says (R214). -/
def extendLoad (x : BitVec 1) (n : Nat) (bs : List Byte) : Word :=
  let v := leNat bs
  if x = 1 then
    match n with
    | 1 => (BitVec.ofNat 8 v).signExtend 64
    | 2 => (BitVec.ofNat 16 v).signExtend 64
    | 4 => (BitVec.ofNat 32 v).signExtend 64
    | _ => BitVec.ofNat 64 v
  else BitVec.ofNat 64 v

/-- The low bytes of a register. -/
def wordBytes (v : Word) (n : Nat) : List Byte := natLe n v.toNat

/-! ### Lanes, names, guards, leases -/

/-- Lane i of a vector register (R251). -/
def laneOf (v : VReg) (i : Nat) : Lane := v.extractLsb' (32 * i) 32

/-- A vector register from its lanes. -/
def ofLanes (f : Nat → Lane) : VReg :=
  (upto 64).foldr (fun i acc => (acc <<< 32) ||| (f i).setWidth 2048) 0

/-- A register with the lanes of a mask replaced (R54). -/
def mergeLanes (old : VReg) (m : BitVec 64) (f : Nat → Lane) : VReg :=
  ofLanes fun i => if m.getLsbD i then f i else laneOf old i

/-- The physical register a vector register name selects (R53). -/
def Strand.physV (k : Strand) (n : VName) : Nat :=
  if n.toNat < 32 then n.toNat else 32 + (n.toNat - 32 + k.vrb.toNat) % 32

/-- The physical predicate a predicate name selects (R53). -/
def Strand.physP (k : Strand) (n : PName) : Nat :=
  if n.toNat < 32 then n.toNat else 32 + (n.toNat - 32 + k.prb.toNat) % 64

/-- The vector register of a name. -/
def Strand.vreg (k : Strand) (n : VName) : VReg := vget k.v (k.physV n) 0

/-- The predicate of a name: p0 reads all ones (R52). -/
def Strand.preg (k : Strand) (n : PName) : BitVec 64 := if n = 0 then -1 else vget k.p (k.physP n) 0

/-- The vector register of a name written. -/
def Strand.setV (k : Strand) (n : VName) (v : VReg) : Strand := { k with v := k.v.setIfInBounds (k.physV n) v }

/-- The predicate of a name written; a write to p0 has no effect (R52). -/
def Strand.setP (k : Strand) (n : PName) (v : BitVec 64) : Strand :=
  if n = 0 then k else { k with p := k.p.setIfInBounds (k.physP n) v }

/-- The predicate name bound to a guard alias (R54). -/
def Strand.guardName (k : Strand) (g : Guard) : PName := (vget k.gmap g.toNat 0).extractLsb' 0 7

/-- The lanes a guard enables (R54): g0 enables every lane (R52). -/
def Strand.mask (k : Strand) (g : Guard) : BitVec 64 :=
  if g = 0 then -1
  else
    let p := k.preg (k.guardName g)
    if (vget k.gmap g.toNat 0).getLsbD 7 then ~~~p else p

/-- The physical vector registers under lease (R59). -/
def Strand.leasedV (k : Strand) : BitVec 64 := (k.jobs.cpq.map (·.leaseV)).foldl (· ||| ·) 0

/-- The physical predicates under lease (R59). -/
def Strand.leasedP (k : Strand) : BitVec 96 := (k.jobs.cpq.map (·.leaseP)).foldl (· ||| ·) 0

/-- Whether an instruction that names these registers under this guard meets a lease (R59, R252). -/
def Strand.leaseHit (k : Strand) (g : Guard) (vs : List VName) (ps : List PName) : Bool :=
  (vs.any fun n => k.leasedV.getLsbD (k.physV n)) || (ps.any fun n => k.leasedP.getLsbD (k.physP n)) ||
    (g != 0 && k.leasedP.getLsbD (k.physP (k.guardName g)))

/-- Lane i of the vector register of a name. -/
def State.lane (s : State) (n : VName) (i : Nat) : Lane := laneOf (s.cur.vreg n) i

/-- The enabled lanes of the vector register of a name written. -/
def State.putLanes (s : State) (d : VName) (m : BitVec 64) (f : Nat → Lane) : State :=
  s.setCur (s.cur.setV d (mergeLanes (s.cur.vreg d) m f))

/-- The 16-bit immediate of a modifier word as a lane (R254). -/
def immLane (i : BitVec 16) : Lane := i.signExtend 32

end Sys2Proof.Machine
end

