-- ==== Sys2Proof/Machine/Alu.lean ====
section
/-!
DEFINITION. The scalar ALU functions of Table 8-1 and R187, on 64-bit patterns, and the one way every scalar arithmetic
instruction writes its result and goes on.
-/
namespace Sys2Proof.Machine

/-- shl, shr and sra: sh = B[5:0] (R186). -/
def aluSh (b : Word) : Nat := b.toNat % 64
/-- shl. -/
def aluShl (a b : Word) : Word := a <<< aluSh b
/-- shr. -/
def aluShr (a b : Word) : Word := a >>> aluSh b
/-- sra. -/
def aluSra (a b : Word) : Word := a.sshiftRight (aluSh b)
/-- mulh: wrap(floor(sA × sB / 2^64), 64). -/
def aluMulh (a b : Word) : Word := BitVec.ofInt 64 (a.toInt * b.toInt / 2 ^ 64)
/-- mulh.u: floor(uA × uB / 2^64). -/
def aluMulhU (a b : Word) : Word := BitVec.ofNat 64 (a.toNat * b.toNat / 2 ^ 64)
/-- div: all ones for a zero divisor, else the quotient truncated toward zero, wrapped. -/
def aluDiv (a b : Word) : Word := if b = 0 then -1 else BitVec.ofInt 64 (a.toInt.tdiv b.toInt)
/-- div.u. -/
def aluDivU (a b : Word) : Word := if b = 0 then -1 else BitVec.ofNat 64 (a.toNat / b.toNat)
/-- rem: A for a zero divisor, else with the sign of the dividend. -/
def aluRem (a b : Word) : Word := if b = 0 then a else BitVec.ofInt 64 (a.toInt.tmod b.toInt)
/-- rem.u. -/
def aluRemU (a b : Word) : Word := if b = 0 then a else BitVec.ofNat 64 (a.toNat % b.toNat)
/-- min. -/
def aluMin (a b : Word) : Word := if a.toInt ≤ b.toInt then a else b
/-- min.u. -/
def aluMinU (a b : Word) : Word := if a.toNat ≤ b.toNat then a else b
/-- max. -/
def aluMax (a b : Word) : Word := if a.toInt ≤ b.toInt then b else a
/-- max.u. -/
def aluMaxU (a b : Word) : Word := if a.toNat ≤ b.toNat then b else a

/-- The 1 bits among the low n bits of a number. -/
def countOnes : Nat → Nat → Nat
  | 0, _ => 0
  | n + 1, v => v % 2 + countOnes n (v / 2)

/-- The leading zero bits of an n-bit number. -/
def leadingZeros (n v : Nat) : Nat := if v = 0 then n else n - 1 - Nat.log2 v

/-- clz. -/
def aluClz (a : Word) : Word := BitVec.ofNat 64 (leadingZeros 64 a.toNat)
/-- popc. -/
def aluPopc (a : Word) : Word := BitVec.ofNat 64 (countOnes 64 a.toNat)
/-- brev. -/
def aluBrev (a : Word) : Word := a.reverse

/-- lo of R187. -/
def fieldLo (b : Word) : Nat := b.toNat % 64
/-- w of R187, 1 to 64. -/
def fieldW (b : Word) : Nat := b.toNat / 256 % 64 + 1

/-- ext: zext(floor(uA / 2^lo), w) (R187). -/
def aluExt (a b : Word) : Word := BitVec.ofNat 64 (a.toNat / 2 ^ fieldLo b % 2 ^ fieldW b)
/-- ext.s: the same field, its sign in bit w - 1 (R187). -/
def aluExtS (a b : Word) : Word :=
  let w := fieldW b
  let f := a.toNat / 2 ^ fieldLo b % 2 ^ w
  BitVec.ofInt 64 (if 2 ^ (w - 1) ≤ f then (f : Int) - 2 ^ w else f)
/-- ins: bits lo to min(lo + w, 64) - 1 of d from the low bits of A, the others kept (R187). -/
def aluIns (d a b : Word) : Word :=
  let lo := fieldLo b
  let mask : Word := BitVec.ofNat 64 (2 ^ fieldW b - 1) <<< lo
  (d &&& ~~~mask) ||| ((a <<< lo) &&& mask)

/-- The end of every scalar arithmetic instruction: s[d] := v and on to the next instruction (R184, R186). -/
def State.aluEnd (s : State) (d : Reg) (v : Word) (len : Nat) : Res := .next ((s.wr d v).complete len)

end Sys2Proof.Machine
end

