-- ==== Sys2Proof/Machine/Queues.lean ====
section
/-!
DEFINITION. The operations on the inter-stream queues (R61 to R63, R194 to R197): roles, push, pop and the ownership a
queue stream has of its queue (R218). Also the family check of R49.
-/
namespace Sys2Proof.Machine

/-- A family that one stream alone issues: elsewhere it is an illegal encoding (R49, R50). -/
def State.only (s : State) (t : StreamId) (r : Res) : Res := if s.who = t then r else .next s.raiseIllegal

/-- Whether a stream produces for a queue (Table 3-6). -/
def produces (t : StreamId) (q : Nat) : Bool :=
  match q, t with
  | 0, .a | 1, .a | 5, .a | 8, .a | 10, .a | 12, .a => true
  | 4, .c | 6, .c | 11, .c | 12, .c => true
  | 2, .x | 3, .x | 7, .x | 9, .x | 10, .x | 11, .x => true
  | _, _ => false

/-- Whether a stream consumes from a queue (Table 3-6). -/
def consumes (t : StreamId) (q : Nat) : Bool :=
  match q, t with
  | 0, .x | 1, .x | 6, .x | 8, .x | 12, .x => true
  | 2, .a | 3, .a | 4, .a | 9, .a | 11, .a => true
  | 5, .c | 7, .c | 10, .c => true
  | _, _ => false

/-- A branch-outcome queue (R167). -/
def isBranchQueue (q : Nat) : Bool := 10 ≤ q && q ≤ 12

/-- A stream's own branch-outcome queue (R190). -/
def ownBq : StreamId → Nat
  | .c => 10
  | .a => 11
  | .x => 12

/-- A queue of the current strand. -/
def State.queue (s : State) (q : Nat) : Queue := vget s.cur.queues q Queue.none

/-- A queue of the current strand replaced. -/
def State.setQueue (s : State) (q : Nat) (x : Queue) : State :=
  s.setCur { s.cur with queues := s.cur.queues.setIfInBounds q x }

/-- An entry appended (R61, R335). -/
def Queue.push (x : Queue) (depth : Nat) (v : VReg) : Queue :=
  { occ := x.occ + 1, head := x.head, tail := (x.tail + 1) % depth, slots := Cells.set x.slots x.tail v
    pushed := x.pushed + 1 }

/-- The entries popped so far. -/
def Queue.popped (x : Queue) : Nat := x.pushed - x.occ

/-- The oldest entry. -/
def Queue.front (x : Queue) : VReg := Cells.get x.slots x.head

/-- The oldest entry removed: its slot is free and nothing of it is kept (R62). -/
def Queue.pop (x : Queue) (depth : Nat) : Queue :=
  { occ := x.occ - 1, head := (x.head + 1) % depth, tail := x.tail, slots := Cells.set x.slots x.head 0, pushed := x.pushed }

/-- The n oldest entries removed. -/
def Queue.popN (x : Queue) (depth : Nat) : Nat → Queue
  | 0 => x
  | n + 1 => (x.pop depth).popN depth n

/-- An entry pushed into queue q. -/
def State.pushQ (s : State) (q : Nat) (v : VReg) : State := s.setQueue q ((s.queue q).push (queueDepth q) v)

/-- The oldest entry of queue q removed. -/
def State.popQ (s : State) (q : Nat) : State := s.setQueue q ((s.queue q).pop (queueDepth q))

/-- Whether a queue is full. -/
def State.fullQ (s : State) (q : Nat) : Bool := queueDepth q ≤ (s.queue q).occ

/-- Whether a queue is empty. -/
def State.emptyQ (s : State) (q : Nat) : Bool := (s.queue q).occ == 0

/-- Whether an unfinished queue stream owns the access stream's next pushes or pops of a queue (R218). -/
def State.ownedQ (s : State) (q : Nat) : Bool := s.who == .a && s.cur.qstreams.any fun t => t.queue == q

/-- The value a 64-bit pop gives (R61, R194): lanes 1 and 0, the scalar entry, or the bit. -/
def popValue (v : VReg) : Word := v.setWidth 64

/-- QPUSH of a value (R194). DESIGN CHOICE (assumption log 81): the wait behind a queue stream that owns the queue (R218)
is given kind 1, and that of QPOP and QDROP kind 2. -/
def State.qpush (s : State) (q : Nat) (v : Word) (len : Nat) : State :=
  if !produces s.who q || isBranchQueue q then s.raiseIllegal
  else if s.fullQ q || s.ownedQ q then s.stallOn 1
  else (s.pushQ q (v.setWidth 2048)).complete len

/-- QPOP into s[d] (R194). -/
def State.qpop (s : State) (q : Nat) (d : Reg) (len : Nat) : State :=
  if !consumes s.who q then s.raiseIllegal
  else if s.emptyQ q || s.ownedQ q then s.stallOn 2
  else ((s.popQ q).wr d (popValue (s.queue q).front)).complete len

/-- BQPUSH of one outcome bit (R195). -/
def State.bqpush (s : State) (q : Nat) (v : Word) (len : Nat) : State :=
  if !isBranchQueue q || !produces s.who q then s.raiseIllegal
  else if s.fullQ q then s.stallOn 1
  else (s.pushQ q (if v = 0 then 0 else 1)).complete len

/-- The count still to remove of a stream's QDROP. -/
def State.setDrop (s : State) (n : Option Nat) : State := s.setMe { s.me with drop := n }

/-- QDROP of n entries (R196, R197): every entry that is present is removed; a drop that has entries left to remove
waits with their count, which is part of the stream's state once one was removed, and its stall begins anew (R74). -/
def State.qdrop (s : State) (q n : Nat) : State :=
  if !consumes s.who q then s.raiseIllegal
  else
    let left := s.me.drop.getD n
    let have_ := if s.ownedQ q then 0 else (s.queue q).occ
    if left ≤ have_ then ((s.setQueue q ((s.queue q).popN (queueDepth q) left)).setDrop none).complete 4
    else if have_ = 0 then s.stallOn 2
    else
      let t := (s.setQueue q ((s.queue q).popN (queueDepth q) have_)).setDrop (some (left - have_))
      (t.setMe { t.me with stallCycles := 0 }).stallOn 2

/-! ### The meanings of QOP and its 16-bit forms -/

/-- R194: QPUSH. -/
def execQpush (q : BitVec 5) (d : Reg) (s : State) : Res := .next (s.qpush q.toNat (s.rd d) 4)
/-- R155, QPUSH queue, a. -/
def execCqpush (a : Reg) (q : BitVec 5) (s : State) : Res := .next (s.qpush q.toNat (s.rd a) 2)
/-- R194: QPOP. -/
def execQpop (q : BitVec 5) (d : Reg) (s : State) : Res := .next (s.qpop q.toNat d 4)
/-- R155, QPOP d, queue. -/
def execCqpop (d : Reg) (q : BitVec 5) (s : State) : Res := .next (s.qpop q.toNat d 2)
/-- R195: BQPUSH. -/
def execBqpush (q : BitVec 5) (d : Reg) (s : State) : Res := .next (s.bqpush q.toNat (s.rd d) 4)
/-- R155, BQPUSH queue, a. -/
def execCbqpush (a : Reg) (q : BitVec 5) (s : State) : Res := .next (s.bqpush q.toNat (s.rd a) 2)
/-- R196: QDROP of zext(s[b], 64) entries. -/
def execQdrop (q : BitVec 5) (b : Reg) (s : State) : Res := .next (s.qdrop q.toNat (s.rd b).toNat)
/-- R194, R196: QDROP of N + 1 entries. -/
def execQdropN (q : BitVec 5) (n : BitVec 6) (s : State) : Res := .next (s.qdrop q.toNat (n.toNat + 1))

end Sys2Proof.Machine
end

