-- ==== Sys2Proof/Machine/Memory.lean ====
section
/-!
DEFINITION. The access families: LD and ST (09 R213 to R215), LDQ and STQ with their elements (R216 to R218), LDA,
STREL, FENCE and PREF (R219 to R221).
-/
namespace Sys2Proof.Machine

/-! ### LD and ST -/

/-- Whether a counter stands at 65,535, so that an issue that would raise it stalls (R70, R210). An access that waits
for its reply has been counted already. -/
def State.counterFull (s : State) (onSt : Bool) : Bool :=
  s.me.reply.isNone && 65535 ≤ (if onSt then s.cur.st else s.cur.ld)

/-- LD (R214). -/
def State.ldAt (s : State) (ea : Word) (z : BitVec 2) (x : BitVec 1) (d : Reg) (len : Nat) : State :=
  if s.counterFull false then s.stallOn 5
  else s.load 1 ea (szBytes z) fun t bs => (t.wr d (extendLoad x (szBytes z) bs)).complete len

/-- ST (R214). -/
def State.stAt (s : State) (ea : Word) (z : BitVec 2) (d : Reg) (len : Nat) : State :=
  if s.counterFull true then s.stallOn 5
  else s.store .store 1 ea (wordBytes (s.rd d) (szBytes z)) fun t => t.complete len

/-- R213, R214: LD, base and offset. -/
def execLd (x : BitVec 1) (z : BitVec 2) (a d : Reg) (o : Off10) (s : State) : Res :=
  s.only .a (.next (s.ldAt (s.rd a + off10Val o) z x d (off10Len o)))
/-- R213, R214: ST, base and offset. -/
def execSt (z : BitVec 2) (a d : Reg) (o : Off10) (s : State) : Res :=
  s.only .a (.next (s.stAt (s.rd a + off10Val o) z d (off10Len o)))
/-- R213, R214: LD, base and scaled index. -/
def execLdIndexed (c : BitVec 2) (x : BitVec 1) (z : BitVec 2) (b a d : Reg) (s : State) : Res :=
  s.only .a (.next (s.ldAt (s.rd a + (s.rd b <<< c.toNat)) z x d 4))
/-- R213, R214: ST, base and scaled index. -/
def execStIndexed (c z : BitVec 2) (b a d : Reg) (s : State) : Res :=
  s.only .a (.next (s.stAt (s.rd a + (s.rd b <<< c.toNat)) z d 4))

/-! ### LDA, STREL, FENCE, PREF -/

/-- Whether a scope is package scope or wider (Table 4-6). -/
def wideScope (c : BitVec 3) : Bool := 3 ≤ c.toNat

/-- The remote line cache at an acquire or a fence: at package scope or wider the tent's lines are written back and
dropped (R86, R220, R368). -/
def State.acquired (s : State) (c : BitVec 3) : State := if wideScope c then s.dropTent else s

/-- The remote line cache at a release: at package scope or wider the tent's dirty bytes are written back (R86, R220,
R368). -/
def State.released (s : State) (c : BitVec 3) : State := if wideScope c then s.writeBackTent else s

/-- The lines of the current tent in its die's cache (R368). -/
def State.tentLines (s : State) : List Nat := (s.myDie.lines.filter fun l => l.isOf s.cur.id.tid).map (·.line)

/-- Whether an acquire, release or fence can write back the tent's dirty lines now (R366, R368, R417). -/
def State.flushable (s : State) (c : BitVec 3) : Bool :=
  !wideScope c || s.canWriteBack s.tentLines

/-- Goes on with `k` when the dirty lines of an acquire, release or fence can be written back; a full undo log stalls it as
kind 7 where Table 9-12 gives the instruction that kind (R417), a held path makes it wait. -/
def State.flushed (s : State) (kind7 : Bool) (c : BitVec 3) (k : State) : State :=
  if s.flushable c then k
  else if kind7 && s.dev.undoLacks (s.tentLines.filter fun l => (s.myDie.lineFind l).any fun c => c.dirty != 0) then s.stallOn 7
  else s.idle

/-- Every earlier access of the access stream has been performed: no queue stream is unfinished and no remote store is
in flight (R220). -/
def State.drained (s : State) : Bool := s.cur.qstreams.isEmpty && s.storesInFlight.isEmpty

/-- R219, R220: LDA. -/
def execLda (s' : BitVec 3) (z : BitVec 2) (a d : Reg) (l : OptLit) (s : State) : Res :=
  s.only .a (.next (
    if s.counterFull false then s.stallOn 5
    else s.flushed true s' (s.load (szBytes z) (s.rd a + optLitVal l) (szBytes z) fun t bs =>
      ((t.wr d (extendLoad 0 (szBytes z) bs)).acquired s').complete (optLitLen l))))

/-- R219, R220: STREL; it waits until every earlier access has been performed, once its own checks have passed; behind an
element it overlaps, as stall kind 6 (R67, R97). -/
def execStrel (s' : BitVec 3) (z : BitVec 2) (a d : Reg) (l : OptLit) (s : State) : Res :=
  let n := szBytes z
  let ea := s.rd a + optLitVal l
  let go (t : State) : State := t.store .release n ea (wordBytes (s.rd d) n) fun t => t.complete (optLitLen l)
  s.only .a (.next (
    if s.counterFull true then s.stallOn 5
    else match s.check .release n false ea n with
      | .ok _ =>
        if s.drained then s.flushed true s' (go (s.released s'))
        else if s.streamStall ea n || s.cur.jobStall .release ea n then s.stallOn 6 else s.idle
      | _ => go s))

/-- R219, R220: FENCE completes when every earlier access has been performed. -/
def execFence (s' : BitVec 3) (s : State) : Res :=
  s.only .a (.next (
    if s.drained && s.cur.st == 0 && s.cur.ld == 0 then s.flushed false s' ((s.acquired s').complete 4) else s.idle))

/-- R221: PREF has no architectural effect and never faults. -/
def execPref (a : Reg) (l : OptLit) (s : State) : Res :=
  let _ := a
  s.only .a (.next (s.complete (optLitLen l)))

/-! ### LDQ and STQ -/

/-- The elements of a queue stream in order. -/
def QStream.elements (q : QStream) : List Word :=
  (upto q.count).flatMap fun e => (upto q.lanes).map fun i => q.addr e i

/-- The checks of every element, in element order (R218): their parts, or the first failure. -/
def State.checkElems (s : State) (kind : AccKind) (n : Nat) : List Word → Option (BitVec 8 × Word) × Bool
  | [] => (none, false)
  | ea :: rest =>
    match s.check kind 1 false ea n with
    | .fault c a => (some (c, a), false)
    | .wait => (none, true)
    | .ok _ => s.checkElems kind n rest

/-- Whether any element lies where a speculative run may not go (R106, R212). -/
def State.specBars (s : State) (kind : AccKind) (n : Nat) (es : List Word) : Bool :=
  s.cur.spec.isSome && es.any fun ea => match s.check kind 1 false ea n with
    | .ok ps => s.specBarred ea ps
    | _ => false

/-- The ordering kinds of the pages the elements lie on (R91). -/
def State.elemKinds (s : State) (kind : AccKind) (n : Nat) (es : List Word) : List Nat :=
  (es.flatMap fun ea => match s.check kind 1 false ea n with
    | .ok ps => ps.map fun p => p.hit.pkind
    | _ => []).eraseDups

/-- The commit of every unit the elements of an STQ write (R218). -/
def State.commitElems (s : State) (n : Nat) : List Word → Commit
  | [] => .done s
  | ea :: rest =>
    match s.check .store 1 false ea n with
    | .ok ps => match s.commitAll ea 1 ps with
      | .done t => t.commitElems n rest
      | e => e
    | _ => s.commitElems n rest

/-- An LDQ or STQ issued: checked whole, then recorded (R217, R218). -/
def State.startStream (s : State) (q : QStream) : State :=
  let kind := if q.store then AccKind.store else .load
  if s.counterFull q.store then s.stallOn 5
  else if 8 ≤ (s.cur.qstreams.filter fun o => !o.plain).length then s.stallOn 6
  else match s.checkElems kind q.width q.elements with
    | (some (c, a), _) => s.raiseAt c (chkDetail c kind.detail) a 0
    | (none, true) => s.idle
    | (none, false) =>
      if s.specBars kind q.width q.elements then s.unlessSpec s
      else match (if q.store then s.commitElems q.width q.elements else .done s) with
        | .fault c d a x => s.raise c d a x
        | .full => s.stallOn 7
        | .done t =>
          let u := t.count q.store (· + 1)
          let q1 := { q with kinds := s.elemKinds kind q.width q.elements }
          (u.setCur { u.cur with qstreams := u.cur.qstreams ++ [q1] }).complete 4

/-- R216 to R218: LDQ. -/
def execLdq (x : BitVec 1) (z : BitVec 2) (b a : Reg) (q : BitVec 5) (s : State) : Res :=
  s.only .a (.next (s.startStream
    { toks := s.tokens, store := false, sext := x == 1, sz := z, base := s.rd a, shape := s.rd b, queue := q.toNat, entry := 0, elem := 0
      held := none, replies := [], kinds := [], iaddr := s.me.iaddr, tl := s.cur.jobs.issuedTl, cp := s.cur.jobs.issuedCp }))

/-- R216 to R218: STQ. -/
def execStq (z : BitVec 2) (b a : Reg) (q : BitVec 5) (s : State) : Res :=
  s.only .a (.next (s.startStream
    { toks := s.tokens, store := true, sext := false, sz := z, base := s.rd a, shape := s.rd b, queue := q.toNat, entry := 0, elem := 0
      held := none, replies := [], kinds := [], iaddr := s.me.iaddr, tl := s.cur.jobs.issuedTl, cp := s.cur.jobs.issuedCp }))

/-! ### Their elements -/

/-- Queue stream k replaced. -/
def State.setStreamQ (s : State) (k : Nat) (q : QStream) : State :=
  s.setCur { s.cur with qstreams := s.cur.qstreams.set k q }

/-- Queue stream k finished: its counter falls (R218). -/
def State.endStreamQ (s : State) (k : Nat) (onSt : Bool) : State :=
  (s.setCur { s.cur with qstreams := s.cur.qstreams.eraseIdx k }).count onSt (· - 1)

/-- Whether stream k is the first of its queue, so that its entries come next (R218). -/
def Strand.firstOnQueue (c : Strand) (k : Nat) (q : QStream) : Bool :=
  (c.qstreams.take k).all fun o => o.queue != q.queue

/-- The unretired jobs issued before a queue stream (R95, R97). -/
def Strand.earlierCards (k : Strand) (q : QStream) : List Card :=
  (k.jobs.thq.filter fun c => c.ord ≤ q.tl) ++ k.jobs.cpq.filter fun c => c.ord ≤ q.cp

/-- Whether an element waits: on an earlier job's footprint (R97), on an element of an earlier queue stream that overlaps it
or that Table 4-7 keeps before it (R67, R91), or so on a remote store of the strand in flight. -/
def State.elemWaits (s : State) (k : Nat) (kind : AccKind) (ea : Word) (n : Nat) (ps : List Piece) : Bool :=
  (match s.cur.qstreams[k]? with
   | some q => cardsStall (s.cur.earlierCards q) kind ea n
   | none => false) ||
    ((s.cur.qstreams.take k).any fun o => s.meets o ea n || ps.any fun p => o.keeps kind p.hit) ||
    ps.any fun p => s.keptBehind kind p.hit p.len

/-- The element faults of a stream, due at the access stream's next boundary with DEFER = 1 (R218). -/
def State.deferFault (s : State) (cause : BitVec 8) (iaddr faddr : Word) : State :=
  s.setCur { s.cur with deferred := s.cur.deferred ++ [s.faultRec cause 1 true 0 iaddr faddr 0] }

/-- The entry of an LDQ with its elements (R217); SZ 11 fills lanes 2m and 2m + 1. -/
def QStream.pack (q : QStream) (vals : List Nat) : VReg :=
  let w := if q.sz = 3 then 64 else 32
  let one (v : Nat) : Nat :=
    if q.sext then (match q.width with
      | 1 => ((BitVec.ofNat 8 v).signExtend 32).toNat
      | _ => ((BitVec.ofNat 16 v).signExtend 32).toNat) else v
  BitVec.ofNat 2048 (vals.foldr (fun v acc => one v + 2 ^ w * acc) 0)

/-- An element of the next entry: where its bytes stand among the entry's, its address and its parts. -/
structure Elem where
  start : Nat
  ea : Word
  ps : List Piece

/-- The elements of the next entry of stream k, from lane i on, each with its parts; none while one waits (R97, R217). -/
def State.entryElems (s : State) (k : Nat) (q : QStream) : List Nat → Option (List Elem)
  | [] => some []
  | i :: rest =>
    let ea := q.addr q.entry i
    match s.check .load 1 false ea q.width with
    | .ok ps =>
      if s.elemWaits k .load ea q.width ps || !s.evictable ps then none
      else (s.entryElems k q rest).map fun es => { start := i * q.width, ea := ea, ps := ps } :: es
    | _ => none

/-- The bytes of the elements as this die reads them. -/
def State.elemBytes (s : State) (es : List Elem) : List Byte := es.flatMap fun e => s.loadBytes e.ps

/-- The parts of the elements that their owners must give (R367). -/
def State.elemParts (s : State) (es : List Elem) : List ReqPart :=
  es.flatMap fun e => (s.loadParts e.ps).map fun p => { p with start := e.start + p.start }

/-- What the loads of the elements leave behind (R359, R368, R401). -/
def State.afterElems (s : State) (es : List Elem) : State :=
  es.foldl (fun t e => e.ps.foldl (fun (u : State) p => if p.hit.cls.isSome then u.sawPart p.hit.key p.len else u)
    ((t.fillAll e.ea e.ps).touchParts e.ps)) s

/-- The first poisoned byte that the elements read on this die, by its place among the entry's bytes, and the lines. -/
def State.elemPoison (s : State) (es : List Elem) : Option (Nat × List Nat) :=
  es.findSome? fun e => match s.poisonHere e.ps with
    | [] => none
    | ls => some (e.start + (s.poisonAddr e.ea e.ps - e.ea).toNat, ls)

/-- The first poisoned byte that the replies brought. -/
def replyPoison (rs : List Request) : Option (Nat × List Nat) :=
  (rs.flatMap fun r => r.parts.filterMap fun p =>
    match (linesOf p.key p.len).find? r.poison.contains with
    | some l => some (p.start + (max (l * 64) p.key - p.key), r.poison)
    | none => none).foldl (fun m c => match m with
      | some b => if c.1 < b.1 then some c else m
      | none => some c) none

/-- The requests for the remote elements of the next entry, one to each owner, and their tags; none without enough free
tags (R367, R370). -/
def State.requestElems (s : State) (q : QStream) (ps : List ReqPart) : List Nat → Option (State × List Nat)
  | [] => some (s, [])
  | peer :: rest =>
    let mine := ps.filter fun p => p.key / 2 ^ 52 == peer
    let first := (mine.head?.map (·.start)).getD 0
    let faddr := q.addr q.entry (first / q.width) + BitVec.ofNat 64 (first % q.width)
    match s.freeTag with
    | none => none
    | some tag =>
      ((s.sendRequest tag 0 mine (List.replicate (q.lanes * q.width) 0) false q.iaddr faddr).requestElems q ps rest).map
        fun r => (r.1, tag :: r.2)

/-- The entry's bytes with what the replies brought in their places. -/
def replyBytes (bs : List Byte) (rs : List Request) : List Byte :=
  rs.foldl (fun bs r => r.parts.foldl (fun bs p => spliceAt bs p.start ((r.bytes.drop p.start).take p.len)) bs) bs

/-- Stream k past its entry. -/
def State.nextEntry (s : State) (k : Nat) (q : QStream) : State :=
  if q.entry + 1 < q.count then s.setStreamQ k { q with entry := q.entry + 1, elem := 0, held := none, replies := [] }
  else s.endStreamQ k q.store

/-- The requests of an entry ended: their tags are free. -/
def State.dropTags (s : State) (tags : List Nat) : State :=
  s.setMyDie { s.myDie with requests := s.myDie.requests.filter fun r => !tags.contains r.tag }

/-- The next entry of stream k with a poisoned element: it is not pushed; the fault is delivered at the access stream's
next boundary, or the domain rolls back (R218, R420). -/
def State.poisonedEntry (s : State) (k : Nat) (q : QStream) (at_ : Nat) (ls : List Nat) : State :=
  let ea := q.addr q.entry (at_ / q.width) + BitVec.ofNat 64 (at_ % q.width)
  if s.cur.spec.isSome || !(ls.all fun l => s.dev.restored.contains l) then
    s.poisoned ls (s.faultRec 0x10 1 true 0 q.iaddr ea 0)
  else (s.deferFault 0x10 q.iaddr ea).nextEntry k q

/-- The next entry of stream k with its elements read (R217, R218): pushed, unless one is poisoned. -/
def State.pushEntry (s : State) (k : Nat) (q : QStream) (es : List Elem) (rs : List Request) : State :=
  let bs := replyBytes (s.elemBytes es) (rs.map fun r => { r with bytes := s.ownWrites r })
  let t := s.dropTags (rs.map (·.tag))
  match (replyPoison rs) <|> s.elemPoison es with
  | some (n, ls) => t.poisonedEntry k q n ls
  | none => ((t.afterElems es).pushQ q.queue (q.pack (chunks q.width q.lanes bs))).nextEntry k q

/-- R217, R218: the next entry of LDQ stream k is loaded, its remote elements by requests to their owners, and pushed once
the queue has room. -/
def execLdqEntryPush (k : Nat) (s : State) : Res :=
  match s.cur.qstreams[k]? with
  | none => .next s
  | some q =>
    if q.store || !s.cur.resident || s.cur.parked || !s.cur.firstOnQueue k q || s.fullQ q.queue then .next s
    else
      let rs := q.replies.filterMap s.myDie.request
      if rs.any fun r => !r.replied then .next s
      else match s.entryElems k q (upto q.lanes) with
        | none => .next s
        | some es =>
          let ps := s.elemParts es
          if !q.replies.isEmpty || ps.isEmpty || (s.elemPoison es).isSome then .next (s.pushEntry k q es rs)
          else
            let t := es.foldl (fun (u : State) e => (u.fillAll e.ea e.ps).evictDirect e.ps) s
            match t.requestElems q ps (ps.map fun p => p.key / 2 ^ 52).eraseDups with
            | none => .next s
            | some (u, tags) => .next (u.setStreamQ k { q with replies := tags })

/-- The remote stores of stream k not yet acknowledged. -/
def State.streamRequests (s : State) (q : QStream) : Bool := s.storesInFlight.any fun r => r.iaddr == q.iaddr && !r.onSt

/-- R217, R218: the next element of STQ stream k is stored, its entry popped first; the stream ends when its last
element has been performed. -/
def execStqElementStore (k : Nat) (s : State) : Res :=
  match s.cur.qstreams[k]? with
  | none => .next s
  | some q =>
    if !q.store || !s.cur.resident || s.cur.parked || !s.cur.firstOnQueue k q then .next s
    else if q.count ≤ q.entry then (if s.streamRequests q then .next s else .next (s.endStreamQ k true))
    else if q.held.isNone && s.emptyQ q.queue then .next s
    else
      let v := q.held.getD (s.queue q.queue).front
      let s1 := if q.held.isNone then s.popQ q.queue else s
      let ea := q.addr q.entry q.elem
      let bs := natLe q.width (q.lane v q.elem).toNat
      match s1.check .store 1 false ea q.width with
      | .ok ps =>
        if s1.elemWaits k .store ea q.width ps || s1.logStall ps || !s1.evictable ps ||
            (!(storeParts ps).isEmpty && s1.freeTag.isNone) then .next s
        else if s1.holdFull ps then .next (s.setDev s.dev.requestSeal)
        else
          let t := s1.storeBytes (some q.iaddr) ea ps bs
          let q' := if q.elem + 1 < q.lanes then { q with elem := q.elem + 1, held := some v }
                    else { q with entry := q.entry + 1, elem := 0, held := none }
          if q'.entry < q.count || t.streamRequests q then .next (t.setStreamQ k q') else .next (t.endStreamQ k true)
      | _ => .next s

end Sys2Proof.Machine
end

