-- ==== Sys2Proof/Machine/Atomic.lean ====
section
/-!
DEFINITION. Granary atomics on 32, 64 and 128 bits (09 R222 to R227), the arming of a mailbox (12 R318), and the one
operation that every atomic, barrier and ring instruction is checked and ordered by.
-/
namespace Sys2Proof.Machine

/-- What an indivisible step at a granary did: the machine after it with its result, or the machine of a fault or a
wait. -/
inductive AtomOut where
  | done (s : State) (v : BitVec 128)
  | stop (s : State)

/-- The order field of an atomic (R222): bit 0 acquire, bit 1 release. -/
def isAcquire (o : BitVec 2) : Bool := o.getLsbD 0
/-- Whether the order field includes release. -/
def isRelease (o : BitVec 2) : Bool := o.getLsbD 1

/-- The checks of Table 9-1 on a granary object (R211, R226), then `k` with the part it lies in; an operation that has begun
meets no footprint any more. -/
def State.granary (s : State) (n : Nat) (ea : Word) (k : State → Piece → State) : State :=
  match s.check .atomic n true ea n with
  | .fault c a => s.raiseAt c (chkDetail c 2) a 0
  | .wait => s.idle
  | .ok [] => s
  | .ok (p :: _) =>
    if s.me.reply.isNone && s.me.claim.isNone && s.me.barwait.isNone && (s.cur.jobStall .atomic ea n || s.streamStall ea n) then
      s.stallOn 6
    else k (s.fillAll ea [p]) p

/-- An atomic of `n` bytes at `ea` (R222, R226): a speculative run is discarded, the order field waits for and writes
back earlier accesses or drops cached lines after it, a remote object is reached by a request that the owner performs
once and answers (R367, R371), and `fin` writes the result. -/
def State.atomic (s : State) (sc : BitVec 3) (o : BitVec 2) (onSt : Bool) (n : Nat) (ea : Word)
    (op : State → Loc → AtomOut) (fin : State → BitVec 128 → State) : State :=
  let finish (t : State) (v : BitVec 128) : State :=
    (fin (if isAcquire o then t.acquired sc else t) v).complete 4
  let before (t : State) : State := if isRelease o then t.released sc else t
  let gate (t : State) : State := if isRelease o || isAcquire o then s.flushed true sc t else t
  s.unlessSpec <|
  match s.awaited with
  | some r =>
    if r.replied then gate (finish (s.tookReply r) r.value)
    else if r.served && !r.performed && !r.dropped then
      match op s (s.placeAt ((r.parts.head?.map (·.key)).getD 0) n) with
      | .done t v =>
        let u := t.setDev (t.dev.countParts s.cur.id.die.toNat r.parts)
        u.setMyDie (u.myDie.setRequest { r with performed := true, value := v })
      | .stop t => t
    else s.idle
  | none =>
    if s.counterFull onSt then s.stallOn 5
    else s.granary n ea fun s p =>
      if (if isRelease o then !s.drained else s.kept .atomic [p]) || !s.evictable [p] then s.idle
      else if p.hit.remote then gate ((before s).sendOp p.hit 2 onSt n ea)
      else gate (
        match op (before s) p.hit.loc with
        | .done t v => finish t v
        | .stop t => t)

/-- An indivisible read-modify-write of a w-bit object: its new value, none to leave it, and the result (R101, R226). -/
def rmw {w : Nat} (f : BitVec w → Option (BitVec w) × BitVec 128) (s : State) (loc : Loc) : AtomOut :=
  let old : BitVec w := BitVec.ofNat w (leNat (s.getBytes loc (w / 8)))
  match f old with
  | (some v, r) => .done (s.setBytes loc (natLe (w / 8) v.toNat)) r
  | (none, r) => .done s r

/-- s[d] := the low 64 bits of the result. -/
def putLow (d : Reg) (t : State) (v : BitVec 128) : State := t.wr d (v.setWidth 64)

/-- An atomic of SZ that writes its new value whenever `f` gives one and returns the old one (R223). -/
def State.atomData (s : State) (sc : BitVec 3) (o : BitVec 2) (z : BitVec 1) (onSt : Bool) (a b d : Reg)
    (f : (w : Nat) → BitVec w → BitVec w → Option (BitVec w)) : Res :=
  let fin := if onSt then fun (t : State) (_ : BitVec 128) => t else putLow d
  s.only .a (.next (
    if z = 0 then
      s.atomic sc o onSt 4 (s.rd a) (rmw (w := 32) fun old => (f 32 old ((s.rd b).setWidth 32), old.setWidth 128)) fin
    else
      s.atomic sc o onSt 8 (s.rd a) (rmw (w := 64) fun old => (f 64 old (s.rd b), old.setWidth 128)) fin))

/-! ### Arming a mailbox -/

/-- The offset of a place in its 64-byte block. -/
def Loc.low : Loc → Nat
  | .own _ off => off % 64
  | .peer _ _ _ _ off => off % 64
  | .phys key => key % 64

/-- The place `n` bytes before. -/
def Loc.back : Loc → Nat → Loc
  | .own o off, n => .own o (off - n)
  | .peer d t x o off, n => .peer d t x o (off - n)
  | .phys key, n => .phys (key - n)

/-- The word an arming writes (R317, R318): bits [8:0] of the operand, and the strand's identity for KIND 01 and 10. -/
def Ident.armed (i : Ident) (b : Word) : Word :=
  let kind := b.toNat % 4
  let low := b &&& 0x1FF
  if kind = 1 || kind = 2 then
    low ||| (i.stag.setWidth 64 <<< 16) ||| (i.six.setWidth 64 <<< 32) ||| (i.pkg.setWidth 64 <<< 40) |||
      (i.die.setWidth 64 <<< 48)
  else low

/-- Whether a 64-bit swap at a place is an arming: offset 0x38 of a block whose MBX bit is 1 (R318). -/
def State.isArming (s : State) (loc : Loc) : Bool :=
  loc.low == 0x38 && (s.getByte (loc.back 0xC)).getLsbD 3

/-- A 64-bit swap or compare-and-swap, with the arming of R318. -/
def State.swap64 (s : State) (ea b : Word) (expect : Option Word) (t : State) (loc : Loc) : AtomOut :=
  let keep (old : Word) : Bool := match expect with
    | some e => old != e
    | none => false
  if t.isArming loc then
    let ctid := t.getByte (loc.back 0xA)
    if ctid != s.cur.id.tid then .stop (s.raise 0x05 2 ea 0)
    else rmw (w := 64) (fun old => (if keep old then none else some (s.cur.id.armed b), old.setWidth 128)) t loc
  else rmw (w := 64) (fun old => (if keep old then none else some b, old.setWidth 128)) t loc

/-! ### The meanings of ATOM -/

/-- R223: GADD, no result; it counts on st. -/
def execGadd (s' : BitVec 3) (o : BitVec 2) (z : BitVec 1) (b a : Reg) (s : State) : Res :=
  s.atomData s' o z true a b 0 fun _ old v => some (old + v)
/-- R223, R318: GSWAP. -/
def execGswap (s' : BitVec 3) (o : BitVec 2) (z : BitVec 1) (b a d : Reg) (s : State) : Res :=
  if z = 0 then s.atomData s' o z false a b d fun _ _ v => some v
  else s.only .a (.next (s.atomic s' o false 8 (s.rd a) (s.swap64 (s.rd a) (s.rd b) none) (putLow d)))
/-- R223, R318: GCAS compares with s[d]. -/
def execGcas (s' : BitVec 3) (o : BitVec 2) (z : BitVec 1) (b a d : Reg) (s : State) : Res :=
  if z = 0 then s.atomData s' o z false a b d fun w old v => if old = (s.rd d).setWidth w then some v else none
  else s.only .a (.next (s.atomic s' o false 8 (s.rd a) (s.swap64 (s.rd a) (s.rd b) (some (s.rd d))) (putLow d)))
/-- R223: GFADD. -/
def execGfadd (s' : BitVec 3) (o : BitVec 2) (z : BitVec 1) (b a d : Reg) (s : State) : Res :=
  s.atomData s' o z false a b d fun _ old v => some (old + v)

/-- GBFADD: whether it refuses, from the addend and the bound (R224). -/
def gbfaddRefuses (old : BitVec 32) (b : Word) : Bool :=
  let add := b.toNat % 2 ^ 32
  let bound := b.toNat / 2 ^ 32
  bound < old.toNat || 2 ^ 32 ≤ old.toNat + add || bound < old.toNat + add

/-- R224: GBFADD. -/
def execGbfadd (s' : BitVec 3) (o : BitVec 2) (b a d : Reg) (s : State) : Res :=
  s.only .a (.next (s.atomic s' o false 4 (s.rd a)
    (rmw (w := 32) fun old =>
      if gbfaddRefuses old (s.rd b) then (none, (0x8000000000000000 : Word).setWidth 128 + old.setWidth 128)
      else (some (old + (s.rd b).setWidth 32), old.setWidth 128)) (putLow d)))

/-- R225: GINCW. -/
def execGincw (s' : BitVec 3) (o : BitVec 2) (z : BitVec 1) (b a d : Reg) (s : State) : Res :=
  s.atomData s' o z false a b d fun _ old v => some (if v.toNat ≤ old.toNat then 0 else old + 1)
/-- R223: GMIN, signed. -/
def execGmin (s' : BitVec 3) (o : BitVec 2) (z : BitVec 1) (b a d : Reg) (s : State) : Res :=
  s.atomData s' o z false a b d fun _ old v => some (if old.toInt ≤ v.toInt then old else v)
/-- R223: GMAX, signed. -/
def execGmax (s' : BitVec 3) (o : BitVec 2) (z : BitVec 1) (b a d : Reg) (s : State) : Res :=
  s.atomData s' o z false a b d fun _ old v => some (if old.toInt ≤ v.toInt then v else old)
/-- R223: GAND. -/
def execGand (s' : BitVec 3) (o : BitVec 2) (z : BitVec 1) (b a d : Reg) (s : State) : Res :=
  s.atomData s' o z false a b d fun _ old v => some (old &&& v)
/-- R223: GOR. -/
def execGor (s' : BitVec 3) (o : BitVec 2) (z : BitVec 1) (b a d : Reg) (s : State) : Res :=
  s.atomData s' o z false a b d fun _ old v => some (old ||| v)

/-! ### 128-bit atomics -/

/-- Register pair n; b = 0 supplies zero (R227). -/
def State.rdPair (s : State) (r : Reg) : BitVec 128 := if r = 0 then 0 else s.rd (Reg.next r) ++ s.rd r

/-- The pair written; d = 0 writes no result (R227). -/
def putPair (d : Reg) (t : State) (v : BitVec 128) : State :=
  if d = 0 then t else (t.wr d (v.extractLsb' 0 64)).wr (Reg.next d) (v.extractLsb' 64 64)

/-- A 128-bit atomic (R227). -/
def State.atomQuad (s : State) (sc : BitVec 3) (o : BitVec 2) (a d : Reg)
    (f : BitVec 128 → Option (BitVec 128)) : Res :=
  s.only .a (.next (s.atomic sc o false 16 (s.rd a) (rmw (w := 128) fun old => (f old, old)) (putPair d)))

/-- R227: GSWAP, 128 bits. -/
def execGswapQ (s' : BitVec 3) (o : BitVec 2) (b a d : Reg) (s : State) : Res :=
  s.atomQuad s' o a d fun _ => some (s.rdPair b)
/-- R227: GCAS, 128 bits: the object is compared with pair d. -/
def execGcasQ (s' : BitVec 3) (o : BitVec 2) (b a d : Reg) (s : State) : Res :=
  s.atomQuad s' o a d fun old => if old = s.rdPair d then some (s.rdPair b) else none
/-- R227: GAND, 128 bits. -/
def execGandQ (s' : BitVec 3) (o : BitVec 2) (b a d : Reg) (s : State) : Res :=
  s.atomQuad s' o a d fun old => some (old &&& s.rdPair b)
/-- R227: GOR, 128 bits. -/
def execGorQ (s' : BitVec 3) (o : BitVec 2) (b a d : Reg) (s : State) : Res :=
  s.atomQuad s' o a d fun old => some (old ||| s.rdPair b)

end Sys2Proof.Machine
end

