-- ==== Sys2Proof/Machine/Barrier.lean ====
section
/-!
DEFINITION. Barrier objects (09 R228 to R233): the image, arrival, and BARINIT, BARARR, BARWAIT, BARQRY.
-/
namespace Sys2Proof.Machine

/-- A barrier object (Table 9-4). -/
abbrev Bar := BitVec 128

/-- ARR. -/
def Bar.arr (x : Bar) : BitVec 32 := x.extractLsb' 0 32
/-- EXP. -/
def Bar.exp (x : Bar) : BitVec 32 := x.extractLsb' 32 32
/-- PH. -/
def Bar.ph (x : Bar) : BitVec 4 := x.extractLsb' 64 4
/-- OVR. -/
def Bar.ovr (x : Bar) : BitVec 1 := x.extractLsb' 68 1
/-- BYT. -/
def Bar.byt (x : Bar) : BitVec 1 := x.extractLsb' 69 1
/-- WAITERS. -/
def Bar.waiters (x : Bar) : BitVec 16 := x.extractLsb' 80 16
/-- LASTID. -/
def Bar.lastId (x : Bar) : BitVec 32 := x.extractLsb' 96 32

/-- An object from its fields; bits [79:70] zero. -/
def Bar.mk (arr exp : BitVec 32) (ph : BitVec 4) (ovr byt : BitVec 1) (waiters : BitVec 16) (last : BitVec 32) : Bar :=
  last ++ waiters ++ 0#10 ++ byt ++ ovr ++ ph ++ exp ++ arr

/-- The object with another number of waiters. -/
def Bar.setWaiters (x : Bar) (n : BitVec 16) : Bar := (x &&& ~~~((0xFFFF#128) <<< 80)) ||| (n.setWidth 128 <<< 80)

/-- A bad object (R229). -/
def Bar.bad (x : Bar) : Bool := x.exp == 0 || x.extractLsb' 70 10 != 0#10

/-- The image a barrier operation returns: the object with ST in [73:70] and [79:74] zero (R229). -/
def Bar.image (x : Bar) (st : BitVec 4) : BitVec 128 :=
  (x &&& ~~~((0x3FF#128) <<< 70)) ||| (st.setWidth 128 <<< 70)

/-- The identity of an arrival (R228). -/
def Ident.lastId (i : Ident) (job : Bool) : BitVec 32 :=
  i.tid ++ i.pkg ++ 0#6 ++ BitVec.ofBool job ++ i.coreNum

/-- An arrival with count n: the object after it, its status, and whether it completed the phase (R231). -/
def Bar.arrive (x : Bar) (n : BitVec 32) (who : BitVec 32) : Bar × BitVec 4 × Bool :=
  if x.bad then (x, 6, false)
  else if n = 0 then (x, 0, false)
  else
    let t := x.arr.toNat + n.toNat
    if t < x.exp.toNat then (Bar.mk (x.arr + n) x.exp x.ph x.ovr x.byt x.waiters who, 0, false)
    else if t = x.exp.toNat then (Bar.mk 0 x.exp (x.ph + 1) x.ovr x.byt x.waiters who, 1, true)
    else (Bar.mk 0 x.exp (x.ph + 1) 1 x.byt x.waiters who, 2, true)

/-- The name of a place that every strand agrees on: an object of a strand by the strand's name, else the physical
key. -/
def State.placeOf (s : State) : Loc → Nat × Nat
  | .own o off => (1 + (s.cur.id.die.toNat * 65536 + s.cur.id.stag.toNat) * 8 + s.cur.id.six.toNat, o * 2 ^ 24 + off)
  | .peer d t x o off => (1 + (d * 65536 + t) * 8 + x, o * 2 ^ 24 + off)
  | .phys key => (0, key)

/-- A strand waiting in BARWAIT on the object is released (R231). -/
def Strand.released (k : Strand) (place : Nat × Nat) : Strand :=
  match k.acc.barwait with
  | some w => if w.loc == place then { k with acc := { k.acc with barwait := some { w with released := true } } } else k
  | none => k

/-- Every strand waiting on the object is released (R231). -/
def State.releaseBar (s : State) (loc : Loc) : State :=
  let p := s.placeOf loc
  { s with cur := s.cur.released p, others := s.others.map fun k => k.released p }

/-- The object at a place. -/
def State.barAt (s : State) (loc : Loc) : Bar := BitVec.ofNat 128 (leNat (s.getBytes loc 16))

/-- The object at a place replaced. -/
def State.setBar (s : State) (loc : Loc) (x : Bar) : State := s.setBytes loc (natLe 16 x.toNat)

/-- An arrival at a place (R150, R231): the machine after it and the image it returns. -/
def State.arriveAt (s : State) (loc : Loc) (n who : BitVec 32) : State × BitVec 128 :=
  let r := (s.barAt loc).arrive n who
  let s1 := if r.2.1 = 6 then s else s.setBar loc r.1
  (if r.2.2 then s1.releaseBar loc else s1, r.1.image r.2.1)

/-- R230: BARINIT. -/
def execBarinit (s' : BitVec 3) (o : BitVec 2) (b a d : Reg) (s : State) : Res :=
  let v := s.rd b
  s.only .a (.next (s.atomic s' o false 16 (s.rd a)
    (fun t loc =>
      let x := t.barAt loc
      if v.extractLsb' 0 32 = 0#32 then .done t (x.image 6)
      else
        let y := Bar.mk 0 (v.extractLsb' 0 32) x.ph 0 (v.extractLsb' 32 1) x.waiters 0
        .done (t.setBar loc y) (y.image 5)) (putPair d)))

/-- R231: BARARR, a release at its scope, with order 11 also an acquire; `o` is bit 0 of the order field, whose bit 1
is 1. -/
def execBararr (s' : BitVec 3) (o : BitVec 1) (b a d : Reg) (s : State) : Res :=
  s.only .a (.next (s.atomic s' (1#1 ++ o) false 16 (s.rd a)
    (fun t loc =>
      let r := t.arriveAt loc ((s.rd b).setWidth 32) (s.cur.id.lastId false)
      .done r.1 r.2) (putPair d)))

/-- R233: BARQRY. -/
def execBarqry (s' : BitVec 3) (o : BitVec 2) (a d : Reg) (s : State) : Res :=
  s.only .a (.next (s.atomic s' o false 16 (s.rd a)
    (fun t loc => .done t ((t.barAt loc).image (if (t.barAt loc).bad then 6 else 5))) (putPair d)))

/-- The strand's count taken off WAITERS (R232). -/
def State.withdraw (s : State) (loc : Loc) (w : BarWait) : State :=
  let x := s.barAt loc
  if w.counted then s.setBar loc (x.setWaiters (x.waiters - 1)) else s

/-- The end of a BARWAIT: its result written, an acquire at the scope (R232). -/
def State.barwaitEnd (s : State) (sc : BitVec 3) (d : Reg) (img : BitVec 128) : State :=
  let t := s.setMe { s.me with barwait := none }
  (putPair d (t.acquired sc) img).complete 4

/-- A waiting BARWAIT seen again (R232): released, expired, or one cycle more of stall kind 9. Its end, an acquire, waits until
the tent's dirty lines can be written back (R368, R417). -/
def State.barwaitAgain (s : State) (sc : BitVec 3) (d : Reg) (loc : Loc) (w : BarWait) : State :=
  if w.released || w.expired then
    let t := (s.withdraw loc w).count false (· - 1)
    s.flushed false sc (t.barwaitEnd sc d ((t.barAt loc).image (if w.released then 3 else 4)))
  else
    let b := if 1 < w.bound.toNat then w.bound - 1 else w.bound
    (s.setMe { s.me with barwait := some { w with bound := b } }).stallOn 9

/-- A BARWAIT begins to wait: counted in WAITERS while that holds less than 65,535 (R232), and on ld (R210). -/
def State.startWait (s : State) (loc : Loc) (x : Bar) (bound : BitVec 32) : State :=
  let counted := x.waiters.toNat < 65535
  let t := (if counted then s.setBar loc (x.setWaiters (x.waiters + 1)) else s).count false (· + 1)
  let w : BarWait := { loc := t.placeOf loc, counted := counted, released := false, expired := false, bound := bound }
  (t.setMe { t.me with barwait := some w }).stallOn 9

/-- R232: BARWAIT; its operation waits for the earlier accesses that Table 4-7 keeps before it (R91). -/
def execBarwait (s' : BitVec 3) (b a d : Reg) (s : State) : Res :=
  let v := s.rd b
  s.only .a (.next (s.unlessSpec (
    if s.me.barwait.isNone && s.counterFull false then s.stallOn 5
    else s.granary 16 (s.rd a) fun s p =>
      match s.me.barwait with
      | some w => s.barwaitAgain s' d p.hit.loc w
      | none =>
        if s.me.reply.isNone && (s.kept .atomic [p] || !s.evictable [p]) then s.idle
        else s.remoteGate (if p.hit.remote then some p.hit else none) 0 16 (s.rd a) fun t =>
          let x := t.barAt p.hit.loc
          if x.bad then s.flushed false s' (t.barwaitEnd s' d (x.image 6))
          else if x.ph != v.extractLsb' 0 4 then s.flushed false s' (t.barwaitEnd s' d (x.image 3))
          else
            t.startWait p.hit.loc x (v.extractLsb' 32 32))))

/-- R232: the bound of a BARWAIT expires; a release that has come wins. -/
def execBarwaitBoundExpiry (s : State) : Res :=
  match s.cur.acc.barwait with
  | some w =>
    if w.bound = 1 && !w.released then
      .next (s.setCur { s.cur with acc := { s.cur.acc with barwait := some { w with expired := true } } })
    else .next s
  | none => .next s

end Sys2Proof.Machine
end

