-- ==== Sys2Proof/Machine/Branch.lean ====
section
/-!
DEFINITION. Control flow: block headers (R156, R157), REP (R161 to R163), hints (R169), branches (R189, R190), calls,
returns and the return stack with its spill (R191 to R193).
-/
namespace Sys2Proof.Machine

/-! ### BLK, REP, HINT -/

/-- R156, R157: a header reached at a block boundary opens its block at pass 0 and issues nothing. Inside a body the
word is an illegal encoding, and so is a header of another stream's class (R50). -/
def execBlk (e : BitVec 1) (c : BitVec 2) (p : BitVec 1) (r : BitVec 6) (l : BitVec 12) (s : State) : Res :=
  let x := s.me
  let word := frameBlk e c p r l
  if !x.atHeader || c != s.who.cls then .next s.raiseIllegal
  else .next (s.setMe { x.calm with
    hdr := x.pc, left := r, pass := 0, bodyEnd := bodyEndOf x.pc word, atHeader := false, pc := x.pc + 4 })

/-- R161 to R163: REP. Its target is the instruction after it in the body; a target that may not stand under a REP, an
increment of a field the target does not use, or a step outside a register file is an illegal encoding and nothing is
issued. -/
def execRep (b a d : BitVec 3) (c : BitVec 6) (s : State) : Res :=
  let x := s.me
  let r : RepState := { addr := x.pc, ib := b, ia := a, id := d, last := c, issue := 0 }
  match s.bodyBytes (x.pc + 4) with
  | (.ok _, bs) =>
    match frameBytes bs with
    | some (.word w) =>
      if x.rep.isSome || !repOk r w none then .next s.raiseIllegal else .next (s.setMe { x.calm with rep := some r })
    | some (.wide w l) =>
      if x.rep.isSome || !repOk r w (some l) then .next s.raiseIllegal else .next (s.setMe { x.calm with rep := some r })
    | _ => .next s.raiseIllegal
  | (.fault cause at_, _) => .next (s.raiseAt cause 4 at_ 0)
  | (.wait, _) => .next s.idle

/-- R169: a hint writes its value, or 0 for no information, to s[d] and changes nothing else. A hint number that is not
implemented gives 0. -/
def execHint (h : BitVec 14) (a d : Reg) (l : OptLit) (s : State) : Res :=
  let _ := (h, a)
  .next ((s.wr d 0).complete (optLitLen l))

/-- Table 7-9, hint 1: 1 or 2 as the loop buffer holds the block, which the spec leaves to the device (assumption log 3). -/
def execHintLoopBufferResident (a d : Reg) (l : OptLit) (s : State) : Res :=
  let _ := a
  .next (((s.wr d (if s.free.getLsbD 0 then 1 else 2)).drew).complete (optLitLen l))

/-- Table 7-9, hint 2: the free slots of the job queues. -/
def execHintFreeQueueSlots (a d : Reg) (l : OptLit) (s : State) : Res :=
  let _ := a
  let v := 0x100 + 16 * (16 - s.cur.jobs.cpq.length) + (8 - s.cur.jobs.thq.length)
  .next ((s.wr d (BitVec.ofNat 64 v)).complete (optLitLen l))

/-- Table 7-9, hint 3: 1 if the pin is granted, 2 if it is refused, which the spec leaves to the device
(assumption log 3). -/
def execHintPinRequest (a d : Reg) (l : OptLit) (s : State) : Res :=
  let _ := a
  .next (((s.wr d (if s.free.getLsbD 0 then 1 else 2)).drew).complete (optLitLen l))

/-! ### Branches -/

/-- The target of an immediate branch: H + off × 4 (R158, R189). -/
def State.target (s : State) (o : Off11) : Word := s.me.hdr + off11Val o

/-- A conditional branch (R189). -/
def State.branch (s : State) (taken : Bool) (o : Off11) : Res :=
  if taken then .next (s.transfer (s.target o) false id) else .next (s.complete (off11Len o))

/-- R189: CB.EQ. -/
def execCbEq (a b : Reg) (o : Off11) (s : State) : Res := s.branch (s.rd a == s.rd b) o
/-- R189: CB.NE. -/
def execCbNe (a b : Reg) (o : Off11) (s : State) : Res := s.branch (s.rd a != s.rd b) o
/-- R189: CB.LT, signed. -/
def execCbLt (a b : Reg) (o : Off11) (s : State) : Res := s.branch ((s.rd a).slt (s.rd b)) o
/-- R189: CB.GE, signed. -/
def execCbGe (a b : Reg) (o : Off11) (s : State) : Res := s.branch (!(s.rd a).slt (s.rd b)) o
/-- R189: CB.LT.U. -/
def execCbLtU (a b : Reg) (o : Off11) (s : State) : Res := s.branch ((s.rd a).ult (s.rd b)) o
/-- R189: CB.GE.U. -/
def execCbGeU (a b : Reg) (o : Off11) (s : State) : Res := s.branch (!(s.rd a).ult (s.rd b)) o
/-- R189: B. -/
def execB (o : Off11) (s : State) : Res := s.branch true o

/-- R190: BQB pops the stream's own branch-outcome queue whether or not it branches; a target that faults pops
nothing. -/
def execBqb (p : BitVec 1) (o : Off11) (s : State) : Res :=
  let q := ownBq s.who
  if s.emptyQ q then .next (s.stallOn 2)
  else if ((s.queue q).front.getLsbD 0) == (p == 1#1) then .next (s.transfer (s.target o) false fun t => t.popQ q)
  else .next ((s.popQ q).complete (off11Len o))

/-! ### The return stack -/

/-- A spilled entry (R192). -/
def RetEntry.spill (e : RetEntry) : BitVec 128 :=
  0#2 ++ e.pass ++ e.hdr.setWidth 56 ++ 0#2 ++ e.left ++ e.ret.setWidth 56

/-- A spilled entry read back (R192). -/
def unspill (v : BitVec 128) : RetEntry :=
  { ret := (bits v 0 56).setWidth 64, left := bits v 56 6, hdr := (bits v 64 56).setWidth 64, pass := bits v 120 6 }

/-- Spilled entry n lies at cfg.rsbase + 16n (R192). -/
def Stream.spillAt (x : Stream) (n : Nat) : Word := x.rsbase + BitVec.ofNat 64 (16 * n)

/-- A call (R193): the target is checked first, then the spill, and a fault of either changes nothing. -/
def State.call (s : State) (target : Word) (indirect : Bool) (len : Nat) : State :=
  if s.transferWaits target then s.idle
  else match s.transferFault s.who target indirect with
  | some (c, a, d) => s.raiseAt c d a 0
  | none =>
    let x := s.me
    let w := (s.codeWord target).getD 0
    let e : RetEntry := { ret := x.pc + BitVec.ofNat 64 len, hdr := x.hdr, left := x.left, pass := x.pass }
    if x.stack.length < 16 then (s.setMe { x with stack := e :: x.stack }).enterBlock target w
    else if x.spl = 240 then s.raise 0x0D 0 0 0
    else
      let at_ := x.spillAt x.spl
      match s.locateAll at_ (splits at_ 16) with
      | .fault c a => if c = 0x10 then s.raiseAt c 0 a 0 else s.raise 0x0D 1 a 0
      | .wait => s.idle
      | .ok ps =>
        if s.logStall ps then s.stallOn 7
        else if !s.clearToGo ps then s.idle
        else
          let old := x.stack.getLast?.getD e
          let t := s.storeNow at_ ps (natLe 16 old.spill.toNat)
          (t.setMe { t.me with stack := e :: t.me.stack.dropLast, spl := t.me.spl + 1 }).enterBlock target w

/-- A return point taken up: H, LEFT and PASS are restored (R159, R191). -/
def State.takeReturn (s : State) (e : RetEntry) (rest : List RetEntry) : State :=
  s.setMe ({ s.me with stack := rest }.returnTo e.ret e.hdr (s.bodyEndAt e.hdr) e.left e.pass)

/-- A return (R193): with no entry at all the stream ends (R22); a fill that reads poison consumes it (R420). -/
def State.ret (s : State) : State :=
  let x := s.me
  match x.stack with
  | e :: rest => s.takeReturn e rest
  | [] =>
    if x.spl = 0 then s.setMe { x.calm with run := .ended }
    else
      let at_ := x.spillAt (x.spl - 1)
      match s.locateAll at_ (splits at_ 16) with
      | .fault c a => if c = 0x10 then s.raiseAt c 0 a 0 else s.raise 0x0D 1 a 0
      | .wait => s.idle
      | .ok ps =>
        if !s.clearToGo ps then s.idle
        else if let l :: ls := s.poisonIn ps then
          s.poisoned (l :: ls) (s.faultRec 0x10 s.who.num false 0 s.me.iaddr (s.poisonAddr at_ ps) (s.me.aux 0))
        else
          let e := unspill (BitVec.ofNat 128 (leNat (s.readParts at_ ps).2))
          (s.setMe { x with spl := x.spl - 1 }).takeReturn e []

/-- R191, R193: CALL. -/
def execCall (o : Off11) (s : State) : Res := .next (s.call (s.target o) false (off11Len o))
/-- R191, R193: CALLR. -/
def execCallr (a : Reg) (s : State) : Res := .next (s.call (s.rd a) true 4)
/-- R191: JMPR, to s[a] + off × 4. -/
def execJmpr (a : Reg) (o : Off11) (s : State) : Res := .next (s.transfer (s.rd a + off11Val o) true id)
/-- R191, R193: RET. -/
def execRet (s : State) : Res := .next s.ret
/-- R155, RET. -/
def execCret (s : State) : Res := .next s.ret

end Sys2Proof.Machine
end

