-- ==== Sys2Proof/Machine/Number.lean ====
section
/-!
DEFINITION. Numbers (05 R108 to R124): exact values with a sticky remainder, decoding and encoding of every format, the
one rounding of R116 to R120, exact arithmetic and the correctly rounded functions of R124. Results are pairs of a code
and the flags of cfg.fflags it raises (Table 5-5: bit 0 NX, 1 UF, 2 OF, 3 DZ, 4 NV).
-/
namespace Sys2Proof.Machine

/-- Flags of cfg.fflags (Table 5-5). -/
abbrev Flags := BitVec 5

/-- Inexact. -/
def fNX : Flags := 1
/-- Underflow. -/
def fUF : Flags := 2
/-- Overflow. -/
def fOF : Flags := 4
/-- Divide by zero. -/
def fDZ : Flags := 8
/-- Invalid. -/
def fNV : Flags := 16

/-- A rounding mode (R116): 00 RNE, 01 RTZ, 10 RDN, 11 RUP. -/
abbrev RMode := BitVec 2

/-- An exact value: NaN (and NaR), an infinity, or ±(m + δ) × 2^e with 0 < δ < 1 when `sticky` and δ = 0 otherwise. -/
inductive ExactNum where
  | nan
  | inf (neg : Bool)
  | fin (neg : Bool) (m : Nat) (e : Int) (sticky : Bool)
  deriving DecidableEq, Repr

/-- A zero with a sign. -/
def ExactNum.zero (neg : Bool) : ExactNum := .fin neg 0 0 false

/-- An integer as a value. -/
def ExactNum.ofInt (i : Int) : ExactNum := .fin (decide (i < 0)) i.natAbs 0 false

/-- Whether a value is an exact zero. -/
def ExactNum.isZero : ExactNum → Bool
  | .fin _ m _ sticky => m == 0 && !sticky
  | _ => false

/-- Whether a value is NaN. -/
def ExactNum.isNan : ExactNum → Bool
  | .nan => true
  | _ => false

/-- Whether a value is an infinity. -/
def ExactNum.isInf : ExactNum → Bool
  | .inf _ => true
  | _ => false

/-- The sign of a value. -/
def ExactNum.neg : ExactNum → Bool
  | .nan => false
  | .inf n => n
  | .fin n _ _ _ => n

/-- The value negated. -/
def ExactNum.negate : ExactNum → ExactNum
  | .nan => .nan
  | .inf n => .inf !n
  | .fin n m e t => .fin (!n) m e t

/-! ### Formats -/

/-- A sign, exponent and fraction format (Table 5-2). -/
structure Ieee where
  width : Nat
  frac : Nat
  bias : Nat
  maxFinite : Nat
  nan : Nat
  hasInf : Bool
  deriving DecidableEq, Repr

/-- FP32. -/
def fp32 : Ieee := { width := 32, frac := 23, bias := 127, maxFinite := 0x7F7FFFFF, nan := 0x7FC00000, hasInf := true }
/-- FP16. -/
def fp16 : Ieee := { width := 16, frac := 10, bias := 15, maxFinite := 0x7BFF, nan := 0x7E00, hasInf := true }
/-- BF16. -/
def bf16 : Ieee := { width := 16, frac := 7, bias := 127, maxFinite := 0x7F7F, nan := 0x7FC0, hasInf := true }
/-- F8E5. -/
def f8e5 : Ieee := { width := 8, frac := 2, bias := 15, maxFinite := 0x7B, nan := 0x7E, hasInf := true }
/-- F8E4: exponent 1111 holds finite values but for fraction 111 (R111). -/
def f8e4 : Ieee := { width := 8, frac := 3, bias := 7, maxFinite := 0x7E, nan := 0x7F, hasInf := false }

/-- The place of the sign bit. -/
def Ieee.signBit (f : Ieee) : Nat := 2 ^ (f.width - 1)

/-- The exponent of the last place of subnormals. -/
def Ieee.qmin (f : Ieee) : Int := 1 - (f.bias : Int) - (f.frac : Int)

/-- A code's value (R111). -/
def Ieee.decode (f : Ieee) (c : Nat) : ExactNum :=
  let neg := decide (f.signBit ≤ c % (2 * f.signBit))
  let mag := c % f.signBit
  if f.maxFinite < mag then (if f.hasInf && mag == f.maxFinite + 1 then .inf neg else .nan)
  else
    let x := mag / 2 ^ f.frac
    let m := mag % 2 ^ f.frac
    if x = 0 then .fin neg m f.qmin false else .fin neg (m + 2 ^ f.frac) (f.qmin + (x - 1 : Nat)) false

/-- Whether a rounding goes away from zero: remainder `rem` against `half`, with a sticky part below (R116). -/
def roundsUp (rm : RMode) (neg : Bool) (odd : Bool) (rem half : Nat) (sticky : Bool) : Bool :=
  let inexact := rem != 0 || sticky
  match rm.toNat with
  | 0 => half < rem || (rem == half && half != 0 && (sticky || odd))
  | 1 => false
  | 2 => neg && inexact
  | _ => !neg && inexact

/-- m × 2^e rounded to a multiple of 2^q, as the multiple and whether the rounding was exact. -/
def roundAt (rm : RMode) (neg : Bool) (m : Nat) (e : Int) (sticky : Bool) (q : Int) : Nat × Bool :=
  if q ≤ e then (m * 2 ^ (e - q).toNat, !sticky)
  else
    let k := (q - e).toNat
    let d := m / 2 ^ k
    let rem := m % 2 ^ k
    (if roundsUp rm neg (d % 2 == 1) rem (2 ^ (k - 1)) sticky then d + 1 else d, rem == 0 && !sticky)

/-- An overflow's code (Table 5-4). -/
def Ieee.overflow (f : Ieee) (rm : RMode) (sat neg : Bool) : Nat :=
  let s := if neg then f.signBit else 0
  if sat then s + f.maxFinite
  else if !f.hasInf then f.nan
  else
    let toInf : Bool := match rm.toNat with
      | 0 => true
      | 1 => false
      | 2 => neg
      | _ => !neg
    s + f.maxFinite + (if toInf then 1 else 0)

/-- A value rounded once to a format and checked against its range (R116, R117). -/
def Ieee.round (f : Ieee) (rm : RMode) (sat : Bool) : ExactNum → Nat × Flags
  | .nan => (f.nan, 0)
  | .inf neg =>
    let s := if neg then f.signBit else 0
    if sat then (s + f.maxFinite, 0)
    else if f.hasInf then (s + f.maxFinite + 1, 0)
    else (f.nan, fNV)
  | .fin neg m e sticky =>
    let s := if neg then f.signBit else 0
    if m = 0 && !sticky then (s, 0)
    else
      let top : Int := if m = 0 then f.qmin - 2 else e + Nat.log2 m
      let emin : Int := 1 - (f.bias : Int)
      let q := max (top - f.frac) f.qmin
      let r := roundAt rm neg m e sticky q
      let r1 := roundAt rm neg m e sticky (top - f.frac)
      let tiny : Bool := decide (top < emin) && !(decide (top = emin - 1) && r1.1 == 2 ^ (f.frac + 1))
      let big := r.1 == 2 ^ (f.frac + 1)
      let n := if big then 2 ^ f.frac else r.1
      let place := if big then q + 1 else q
      let code := if n < 2 ^ f.frac then n else ((place - f.qmin).toNat + 1) * 2 ^ f.frac + (n - 2 ^ f.frac)
      if f.maxFinite < code then (f.overflow rm sat neg, fOF ||| fNX)
      else (s + code, if r.2 then 0 else if tiny then fUF ||| fNX else fNX)

/-- A tapered code's value (R113): `n` is 6 or 8. -/
def decodeTapered (n c : Nat) : ExactNum :=
  let c := c % 2 ^ n
  if c = 0 then .zero false
  else if c = 2 ^ (n - 1) then .nan
  else
    let neg := decide (2 ^ (n - 1) < c)
    let b := if neg then 2 ^ n - c else c
    let r := b / 2 ^ (n - 2)
    let flipped := if r = 1 then 2 ^ (n - 1) - 1 - b else b
    let m := if flipped = 0 then n - 1 else n - 2 - Nat.log2 flipped
    let k : Int := if r = 1 then (m : Int) - 1 else -(m : Int)
    let rest := n - 2 - m
    if rest = 0 then .fin neg 1 (2 * k) false
    else
      let ex := b / 2 ^ (rest - 1) % 2
      let fb := rest - 1
      .fin neg (2 ^ fb + b % 2 ^ fb) (2 * k + ex - fb) false

/-- Whether m × 2^e is at most m' × 2^e'. -/
def magLe (m : Nat) (e : Int) (m' : Nat) (e' : Int) : Bool :=
  let lo := min e e'
  m * 2 ^ (e - lo).toNat ≤ m' * 2 ^ (e' - lo).toNat

/-- Whether m × 2^e equals m' × 2^e'. -/
def magEq (m : Nat) (e : Int) (m' : Nat) (e' : Int) : Bool := magLe m e m' e' && magLe m' e' m e

/-- Magnitude and exponent of a positive tapered code. -/
def taperedMag (n c : Nat) : Nat × Int :=
  match decodeTapered n c with
  | .fin _ m e _ => (m, e)
  | _ => (0, 0)

/-- A value rounded to a tapered format (R118). -/
def roundTapered (n : Nat) (rm : RMode) : ExactNum → Nat × Flags
  | .nan => (2 ^ (n - 1), fNV)
  | .inf _ => (2 ^ (n - 1), fNV)
  | .fin neg m e sticky =>
    if m = 0 && !sticky then (0, 0)
    else
      let signed (c : Nat) : Nat := if neg then 2 ^ n - c else c
      let top := 2 ^ (n - 1) - 1
      let below := ((upto (top + 1)).filter fun c => c != 0 && magLe (taperedMag n c).1 (taperedMag n c).2 m e).length
      if below = 0 then (signed 1, fUF ||| fNX)
      else if magEq (taperedMag n below).1 (taperedMag n below).2 m e && !sticky then (signed below, 0)
      else if below = top then (signed top, fOF ||| fNX)
      else
        let lo := taperedMag n below
        let hi := taperedMag n (below + 1)
        let base := min (min lo.2 hi.2) e
        let at_ (v : Nat × Int) : Nat := v.1 * 2 ^ (v.2 - base).toNat
        let twice := 2 * at_ (m, e)
        let mid := at_ lo + at_ hi
        let up : Bool := match rm.toNat with
          | 0 => mid < twice || (mid == twice && (sticky || below % 2 == 1))
          | 1 => false
          | 2 => neg
          | _ => !neg
        (signed (if up then below + 1 else below), fNX)

/-- Width and signedness of an integer format (R110); B1 is apart. -/
def intFormat (f : BitVec 4) : Nat × Bool :=
  match f.toNat with
  | 1 => (2, true)
  | 2 => (4, true)
  | 3 => (8, true)
  | 4 => (8, false)
  | 5 => (16, true)
  | _ => (32, true)

/-- The least and greatest values of an integer format. -/
def intRange (f : BitVec 4) : Int × Int :=
  let w := intFormat f
  if w.2 then (-(2 ^ (w.1 - 1)), 2 ^ (w.1 - 1) - 1) else (0, 2 ^ w.1 - 1)

/-- A value rounded to an integer under a mode, with whether that was exact. -/
def roundInt (rm : RMode) (neg : Bool) (m : Nat) (e : Int) (sticky : Bool) : Int × Bool :=
  let r := roundAt rm neg m e sticky 0
  (if neg then -(r.1 : Int) else r.1, r.2)

/-- A float value converted to an integer format (R119). -/
def floatToInt (f : BitVec 4) (rm : RMode) : ExactNum → Nat × Flags
  | .nan => (0, fNV)
  | .inf neg =>
    if f = 0 then (if neg then 1 else 0, fNV)
    else ((if neg then (intRange f).1 else (intRange f).2) % 2 ^ (intFormat f).1 |>.toNat, fNV)
  | .fin neg m e sticky =>
    if f = 0 then
      let below := neg && (m != 0 || sticky)
      (if below then 1 else 0, if magEq m e 1 0 && !sticky then 0 else fNX)
    else
      let r := roundInt rm neg m e sticky
      let lo := (intRange f).1
      let hi := (intRange f).2
      let w := (intFormat f).1
      if r.1 < lo then ((lo % 2 ^ w).toNat, fNV)
      else if hi < r.1 then ((hi % 2 ^ w).toNat, fNV)
      else ((r.1 % 2 ^ w).toNat, if r.2 then 0 else fNX)

/-- An integer converted to an integer format (R120). -/
def intToInt (f : BitVec 4) (sat : Bool) (v : Int) : Nat :=
  if f = 0 then (if v < 0 then 1 else 0)
  else
    let lo := (intRange f).1
    let hi := (intRange f).2
    let w := (intFormat f).1
    let x := if sat then (if v < lo then lo else if hi < v then hi else v) else v
    (x % 2 ^ w).toNat

/-- The IEEE-style format of a code. -/
def ieeeOf (f : BitVec 4) : Ieee :=
  match f.toNat with
  | 0xA => f8e4
  | 0xB => f8e5
  | 0xC => bf16
  | 0xD => fp16
  | _ => fp32

/-- The integer an element of an integer format holds (R110). -/
def decodeInt (f : BitVec 4) (c : Nat) : Int :=
  if f = 0 then (if c % 2 = 0 then 1 else -1)
  else
    let w := intFormat f
    let v := c % 2 ^ w.1
    if w.2 && 2 ^ (w.1 - 1) ≤ v then (v : Int) - 2 ^ w.1 else v

/-- The exact value of an element (R109 to R114): a T6 element's bits [7:6] are ignored. -/
def decodeFmt (f : BitVec 4) (c : Nat) : ExactNum :=
  if f = 8 then decodeTapered 6 c
  else if f = 9 then decodeTapered 8 c
  else if isFloat f then (ieeeOf f).decode c
  else .ofInt (decodeInt f c)

/-- An exact value rounded to a float format (R117, R118). -/
def roundFmt (f : BitVec 4) (rm : RMode) (sat : Bool) (x : ExactNum) : Nat × Flags :=
  if f = 8 then roundTapered 6 rm x
  else if f = 9 then roundTapered 8 rm x
  else (ieeeOf f).round rm sat x

/-- An element converted from format `f2` to format `f` (R117 to R120). -/
def convert (f f2 : BitVec 4) (rm : RMode) (sat : Bool) (c : Nat) : Nat × Flags :=
  if isFloat f then roundFmt f rm sat (decodeFmt f2 c)
  else if isFloat f2 then floatToInt f rm (decodeFmt f2 c)
  else (intToInt f sat (decodeInt f2 c), 0)

/-! ### Exact arithmetic -/

/-- A signed multiple of a power of two. -/
def ExactNum.signedAt (neg : Bool) (m : Nat) (e base : Int) : Int :=
  let v : Int := m * 2 ^ (e - base).toNat
  if neg then -v else v

/-- The exact sum, with the flags of an invalid operation; the sign of an exact zero follows IEEE 754 (R122). -/
def ExactNum.add (rm : RMode) (x y : ExactNum) : ExactNum × Flags :=
  match x, y with
  | .nan, _ => (.nan, 0)
  | _, .nan => (.nan, 0)
  | .inf a, .inf b => if a == b then (.inf a, 0) else (.nan, fNV)
  | .inf a, _ => (.inf a, 0)
  | _, .inf b => (.inf b, 0)
  | .fin a m e t, .fin b m' e' t' =>
    if m = 0 && m' = 0 then ((if a == b then .zero a else .zero (rm == 2)), 0)
    else
      let base := min e e'
      let v := ExactNum.signedAt a m e base + ExactNum.signedAt b m' e' base
      if v = 0 then (.zero (rm == 2), 0) else (.fin (decide (v < 0)) v.natAbs base (t || t'), 0)

/-- The exact difference. -/
def ExactNum.sub (rm : RMode) (x y : ExactNum) : ExactNum × Flags := ExactNum.add rm x y.negate

/-- The exact product (R122): 0 × ∞ is invalid. -/
def ExactNum.mul (x y : ExactNum) : ExactNum × Flags :=
  match x, y with
  | .nan, _ => (.nan, 0)
  | _, .nan => (.nan, 0)
  | .inf a, .inf b => (.inf (a != b), 0)
  | .inf a, .fin b m _ _ => if m = 0 then (.nan, fNV) else (.inf (a != b), 0)
  | .fin a m _ _, .inf b => if m = 0 then (.nan, fNV) else (.inf (a != b), 0)
  | .fin a m e _, .fin b m' e' _ => (.fin (a != b) (m * m') (e + e') false, 0)

/-- The exact a × b + c; 0 × ∞ is invalid even when c is NaN (R257). -/
def ExactNum.fma (rm : RMode) (x y z : ExactNum) : ExactNum × Flags :=
  let p := x.mul y
  let r := p.1.add rm z
  (r.1, p.2 ||| r.2)

/-- The quotient to 64 bits and more below those any format keeps, with its remainder sticky (R122). -/
def ExactNum.div (x y : ExactNum) : ExactNum × Flags :=
  match x, y with
  | .nan, _ => (.nan, 0)
  | _, .nan => (.nan, 0)
  | .inf _, .inf _ => (.nan, fNV)
  | .inf a, .fin b _ _ _ => (.inf (a != b), 0)
  | .fin a _ _ _, .inf b => (.zero (a != b), 0)
  | .fin a m e _, .fin b m' e' _ =>
    if m' = 0 then (if m = 0 then (.nan, fNV) else (.inf (a != b), fDZ))
    else if m = 0 then (.zero (a != b), 0)
    else
      let k := 64 + Nat.log2 m'
      let n := m * 2 ^ k
      (.fin (a != b) (n / m') (e - e' - k) (n % m' != 0), 0)

/-- Newton's iteration for the integer square root, downward from above. -/
def isqrtFrom : Nat → Nat → Nat → Nat
  | 0, _, x => x
  | fuel + 1, n, x =>
    let y := (x + n / x) / 2
    if y < x then isqrtFrom fuel n y else x

/-- The integer square root, rounded down. -/
def isqrt (n : Nat) : Nat := if n = 0 then 0 else isqrtFrom (Nat.log2 n + 8) n (2 ^ (Nat.log2 n / 2 + 1))

/-- The square root (Table 10-2). -/
def ExactNum.sqrt : ExactNum → ExactNum × Flags
  | .nan => (.nan, 0)
  | .inf neg => if neg then (.nan, fNV) else (.inf false, 0)
  | .fin neg m e _ =>
    if m = 0 then (.zero neg, 0)
    else if neg then (.nan, fNV)
    else
      let odd := e % 2 != 0
      let n := (if odd then 2 * m else m) * 2 ^ 128
      let h := (if odd then e - 1 else e) / 2 - 64
      let r := isqrt n
      (.fin false r h (r * r != n), 0)

/-- The reciprocal (Table 5-6). -/
def ExactNum.rcp (x : ExactNum) : ExactNum × Flags := (ExactNum.ofInt 1).div x

/-- The reciprocal square root (Table 5-6). -/
def ExactNum.rsqrt : ExactNum → ExactNum × Flags
  | .nan => (.nan, 0)
  | .inf neg => if neg then (.nan, fNV) else (.zero false, 0)
  | .fin neg m e _ =>
    if m = 0 then (.inf neg, fDZ)
    else if neg then (.nan, fNV)
    else
      let odd := e % 2 != 0
      let n := if odd then 2 * m else m
      let h := (if odd then e - 1 else e) / 2
      let k : Nat := 128
      let r := isqrt (2 ^ (2 * k) / n)
      (.fin false r (-h - k) (r * r * n != 2 ^ (2 * k)), 0)

/-- 2^(i / 2^n) in fixed point of 192 bits for the low n bits of i, the highest first: `root` is 2^(2^-k) so far. -/
def exp2Frac : Nat → Nat → Nat → Nat → Nat
  | 0, _, _, acc => acc
  | n + 1, i, root, acc =>
    let r := isqrt (root * 2 ^ 192)
    exp2Frac n i r (if Nat.testBit i n then acc * r / 2 ^ 192 else acc)

/-- The base-2 exponential (Table 5-6): beside integers the value is irrational and its expansion is cut with a sticky
remainder (assumption log 16). -/
def ExactNum.exp2 : ExactNum → ExactNum × Flags
  | .nan => (.nan, 0)
  | .inf neg => (if neg then .zero false else .inf false, 0)
  | .fin neg m e _ =>
    if m = 0 then (.ofInt 1, 0)
    else if magLe (2 ^ 10) 0 m e then (if neg then .fin false 0 (-1000) true else .fin false 1 1000 false, 0)
    else if magLe m e 1 (-40) && !magEq m e 1 (-40) then (if neg then .fin false (2 ^ 60 - 1) (-60) true else .fin false (2 ^ 60) (-60) true, 0)
    else
      let n := if e < 0 then (-e).toNat else 0
      let v := ExactNum.signedAt neg m e (-(n : Int))
      let i := v / 2 ^ n
      let f := (v % 2 ^ n).toNat
      if f = 0 then (.fin false 1 i false, 0)
      else (.fin false (exp2Frac n f (2 ^ 193) (2 ^ 192)) (i - 192) true, 0)

/-- The first n bits of log2(y / 2^512), y from 2^512 up to twice that, by repeated squaring. -/
def log2Frac : Nat → Nat → Nat → Nat
  | 0, _, acc => acc
  | n + 1, y, acc =>
    let z := y * y / 2 ^ 512
    if 2 ^ 513 ≤ z then log2Frac n (z / 2) (2 * acc + 1) else log2Frac n z (2 * acc)

/-- The base-2 logarithm (Table 5-6), cut in the same way (assumption log 16). -/
def ExactNum.log2 : ExactNum → ExactNum × Flags
  | .nan => (.nan, 0)
  | .inf neg => if neg then (.nan, fNV) else (.inf false, 0)
  | .fin neg m e _ =>
    if m = 0 then (.inf true, fDZ)
    else if neg then (.nan, fNV)
    else
      let k := Nat.log2 m
      let top : Int := e + k
      if m = 2 ^ k then (.ofInt top, 0)
      else
        let v : Int := top * 2 ^ 160 + log2Frac 160 (m * 2 ^ 512 / 2 ^ k) 0
        if v < 0 then (.fin true (-v - 1).toNat (-160) true, 0) else (.fin false v.toNat (-160) true, 0)

/-! ### Rounded operations on codes -/

/-- A rounded result with the flags of its operation. SAT applies to an overflow: an infinite result of infinite operands
is exact and stays infinite (R258, assumption log 18). -/
def finishNum (f : Ieee) (rm : RMode) (sat : Bool) (r : ExactNum × Flags) : Nat × Flags :=
  let x := f.round rm (sat && !r.1.isInf) r.1
  (x.1, x.2 ||| r.2)

/-- round_fp32. -/
def roundFp32 (rm : RMode) (r : ExactNum × Flags) : Nat × Flags := finishNum fp32 rm false r

/-- Whether a code is NaN. -/
def Ieee.isNan (f : Ieee) (c : Nat) : Bool := (f.decode c).isNan

/-- A key in the order of the values, −0 and +0 alike: for codes that are not NaN. -/
def Ieee.key (f : Ieee) (c : Nat) : Int :=
  let mag : Int := (c % f.signBit : Nat)
  if f.signBit ≤ c then -mag else mag

/-- A key with −0 below +0. -/
def Ieee.strictKey (f : Ieee) (c : Nat) : Int :=
  let mag : Int := (c % f.signBit : Nat)
  if f.signBit ≤ c then -mag - 1 else mag

/-- VFMIN (Table 10-2). -/
def Ieee.min (f : Ieee) (a b : Nat) : Nat :=
  if f.isNan a || f.isNan b then f.nan else if f.strictKey a ≤ f.strictKey b then a else b
/-- VFMAX (Table 10-2). -/
def Ieee.max (f : Ieee) (a b : Nat) : Nat :=
  if f.isNan a || f.isNan b then f.nan else if f.strictKey a ≤ f.strictKey b then b else a

end Sys2Proof.Machine
end

