-- ==== Sys2Proof/Machine/Cards.lean ====
section
/-!
DEFINITION. Job cards (11 R280 to R282): their fields and bytes, the checks of Table 11-2 on their regions and endpoints,
the dependences of R95 and R96, tickets and the retired prefix (R277), and the one way every job issues (R278).
-/
namespace Sys2Proof.Machine

/-! ### Fields -/

/-- A parameter of a card by its field number (Table 11-3). -/
def Card.field (c : Card) (n : Nat) : Word := lookupD 0 c.params n

/-- A parameter as an unsigned number. -/
def Card.nat (c : Card) (n : Nat) : Nat := (c.field n).toNat

/-- A signed 32-bit parameter. -/
def Card.int (c : Card) (n : Nat) : Int := ((c.field n).setWidth 32).toInt

/-- KIND of Table 11-4: whether the multiply unit takes the card (R151). -/
def Card.isMul (c : Card) : Bool := c.kind.toNat ≤ 3

/-- The field numbers each kind stores (Table 11-3, R280). -/
def kindFields (kind : Nat) : List Nat :=
  if kind ≤ 2 then
    (upto 10) ++ (upto 6).map (0x10 + ·) ++ (upto 6).map (0x20 + ·) ++ (upto 6).map (0x30 + ·) ++ (upto 6).map (0x40 + ·) ++
      (upto 6).map (0x50 + ·) ++ (upto 12).map (0x60 + ·)
  else match kind with
    | 3 => (upto 5).map (0xB0 + ·)
    | 5 => (upto 14).map (0xA0 + ·)
    | 8 => (upto 13).map (0x80 + ·)
    | _ => []

/-- The shadow fields of a kind as they stand (R278, R279). -/
def Strand.snapshotFields (k : Strand) (kind : Nat) : List (Nat × Word) :=
  (kindFields kind).map fun n => (n, vget k.jobs.table n 0)

/-- No region. -/
def Region.none : Region := { base := 0, len := 0 }

/-- A region; a length beyond 32 bits is stored as the greatest a card can hold (assumption log 17). -/
def Region.of (base : Word) (n : Nat) : Region := { base := base, len := BitVec.ofNat 32 (min n (2 ^ 32 - 1)) }

/-- A card of a kind with the current shadow fields and cfg.nbv, and nothing else. -/
def State.newCard (s : State) (kind : Nat) (fa fb : BitVec 4) (im ui : BitVec 1) : Card :=
  { kind := BitVec.ofNat 4 kind, fa := fa, fb := fb, im := im, ui := ui, nbv := s.cur.nbv, nest := Vector.replicate 6 0
    started := false, ord := 0, regions := Vector.replicate 6 Region.none, params := s.cur.snapshotFields kind
    operand := 0, row := 0, col := 0, phase := .queued, flags := 0, arrived := false, overrun := false, leaseV := 0, leaseP := 0
    stamp := s.cur.jobs.issuedTl + s.cur.jobs.issuedCp, target := none, hold := 0, claims := [] }

/-- A region of a card set. -/
def Card.setRegion (c : Card) (i : Nat) (r : Region) : Card := { c with regions := c.regions.setIfInBounds i r }

/-- An address of the LS space (Table 4-1). -/
def lsAddr (off : Nat) : Word := BitVec.ofNat 64 (2 ^ 56 + off)
/-- An address of the GR space. -/
def grAddr (off : Nat) : Word := BitVec.ofNat 64 (2 * 2 ^ 56 + off)

/-- A card as its 1,024 bytes (Table 11-4). -/
def Card.bytes (c : Card) : List Byte :=
  let w0 : Word := (c.kind.setWidth 64) ||| (c.fa.setWidth 64 <<< 4) ||| (c.fb.setWidth 64 <<< 8) |||
    (c.im.setWidth 64 <<< 12) ||| (c.ui.setWidth 64 <<< 13) ||| (c.nbv.setWidth 64 <<< 16)
  let n (i : Nat) : Word := (vget c.nest i 0).setWidth 64
  let nest0 := n 0 ||| (n 1 <<< 16) ||| (n 2 <<< 32) ||| (n 3 <<< 48)
  let nest1 := n 4 ||| (n 5 <<< 16) ||| ((BitVec.ofBool c.started).setWidth 64 <<< 32)
  let regions := c.regions.toList.flatMap fun r => bytes8 r.base ++ bytes8 (r.len.setWidth 64)
  let params :=
    if c.kind = 4 then bytes8 c.operand ++ List.replicate (0x200 - 0x88) 0 ++ natLe 256 c.row.toNat ++ natLe 256 c.col.toNat
    else
      let ps := if c.kind = 6 then bytes8 c.operand else c.params.flatMap fun p => bytes8 p.2
      ps ++ List.replicate (0x380 - ps.length) 0
  bytes8 w0 ++ bytes8 nest0 ++ bytes8 nest1 ++ bytes8 (BitVec.ofNat 64 c.ord) ++ regions ++ params

/-! ### Checks -/

/-- A range of bytes a job reads or writes, as its issue checks it; `bar` marks a barrier object (R147). -/
structure JobRange where
  ea : Word
  n : Nat
  write : Bool
  bar : Bool := false
  deriving DecidableEq, Repr

/-- The object of an on-chip place. -/
def Loc.obj : Loc → Option Nat
  | .own o _ => some o
  | .peer _ _ _ o _ => some o
  | .phys key => if key % 2 ^ 52 / 2 ^ 40 == 0xFFF then some (key / 2 ^ 24 % 16) else none

/-- What the bytes from `start` of a range name for a job: a physical on-chip address under a grant names the target
strand wherever it is (R149). -/
def State.jobLocate (s : State) (target : Option (Nat × Nat × Nat)) (ea : Word) (start n : Nat) : Found :=
  match target with
  | none => s.locate ea start n
  | some (d, t, x) =>
    let pa := ea.toNat % 2 ^ 56 + start
    if ea.toNat / 2 ^ 56 != 4 then s.locate ea start n
    else match chipMiss pa n with
      | some k => .miss k
      | none =>
        let obj := pa / 2 ^ 24 % 16
        let off := pa % 2 ^ 24
        let own := s.cur.named d t x
        let loc := if own then Loc.own obj off else .peer d t x obj off
        let core := if own then s.cur.id.coreNum.toNat else match s.findPeer d t x with
          | some k => k.id.coreNum.toNat
          | none => 64 * d
        .hit (objHit loc (s.dev.chipKey core obj off) obj (s.dev.peerOf d) (s.dev.peerOf d != s.myPeer) true)

/-- The parts of a range for a job. -/
def State.jobParts (s : State) (target : Option (Nat × Nat × Nat)) (ea : Word) : List (Nat × Nat) → Chk
  | [] => .ok []
  | (a, n) :: rest =>
    match s.jobLocate target ea a n with
    | .miss k => .fault 0x04 (ea + BitVec.ofNat 64 (a + k))
    | .wait => .wait
    | .hit h =>
      if !(s.pathPoison ea a false ++ (if h.cls.isSome then s.pathPoison ea a true else [])).isEmpty then
        .fault 0x10 (ea + BitVec.ofNat 64 a) else
      match s.jobParts target ea rest with
      | .ok ps => .ok ({ start := a, len := n, hit := h } :: ps)
      | e => e

/-- Check 3 of Table 11-2 on the address alone: OM physical space without a grant, which no barrier object has, and the system-only objects, in user
mode (R79, R80, R333). -/
def State.jobPriv (s : State) (grant : Bool) (r : JobRange) : Bool :=
  let space := r.ea.toNat / 2 ^ 56
  let obj := r.ea.toNat / 2 ^ 24 % 16
  !s.cur.id.sys && ((space == 4 && (!grant || r.bar)) || ((space == 3 || space == 4) && (obj == 5 || obj == 6)))

/-- Check 6 of Table 11-2 on one part: page rights (R82, R105), the queue object (R335) and k0 to k15, which only KLD and a
restore write (R333); a barrier object is checked as a granary atomic (R147). -/
def State.jobDenied (s : State) (write bar : Bool) (h : Hit) : Bool :=
  let user := !s.cur.id.sys
  if bar then s.denied .atomic h
  else (user && !h.u) || (if write then !h.w else !h.r || (user && h.irr)) || (h.queueObj && write && !s.queueOpen h.loc) ||
    (write && h.loc.obj == some 5)

/-- Check 3 of Table 11-2 on one range: the first part that a user job reaches in a system-only object through a page
(R79, R80, R333). -/
def State.jobSystem (s : State) (r : JobRange) : Option Word :=
  if s.cur.id.sys || r.ea.toNat / 2 ^ 56 != 0 then none
  else (splits r.ea r.n).findSome? fun p => match s.locate r.ea p.1 p.2 with
    | .hit h => if h.loc.obj == some 5 || h.loc.obj == some 6 then some (r.ea + BitVec.ofNat 64 p.1) else none
    | _ => none

/-- The outcome of the checks of a list of ranges. -/
inductive JobChk where
  | ok (ps : List (JobRange × List Piece))
  | fault (cause : BitVec 8) (faddr : Word)
  | wait
  deriving DecidableEq, Repr

/-- Check 5: every range translated, or the first failure. -/
def State.jobTranslate (s : State) (target : Option (Nat × Nat × Nat)) : List JobRange → JobChk
  | [] => .ok []
  | r :: rest =>
    match s.jobParts (if r.bar then none else target) r.ea (splits r.ea r.n) with
    | .fault c a => .fault c a
    | .wait => .wait
    | .ok ps => match s.jobTranslate target rest with
      | .ok qs => .ok ((r, ps) :: qs)
      | e => e

/-- Checks 3 to 6 of Table 11-2 on a list of ranges, each over all of them before the next; `align` is what check 4
found. -/
def State.jobCheck (s : State) (grant : Bool) (target : Option (Nat × Nat × Nat)) (align : Option Word)
    (rs : List JobRange) : JobChk :=
  if let some a := rs.findSome? fun r => if s.jobPriv grant r then some r.ea else s.jobSystem r then .fault 0x02 a
  else if let some a := align then .fault 0x03 a
  else match s.jobTranslate target rs with
    | .ok ps => match ps.findSome? fun p => firstPart (s.jobDenied p.1.write p.1.bar) p.1.ea p.2 with
      | some a => .fault 0x05 a
      | none => .ok ps
    | e => e

/-- DETAIL of a fault at job issue (Table 15-10). -/
def State.jobRaise (s : State) (cause : BitVec 8) (faddr : Word) : State :=
  s.raiseAt cause (if cause == 0x04 || cause == 0x05 then 3 else 0) faddr 0

/-- Check 8: every uncommitted unit of the written ranges committed, or the first fault (R102, R103). -/
def State.commitJob (s : State) : List (JobRange × List Piece) → Commit
  | [] => .done s
  | p :: rest =>
    if p.1.write then
      match s.commitAll p.1.ea 3 p.2 with
      | .done t => t.commitJob rest
      | e => e
    else s.commitJob rest

/-- Whether a speculative run may not go where a job would (R106, R212). -/
def State.jobBarred (s : State) (ps : List (JobRange × List Piece)) : Bool :=
  s.cur.spec.isSome && ps.any fun p => p.2.any fun q => q.hit.barred p.1.ea

/-! ### Issue -/

/-- The largest n for which every job of tl with an ordinal up to n has retired (R277). -/
def JobState.prefixTl (j : JobState) : Nat := j.thq.foldl (fun n c => min n (c.ord - 1)) j.issuedTl

/-- A card enters its queue, takes its ordinal and writes its ticket (R277, R278). -/
def State.enterCard (s : State) (copy : Bool) (d : Reg) (c : Card) : State :=
  let j := s.cur.jobs
  let ord := (if copy then j.issuedCp else j.issuedTl) + 1
  let card := { c with ord := ord }
  let j' := if copy then { j with cpq := j.cpq ++ [card], issuedCp := ord } else { j with thq := j.thq ++ [card], issuedTl := ord }
  ((s.setCur { s.cur with jobs := j' }).wr d (BitVec.ofNat 64 ord)).complete 4

/-- A job issue (R278): it waits for a slot, then `k` makes the checks and enters the card. The counters of R70 are the
lengths of the queues, which their depths keep far below 65,535. -/
def State.jobIssue (s : State) (copy : Bool) (k : State → State) : Res :=
  let full := if copy then 16 ≤ s.cur.jobs.cpq.length else 8 ≤ s.cur.jobs.thq.length
  s.only .c (.next (if full then s.stallOn 1 else k s))

/-- The checks of a thresher job's ranges, the overlap check 7 found, then the commit and the card. -/
def State.issueTl (s : State) (d : Reg) (c : Card) (align : Option Word) (rs : List JobRange) (overlap : Option Word) : State :=
  match s.jobCheck false none align rs with
  | .fault cause a => s.jobRaise cause a
  | .wait => s.idle
  | .ok ps =>
    match overlap with
    | some a => s.jobRaise 0x0E a
    | none =>
      if s.jobBarred ps then s.unlessSpec s
      else match s.commitJob ps with
        | .fault cause dt a x => s.raise cause dt a x
        | .full => s.idle
        | .done t => t.enterCard false d c

/-! ### Dependences -/

/-- Two regions overlap (R281). -/
def Region.meets (a b : Region) : Bool := a.hits b.base b.len.toNat

/-- The barrier region of a copy card, none for other kinds (R292). -/
def Card.barrier (c : Card) : Option Region := if c.kind = 8 then c.regions.toList[5]? else none

/-- Whether two copies name one barrier object: their arrivals on it may come in either order (R323, Table 13-7; assumption log
72). -/
def Card.oneBarrier (a b : Card) : Bool := a.barrier.isSome && a.barrier == b.barrier

/-- Two cards conflict (R96): an overlap of their regions, one of them written, but for the barrier regions of two copies that
arrive on one object. -/
def Card.conflicts (a b : Card) : Bool :=
  let nth (c : Card) (i : Nat) : Region := vget c.regions i Region.none
  let pair (i j : Nat) : Bool := !(i == 5 && j == 5 && a.oneBarrier b) && (nth a i).meets (nth b j)
  (upto 6).any fun i => (upto 6).any fun j => (4 ≤ i || 4 ≤ j) && pair i j

/-- Whether a region holds a range whole (R282); one whose length its 32 bits could not store has no end (assumption log
17). -/
def Region.holds (r : Region) (a : Word) (n : Nat) : Bool :=
  r.len != 0 && r.base.toNat ≤ a.toNat && (r.len == -1 || a.toNat + n ≤ r.base.toNat + r.len.toNat)

/-- Whether a card lets its job read or write a range (R98, R282). -/
def Card.covers (c : Card) (write : Bool) (a : Word) (n : Nat) : Bool :=
  (if write then c.writes else c.reads ++ c.writes).any fun r => r.holds a n

/-- Whether an access of `n` bytes at an address overlaps a card's footprint (R95). -/
def Card.touched (c : Card) (a : Word) (n : Nat) : Bool := c.regions.toList.any fun r => r.hits a n

/-- The address of a part of a request of one instruction: FADDR is that of its first part. -/
def Request.partAddr (r : Request) (p : ReqPart) : Word :=
  r.faddr + BitVec.ofNat 64 p.start - BitVec.ofNat 64 ((r.parts.head?.map (·.start)).getD 0)

/-- Whether a card waits for an access-stream access earlier than it that overlaps its footprint (R95): an element of an
earlier queue stream, or a remote access not yet performed. What the stream itself still waits for, a barrier or ring
operation among it, is performed when its reply is used. -/
def State.cardWaits (s : State) (copy : Bool) (c : Card) : Bool :=
  (s.cur.qstreams.any fun q => (if copy then q.cp else q.tl) < c.ord &&
    q.pending.any fun e => c.touched (q.addr e.1 e.2) q.width) ||
  s.myDie.requests.any fun r => r.core == s.cur.id.coreNum.toNat % 64 && r.stag == s.cur.id.stag && r.six == s.cur.id.six &&
    !r.job && (!r.performed || s.cur.acc.reply == some r.tag) && !(s.cur.qstreams.any fun q => q.replies.contains r.tag) &&
    r.parts.any fun p => c.touched (r.partAddr p) p.len

/-- Whether every earlier conflicting job has retired (R96). -/
def Strand.clear (k : Strand) (c : Card) : Bool := k.cards.all fun e => !(e.stamp < c.stamp && e.conflicts c)

end Sys2Proof.Machine
end

