-- ==== Sys2Proof/Machine/Issue.lean ====
section
/-!
DEFINITION. The instructions that issue jobs and wait for them (11 R276 to R293): NSET, the MMA forms, PLANE, SACC, KLD,
DRAIN, GCLR, COPYJ and JOBW.
-/
namespace Sys2Proof.Machine

/-- The first of a list of illegal conditions raises 0x01 (check 2 of Table 11-2), else `k`. -/
def State.illegalIf (s : State) (bad : Bool) (k : State) : State := if bad then s.raiseIllegal else k

/-! ### NSET -/

/-- The source of NSET (R279). -/
def State.nsetValue (s : State) : NSrc → Word
  | .reg a => s.rd a
  | .lit l => l.signExtend 64

/-- R279: NSET writes one shadow field; bits above its width are ignored. -/
def execNset (f : BitVec 8) (v : NSrc) (s : State) : Res :=
  let len := match v with
    | .reg _ => 4
    | .lit _ => 8
  let x : Word := BitVec.ofNat 64 ((s.nsetValue v).toNat % 2 ^ fieldWidth f)
  s.only .c (.next ((s.setCur { s.cur with jobs := { s.cur.jobs with table := s.cur.jobs.table.set f.toNat x f.isLt } }).complete len))

/-! ### MMA -/

/-- The limits of Table 6-2 and R285 on a nest: `gather` for MMAG and MMAGS, `scatter` for MMAGS. -/
def Card.nestBad (c : Card) (gather scatter : Bool) : Bool :=
  let out := c.nat 8
  c.nat 0 % 128 != 0 || c.nat 1 % 128 != 0 || c.nat 2 % 4 != 0 || out == 3 || (scatter && out == 0) ||
    (gather && (c.nat 6 % 128 != 0 || c.nat 6 < 128 || 32768 < c.nat 6 || c.nat 3 % 2 != 0)) ||
    (scatter && c.nat 4 % 2 != 0) ||
    (out != 0 && (c.nat 7 % 256 != 0 || c.nat 7 < 256 || 32768 < c.nat 7))

/-- The limits of Table 11-3 on a declared region: an address of R76 and a length inside its space. -/
def regionBad (base : Word) (len : Nat) : Bool :=
  let off := base.toNat % 2 ^ 56
  let size := match base.toNat / 2 ^ 56 with
    | 0 => 2 ^ 56
    | 1 => 2 ^ 21
    | 2 => 2 ^ 19
    | 3 => 2 ^ 31
    | 4 => 2 ^ 52
    | _ => 0
  len != 0 && size < off + len

/-- The declared regions of a nest (R281): (slot, base, length). -/
def Card.declared (c : Card) : List (Nat × Word × Nat) :=
  ((upto 4).map fun i => (i, c.field (0x60 + i), c.nat (0x64 + i))) ++
    (upto 2).map fun i => (4 + i, c.field (0x68 + i), c.nat (0x6A + i))

/-- R284, R285: the issue of a nest of kind 0, 1 or 2. The base of a region slot of length 0 is held to nothing (DESIGN
CHOICE, unsafe, assumption log 101). -/
def State.mmaIssue (s : State) (kind : Nat) (u m : BitVec 1) (f g : BitVec 4) (d : Reg) : Res :=
  s.jobIssue false fun s =>
    let c := s.newCard kind f g m u
    let used := c.declared.filter fun r => r.2.2 != 0
    let card := used.foldl (fun (c : Card) r => c.setRegion r.1 (Region.of r.2.1 r.2.2)) c
    s.illegalIf (c.nestBad (kind != 0) (kind == 2) || used.any fun r => regionBad r.2.1 r.2.2)
      (s.issueTl d card none (used.map fun r => { ea := r.2.1, n := r.2.2, write := 4 ≤ r.1 }) none)

/-- R284: MMA. -/
def execMma (u m : BitVec 1) (f g : BitVec 4) (d : Reg) (s : State) : Res := s.mmaIssue 0 u m f g d
/-- R284: MMAG. -/
def execMmag (u m : BitVec 1) (f g : BitVec 4) (d : Reg) (s : State) : Res := s.mmaIssue 1 u m f g d
/-- R284: MMAGS. -/
def execMmags (u m : BitVec 1) (f g : BitVec 4) (d : Reg) (s : State) : Res := s.mmaIssue 2 u m f g d

/-! ### PLANE -/

/-- The serial width q of a format (Table 5-1). -/
def serialWidth (f : BitVec 4) : Nat :=
  match f.toNat with
  | 0 => 1
  | 1 => 2
  | 2 => 4
  | 3 | 4 => 8
  | 5 => 16
  | 8 => 3
  | 9 => 5
  | 10 => 4
  | 11 => 3
  | 12 => 8
  | _ => 11

/-- The group size GS at a plane pitch (R132). -/
def groupSize (f : BitVec 4) (pp : Nat) : Nat := (if isFloat f then serialWidth f + 16 else serialWidth f) * pp

/-- The element range of a PLANE, as (base, length) in LS (R283). -/
def Card.planeElems (c : Card) : Nat × Nat :=
  (c.nat 0xB0, (c.nat 0xB4 / 2 - 1) * c.nat 0xB1 + 2 * formatWidth c.fa * (c.nat 0xB3 + 1))

/-- The group range of a PLANE. -/
def Card.planeGroups (c : Card) : Nat × Nat := (c.nat 0xB2, (c.nat 0xB3 + 1) * groupSize c.fa (c.nat 0xB4))

/-- R283: PLANE. -/
def execPlane (u r : BitVec 1) (g : BitVec 4) (d : Reg) (s : State) : Res :=
  s.jobIssue false fun s =>
    let c := s.newCard 3 g (r.setWidth 4) 0 u
    let pp := c.nat 0xB4
    let e := c.planeElems
    let h := c.planeGroups
    let bad := c.nat 0xB1 < 2 * formatWidth g * (c.nat 0xB3 + 1) || c.nat 0xB2 % 128 != 0 || pp % 128 != 0 || pp < 128 || 32768 < pp
    let toElems := r == 1
    let card := (c.setRegion (if toElems then 4 else 0) (Region.of (lsAddr e.1) e.2)).setRegion (if toElems then 0 else 4)
      (Region.of (lsAddr h.1) h.2)
    let overlap := if e.1 < h.1 + h.2 && h.1 < e.1 + e.2 then some (lsAddr (max e.1 h.1)) else none
    s.illegalIf bad (s.issueTl d card none
      [{ ea := lsAddr e.1, n := e.2, write := toElems }, { ea := lsAddr h.1, n := h.2, write := !toElems }] overlap)

/-! ### SACC, GCLR, DRAIN -/

/-- ACC, PAIR and APITCH of an SACC operand (R288). -/
def saccAcc (w : Word) : Nat := w.toNat % 2 ^ 19
/-- PAIR. -/
def saccPair (w : Word) : Nat := w.toNat / 2 ^ 19 % 2
/-- APITCH. -/
def saccPitch (w : Word) : Nat := w.toNat / 2 ^ 32 % 2 ^ 16

/-- The granary offset of a partial buffer (R139). -/
def pbBase (n : Nat) : Nat := 0x70000 + n * 0x4000

/-- R288: SACC; the scale registers are read now (R58). -/
def execSacc (u m : BitVec 1) (f g : BitVec 4) (a d : Reg) (s : State) : Res :=
  s.jobIssue false fun s =>
    let w := s.rd a
    let acc := saccAcc w
    let pitch := saccPitch w
    let n := 63 * pitch + 256
    let pb := pbBase (2 * saccPair w)
    let c := { s.newCard 4 f g m u with operand := w, row := vget s.cur.k f.toNat 0, col := vget s.cur.k g.toNat 0 }
    let card := c.setRegion 4 (Region.of (grAddr acc) n)
    let overlap := if acc < pb + 0x8000 && pb < acc + n then some (grAddr (max acc pb)) else none
    s.illegalIf (pitch % 256 != 0 || pitch < 256 || 32768 < pitch)
      (s.issueTl d card (if acc % 4 != 0 then some (grAddr acc) else none) [{ ea := grAddr acc, n := n, write := true }] overlap)

/-- Offset and length of a GCLR operand (R291). -/
def gclrOff (w : Word) : Nat := w.toNat % 2 ^ 19
/-- The length. -/
def gclrLen (w : Word) : Nat := w.toNat / 2 ^ 32 % 2 ^ 20

/-- R291: GCLR. -/
def execGclr (u : BitVec 1) (a d : Reg) (s : State) : Res :=
  s.jobIssue false fun s =>
    let w := s.rd a
    let off := gclrOff w
    let n := gclrLen w
    let card := ({ s.newCard 6 0 0 0 u with operand := w }).setRegion 4 (Region.of (grAddr off) n)
    let bad := n == 0 || off % 4 != 0 || n % 4 != 0
    s.issueTl d card (if bad then some (grAddr off) else none) [{ ea := grAddr off, n := n, write := true }] none

/-- A bit of dctl (Table 11-6). -/
def Card.dctl (c : Card) (b : Nat) : Bool := (c.field 0xAD).getLsbD b

/-- The limits of Table 11-3 and R290 on a DRAIN. -/
def Card.drainBad (c : Card) : Bool :=
  let pitch := c.nat 0xA1
  let tile := c.dctl 6
  let res := c.dctl 7
  c.nat 0xA0 % 4 != 0 || pitch % 256 != 0 || pitch < 256 || 32768 < pitch || 0x7FFFF < c.nat 0xA0 + 63 * pitch + 255 ||
    (!res && c.fb != 0) ||
    (c.dctl 5 && (c.im == 0 || isFloat c.fa || res || c.dctl 4)) ||
    (tile && (!(c.fa == 14 || c.fa == 6) || 16 ≤ c.nat 0xA2 || c.nat 0xA3 != 0)) ||
    (!tile && c.nat 0xA3 < 8 * formatWidth c.fa) ||
    (res && c.nat 0xA5 < 8 * formatWidth c.fb)

/-- R289, R290: DRAIN. -/
def execDrain (u m : BitVec 1) (f g : BitVec 4) (d : Reg) (s : State) : Res :=
  s.jobIssue false fun s =>
    let c := s.newCard 5 f g m u
    let src : Word × Nat := (grAddr (c.nat 0xA0), 63 * c.nat 0xA1 + 256)
    let res : Word × Nat := (lsAddr (c.nat 0xA4), 63 * c.nat 0xA5 + 8 * formatWidth g)
    let dst : Word × Nat := (lsAddr (c.nat 0xA2), 63 * c.nat 0xA3 + 8 * formatWidth f)
    let all : List (Nat × (Word × Nat)) :=
      [(0, src)] ++ (if c.dctl 7 then [(1, res)] else []) ++ (if c.dctl 6 then [] else [(4, dst)]) ++
        (if c.dctl 3 then [(5, src)] else [])
    let card := all.foldl (fun (c : Card) r => c.setRegion r.1 (Region.of r.2.1 r.2.2)) c
    s.illegalIf c.drainBad
      (s.issueTl d card none (all.map fun r => { ea := r.2.1, n := r.2.2, write := 4 ≤ r.1 }) none)

/-! ### KLD -/

/-- R287: KLD: 64 elements of the strand's own LS or GR converted to FP32, exactly; poison among them is consumed (R299). -/
def State.kld (s : State) (g : BitVec 4) (a : Reg) (k : BitVec 4) : State :=
  let ea := s.rd a
  let w := formatWidth g / 8
  let space := ea.toNat / 2 ^ 56
  if space != 1 && space != 2 then s.raise 0x05 0 ea 0
  else match s.check .load w false ea (64 * w) with
    | .fault c x => s.raiseAt c 0 x 0
    | .wait => s.idle
    | .ok ps =>
      if s.cur.jobStall .load ea (64 * w) ||
          s.cur.qstreams.any fun q => q.store && q.pending.any fun e => overlaps (q.addr e.1 e.2) q.width ea (64 * w) then
        s.stallOn 6
      else if let p :: ls := s.poisonIn ps then
        s.poisoned (p :: ls) (s.faultRec 0x10 s.who.num false 0 s.me.iaddr (s.poisonAddr ea ps) (s.me.aux 0))
      else
        let bs := s.loadBytes ps
        let v := ofLanes fun i => BitVec.ofNat 32 (convert 14 g 0 false (leNat ((bs.drop (i * w)).take w))).1
        (s.setCur { s.cur with k := s.cur.k.set k.toNat v k.isLt }).complete 4

/-- R287: KLD. -/
def execKld (g : BitVec 4) (a : Reg) (k : BitVec 4) (s : State) : Res := s.only .c (.next (s.kld g a k))

/-! ### COPYJ -/

/-- The rows of a copy descriptor on one side, in the order of R146: base, then the strides of n1 and n2. -/
def Card.rows (c : Card) (base : Word) (s1 s2 : Int) : List Word :=
  (upto (c.nat 0x84)).flatMap fun (j : Nat) => (upto (c.nat 0x83)).map fun (i : Nat) =>
    base + BitVec.ofInt 64 ((j : Int) * s2 + (i : Int) * s1)

/-- The source rows. -/
def Card.srcRows (c : Card) : List Word := c.rows (c.field 0x80) (c.int 0x85) (c.int 0x86)
/-- The destination rows. -/
def Card.dstRows (c : Card) : List Word := c.rows (c.field 0x81) (c.int 0x87) (c.int 0x88)

/-- The smallest range that holds every row (R281). -/
def Card.bound (c : Card) (base : Word) (s1 s2 : Int) : Region :=
  let a : Int := ((c.nat 0x83 : Int) - 1) * s1
  let b : Int := ((c.nat 0x84 : Int) - 1) * s2
  let lo := min 0 a + min 0 b
  Region.of (base + BitVec.ofInt 64 lo) ((max 0 a + max 0 b - lo).toNat + c.nat 0x82)

/-- The limits of a copy descriptor (Tables 6-6 and 11-3). -/
def Card.copyBad (c : Card) : Bool :=
  let l := c.nat 0x82
  let n1 := c.nat 0x83
  let n2 := c.nat 0x84
  l == 0 || n1 == 0 || n2 == 0 || 65536 < l || 65536 < n1 || 65536 < n2 || 65536 < l * n1 * n2 || 4 < c.nat 0x8C

/-- The grant a handle names, when it is current, for this tent and this package (R149, R405), with its table's die. -/
def State.grantOf (s : State) (h : Word) : Option (Nat × Grant) :=
  let die := (h.extractLsb' 16 3).toNat
  if h.extractLsb' 15 1 != 0#1 || h.extractLsb' 27 37 != 0#37 || h.extractLsb' 19 8 != s.dev.pkg then none
  else
    ((s.dev.die die).grants.find? fun g =>
      g.idx == h.toNat % 4096 && g.live && g.gen == h.extractLsb' 12 3 && g.spec.tid == s.cur.id.tid.toNat).map fun g => (die, g)

/-- Whether a grant covers a row of a physical endpoint under a right (R149). -/
def Grant.covers (g : Grant) (right : Nat) (n : Nat) (ea : Word) : Bool :=
  g.spec.right.toNat == right && g.spec.obj.toNat == ea.toNat / 2 ^ 24 % 16 && g.spec.lo ≤ ea.toNat % 2 ^ 24 &&
    ea.toNat % 2 ^ 24 + n ≤ g.spec.hi

/-- The physical rows a grant does not cover, or none; rights are 0 read, 1 write, 2 add. -/
def grantMiss (g : Option (Nat × Grant)) (right n : Nat) (rows : List Word) : Option Word :=
  rows.find? fun ea => ea.toNat / 2 ^ 56 == 4 && !(match g with
    | some x => x.2.covers right n ea
    | none => false)

/-- The physical vector registers or predicates that the destination parts touch in the strand's own window (R59). -/
def leaseBits (obj size : Nat) (ps : List (JobRange × List Piece)) : List Nat :=
  ps.flatMap fun p => if p.1.write && p.1.ea.toNat / 2 ^ 56 == 3 then p.2.flatMap fun q => match q.hit.loc with
    | .own o off => if o == obj then (upto ((off + q.len - 1) / size - off / size + 1)).map (off / size + ·) else []
    | _ => [] else []

/-- The lines of the destination that lie on irrevocable pages, each once, in the order of the rows (R419). -/
def heldLines (ps : List (JobRange × List Piece)) : List Nat :=
  (ps.flatMap fun p => if p.1.write && !p.1.bar then p.2.flatMap fun q =>
    if q.hit.irr then linesOf q.hit.key q.len else [] else []).eraseDups

/-- The misalignment of check 4 of a copy (R147): an adding mode's granules, then the barrier object. -/
def Card.copyAlign (c : Card) : Option Word :=
  let m := c.nat 0x89
  if m != 0 && ((c.field 0x81).toNat % 4 != 0 || c.nat 0x82 % 4 != 0 || c.int 0x87 % 4 != 0 || c.int 0x88 % 4 != 0) then
    some (c.field 0x81)
  else if (c.field 0x8B).toNat % 16 != 0 then some (c.field 0x8B)
  else none

/-- The last permission checks of a copy: the grant, the granary an adding mode and a barrier need, and the egress
entries (R147, R149, R419). DESIGN CHOICE (assumption log 89): a system-mode copy without a handle needs no grant for a
physical on-chip endpoint. -/
def State.copyPerm (s : State) (c : Card) (g : Option (Nat × Grant)) (ps : List (JobRange × List Piece)) : Option Word :=
  let n := c.nat 0x82
  let mode := c.nat 0x89
  let need := c.field 0x8A != 0 || !s.cur.id.sys
  let off := if need then (grantMiss g 0 n c.srcRows).or (grantMiss g (if mode = 0 then 1 else 2) n c.dstRows) else none
  let notGran := ps.findSome? fun p =>
    if p.1.write && (mode != 0 || p.1.bar) then firstPart (fun h => !h.gran) p.1.ea p.2 else none
  off.or (notGran.or (if 4096 < (heldLines ps).length then some (c.field 0x81) else none))

/-- The entries of the egress hold buffer a copy reserves (R419); a buffer that reaches 75 % of its capacity requests a seal
(R413). -/
def State.reserveEgress (s : State) (id : Nat) (lines : List Nat) : State :=
  let x := s.myDie
  let t := s.setMyDie { x with egress := x.egress ++ lines.map fun l => { line := l, bytes := [], rin := s.dev.rin, owner := some id } }
  if 4096 * 3 ≤ (x.egress.length + lines.length) * 4 then t.setDev t.dev.requestSeal else t

/-- R292: COPYJ, its checks in the order of Table 11-2, its leases (R59) and its reservation (R419). -/
def State.copyj (s : State) (u : BitVec 1) (d : Reg) : State :=
  let c := s.newCard 8 0 0 0 u
  let n := c.nat 0x82
  let handle := c.field 0x8A
  let bar := c.field 0x8B
  s.illegalIf c.copyBad (
    let g := if handle = 0 then none else s.grantOf handle
    let target := g.map fun x => (x.1, x.2.spec.stag.toNat, x.2.spec.six.toNat)
    let rs : List JobRange := (c.srcRows.map fun a => { ea := a, n := n, write := false }) ++
      (c.dstRows.map fun a => { ea := a, n := n, write := true }) ++
      (if bar = 0 then [] else [{ ea := bar, n := 16, write := true, bar := true }])
    match s.jobCheck (handle != 0) target c.copyAlign rs with
    | .fault cause a => s.jobRaise cause a
    | .wait => s.idle
    | .ok ps =>
      match s.copyPerm c g ps with
      | some a => s.jobRaise 0x05 a
      | none =>
        let lines := heldLines ps
        if s.jobBarred ps then s.unlessSpec s
        else match s.commitJob ps with
          | .fault cause dt a x => s.raise cause dt a x
          | .full => s.idle
          | .done t =>
            if 4096 < s.myDie.egress.length + lines.length then s.idle.setDev s.dev.requestSeal
            else
              let id := if lines.isEmpty then 0 else t.dev.serial + 1
              let t0 := ps.foldl (fun (u : State) p => u.fillAll p.1.ea p.2) t
              let t1 := if lines.isEmpty then t0 else (t0.setDev { t0.dev with serial := id }).reserveEgress id lines
              let bits (w : Nat) (ns : List Nat) : BitVec w := ns.foldl (fun m i => m ||| (1#w <<< i)) 0
              let dst := ps.filter fun p => !p.1.bar
              let card := ((c.setRegion 0 (c.bound (c.field 0x80) (c.int 0x85) (c.int 0x86))).setRegion 4
                (c.bound (c.field 0x81) (c.int 0x87) (c.int 0x88))).setRegion 5 (if bar = 0 then Region.none else Region.of bar 16)
              t1.enterCard true d { card with target := target, hold := id, leaseV := bits 64 (leaseBits 2 256 dst)
                                              leaseP := bits 96 (leaseBits 3 8 dst) })

/-- R292: COPYJ. -/
def execCopyj (u : BitVec 1) (d : Reg) (s : State) : Res := s.jobIssue true fun s => s.copyj u d

/-! ### JOBW -/

/-- R293: JOBW waits until the retired prefix of a class reaches s[a] and returns it. -/
def execJobw (c : BitVec 1) (a d : Reg) (s : State) : Res :=
  let done : Word := if c = 1 then BitVec.ofNat 64 s.cur.jobs.prefixTl else s.cur.jobs.seqcp
  s.only .c (.next (if (s.rd a).toNat ≤ done.toNat then (s.wr d done).complete 4 else s.stallOn 5))

end Sys2Proof.Machine
end

