-- ==== Sys2Proof/Machine/Thresher.lean ====
section
/-!
DEFINITION. What the thresher computes (05 R115, R125 to R129; 06 R132 to R138, R144, R145): operands in plane layout,
the sums of a block, its emission, plane conversion, scaling and drain, all on the strand's own LS and granary.
-/
namespace Sys2Proof.Machine

/-! ### Bytes and elements -/

/-- Consecutive bytes from a list of cells whose numbers rise from `k`. -/
def denseFrom : Nat → Nat → Memory → List Byte
  | _, 0, _ => []
  | k, n + 1, [] => 0 :: denseFrom (k + 1) n []
  | k, n + 1, (j, b) :: m => if j == k then b :: denseFrom (k + 1) n m else 0 :: denseFrom (k + 1) n ((j, b) :: m)

/-- The n bytes from `a` up, read in one pass. -/
def Memory.dump (m : Memory) (a n : Nat) : List Byte := denseFrom 0 n (m.slice a n)

/-- Element j of a packed row of w-bit elements (R109). -/
def elemGet (m : Memory) (row j w : Nat) : Nat :=
  if w < 8 then (m.get (row + j * w / 8)).toNat / 2 ^ (j * w % 8) % 2 ^ w else m.nat (row + j * (w / 8)) (w / 8)

/-- Element j of a packed row written. -/
def elemPut (m : Memory) (row j w c : Nat) : Memory :=
  if w < 8 then
    let a := row + j * w / 8
    let sh := j * w % 8
    let old := (m.get a).toNat
    m.set a (BitVec.ofNat 8 (old - old / 2 ^ sh % 2 ^ w * 2 ^ sh + c % 2 ^ w * 2 ^ sh))
  else m.put (row + j * (w / 8)) (natLe (w / 8) c)

/-! ### Plane layout -/

/-- A group read as its halfwords (R132). -/
abbrev Group := Array Nat

/-- The code or significand of the element of row r and K position κ (R132). -/
def Group.planes (g : Group) (q pp r k : Nat) : Nat :=
  (upto q).foldl (fun v j => v + (if Nat.testBit (g.getD (j * (pp / 2) + r) 0) k then 2 ^ j else 0)) 0

/-- The exponent record word of an element (Table 6-1). -/
def Group.record (g : Group) (q pp r k : Nat) : Nat := g.getD (q * (pp / 2) + 16 * r + k) 0

/-- EXP of a record word. -/
def recExp (w : Nat) : Int := (BitVec.ofNat 10 w).toInt
/-- CLS of a record word. -/
def recCls (w : Nat) : Nat := w / 2 ^ 13 % 4
/-- SGN of a record word. -/
def recSgn (w : Nat) : Bool := Nat.testBit w 15

/-- The value of a float element in plane layout (R115, R133). -/
def Group.value (g : Group) (f : BitVec 4) (pp r k : Nat) : ExactNum :=
  let q := serialWidth f
  let w := g.record q pp r k
  match recCls w with
  | 0 => .zero (recSgn w)
  | 1 => .fin (recSgn w) (g.planes q pp r k) (recExp w - q + 1) false
  | 2 => .inf (recSgn w)
  | _ => .nan

/-- The value of an integer element in plane layout (R110, R132). -/
def Group.integer (g : Group) (f : BitVec 4) (pp r k : Nat) : Int := decodeInt f (g.planes (serialWidth f) pp r k)

/-- The significand and record word of an element code (R133, R135); a NaN keeps the sign bit of its code (assumption
log 18). -/
def toPlane (f : BitVec 4) (c : Nat) : Nat × Nat :=
  let q := serialWidth f
  let sgn := if c % 2 ^ formatWidth f / 2 ^ ((if f = 8 then 6 else formatWidth f) - 1) % 2 = 1 then 2 ^ 15 else 0
  match decodeFmt f c with
  | .nan => (0, sgn + 3 * 2 ^ 13)
  | .inf neg => (0, (if neg then 2 ^ 15 else 0) + 2 * 2 ^ 13)
  | .fin neg m e _ =>
    let s := if neg then 2 ^ 15 else 0
    if m = 0 then (0, s)
    else
      let k := if f = 8 || f = 9 then q - (Nat.log2 m + 1) else 0
      (m * 2 ^ k, s + 2 ^ 13 + ((e - k + q - 1) % 2 ^ 10).toNat)

/-- The code of an element in plane layout (R135). -/
def fromPlane (f : BitVec 4) (sig w : Nat) : Nat :=
  match recCls w with
  | 0 => (roundFmt f 0 true (.zero (recSgn w))).1
  | 1 => (roundFmt f 0 true (.fin (recSgn w) sig (recExp w - serialWidth f + 1) false)).1
  | 2 => (roundFmt f 0 (f == 8 || f == 9 || f == 10) (.inf (recSgn w))).1
  | _ => (roundFmt f 0 true .nan).1

/-- One group of a PLANE job, elements to planes (R135, R283). -/
def planeFromElems (c : Card) (ls : Memory) (grp : Nat) : Memory :=
  let f := c.fa
  let w := formatWidth f
  let q := serialWidth f
  let pp := c.nat 0xB4
  let rows := pp / 2
  let gs := groupSize f pp
  let elems : List (List (Nat × Nat)) := (upto rows).map fun r =>
    let row := c.nat 0xB0 + r * c.nat 0xB1
    (upto 16).map fun k =>
      let code := elemGet ls row (16 * grp + k) w
      if isFloat f then toPlane f code else (code, 0)
  let plane (j : Nat) : List Byte := elems.flatMap fun es =>
    natLe 2 (((upto 16).zip es).foldl (fun v p => v + (if Nat.testBit p.2.1 j then 2 ^ p.1 else 0)) 0)
  let records : List Byte := if isFloat f then elems.flatMap fun es => es.flatMap fun e => natLe 2 e.2 else []
  ls.blit (c.nat 0xB2 + grp * gs) ((upto q).flatMap plane ++ records)

/-- One group of a PLANE job, planes to elements. -/
def planeToElems (c : Card) (ls : Memory) (grp : Nat) : Memory :=
  let f := c.fa
  let w := formatWidth f
  let q := serialWidth f
  let pp := c.nat 0xB4
  let gs := groupSize f pp
  let g : Group := (chunks 2 (gs / 2) (ls.dump (c.nat 0xB2 + grp * gs) gs)).toArray
  (upto (pp / 2)).foldl (fun (m : Memory) r =>
    let row := c.nat 0xB0 + r * c.nat 0xB1
    (upto 16).foldl (fun (m : Memory) k =>
      let sig := g.planes q pp r k
      elemPut m row (16 * grp + k) w (if isFloat f then fromPlane f sig (g.record q pp r k) else sig)) m) ls

/-- LS after the group of a PLANE job that its card names (R283). -/
def Card.planeGroup (c : Card) (ls : Memory) : Memory :=
  let grp := (vget c.nest 0 0).toNat
  if c.fb.getLsbD 0 then planeToElems c ls grp else planeFromElems c ls grp

/-- A PLANE's card after a group: the next group in NEST0 [15:0], or finished (R283). -/
def Card.afterGroup (c : Card) : Card :=
  let grp := (vget c.nest 0 0).toNat
  if grp < c.nat 0xB3 then { c with started := true, nest := c.nest.set 0 (BitVec.ofNat 16 (grp + 1)) }
  else { c with started := true, phase := .finished, nest := c.nest.set 0 0 }

/-! ### Sums -/

/-- kstep_sum of finite products in a window of `win` bits below the largest (R126, R128). -/
def windowSum (win : Nat) (ps : List (Bool × Nat × Int)) : Nat × Flags :=
  let tops := (ps.filter fun p => p.2.1 != 0).map fun p => p.2.2 + (Nat.log2 p.2.1 : Int)
  match tops with
  | [] => (0, 0)
  | t :: ts =>
    let u : Int := ts.foldl max t - (win : Int)
    let cut (p : Bool × Nat × Int) : Int × Bool :=
      let r := if u ≤ p.2.2 then (p.2.1 * 2 ^ (p.2.2 - u).toNat, false)
               else (p.2.1 / 2 ^ (u - p.2.2).toNat, p.2.1 % 2 ^ (u - p.2.2).toNat != 0)
      (if p.1 then -(r.1 : Int) else r.1, r.2)
    let cs := ps.map cut
    let sum : Int := (cs.map (·.1)).foldl (· + ·) 0
    let x := roundFp32 0 (if sum = 0 then .zero false else .fin (decide (sum < 0)) sum.natAbs u false, 0)
    (x.1, x.2 ||| (if cs.any (·.2) then fNX else 0))

/-- The sum of one K-step or group of products, special values first (R127). -/
def stepSum (win : Nat) (as bs : List ExactNum) : Nat × Flags :=
  let ps := (as.zip bs).map fun p => p.1.mul p.2
  let operandNan := (as.any ExactNum.isNan) || bs.any ExactNum.isNan
  let zeroInf := ps.any fun p => p.2 != 0
  let pos := ps.any fun p => p.1 == .inf false
  let neg := ps.any fun p => p.1 == .inf true
  if operandNan || zeroInf || (pos && neg) then (fp32.nan, if zeroInf || (pos && neg) then fNV else 0)
  else if pos then (0x7F800000, 0)
  else if neg then (0xFF800000, 0)
  else windowSum win (ps.map fun p => match p.1 with
    | .fin n m e _ => (n, m, e)
    | _ => (false, 0, 0))

/-- The block register after one more sum (R126, R127). -/
def regAdd (acc : Nat × Flags) (x : Nat × Flags) : Nat × Flags :=
  let r := roundFp32 0 (ExactNum.add 0 (fp32.decode acc.1) (fp32.decode x.1))
  (r.1, acc.2 ||| x.2 ||| r.2)

/-- A float cell: the K-steps of the block in ascending order (R126, R128). -/
def floatCell (nbv : BitVec 8) (as bs : List (List ExactNum)) : Nat × Flags :=
  (as.zip bs).foldl (fun acc p =>
    if nbv = 1 then
      regAdd (regAdd acc (stepSum 31 (p.1.take 8) (p.2.take 8))) (stepSum 31 (p.1.drop 8) (p.2.drop 8))
    else regAdd acc (stepSum 47 p.1 p.2)) (0, 0)

/-- An integer narrowed to INT32 by the integer mode (R125). -/
def intMode (im : BitVec 1) (v : Int) : Nat := (if im = 1 then satS v 32 else BitVec.ofInt 32 v).toNat

/-- An integer cell (R125). -/
def intCell (im : BitVec 1) (as bs : List (List Int)) : Nat :=
  intMode im ((as.zip bs).foldl (fun acc p => (p.1.zip p.2).foldl (fun a q => a + q.1 * q.2) acc) 0)

/-! ### A body -/

/-- The index sums of a body (R137): base plus the strides of field group `f`. -/
def Card.stride (c : Card) (base : Int) (f : Nat) : Int :=
  (upto 6).foldl (fun a l => a + (vget c.nest l 0).toNat * c.int (f + l)) base

/-- An address of LS or GR from an offset that may have left the space. -/
def spaceAddr (space : Nat) (off : Int) : Word := BitVec.ofInt 64 (space * 2 ^ 56 + off)

/-- Whether an access lies in its space and wholly in one region of the card (R98, R282). -/
def Card.allows (c : Card) (write : Bool) (space : Nat) (off : Int) (n : Nat) : Bool :=
  let size : Int := if space = 1 then 0x200000 else 0x80000
  0 ≤ off && off + n ≤ size &&
    (if write then c.writes else c.reads ++ c.writes).any fun r =>
      r.len != 0 && r.base.toNat ≤ space * 2 ^ 56 + off.toNat && space * 2 ^ 56 + off.toNat + n ≤ r.base.toNat + r.len.toNat

/-- The reads of a body: what it needs, or the address of the first access its card does not allow (R137, R282). -/
inductive BodyRead where
  | ok (a b : List Group) (arow srow : List Nat)
  | bad (addr : Word)

/-- Operand groups of K-steps 0 to nb - 1 from an offset. -/
def readGroups (ls : Memory) (f : BitVec 4) (pp nb : Nat) (off : Int) : List Group :=
  let gs := groupSize f pp
  (upto nb).map fun s => (chunks 2 (gs / 2) (ls.dump (off.toNat + s * gs) gs)).toArray

/-- nb of a nest. -/
def Card.nb (c : Card) : Nat := c.nat 5 + 1
/-- The A plane pitch (R137). -/
def Card.ppA (c : Card) : Nat := if c.kind = 0 then 128 else c.nat 6

/-- The reads of the next body of a nest. A list and a group are each one access, which must lie in one region, at whatever
offset the strides give (R137, assumption log 73). -/
def Card.bodyRead (c : Card) (ls : Memory) : BodyRead :=
  let a := c.stride (c.nat 0) 0x20
  let b := c.stride (c.nat 1) 0x30
  let g := c.stride 0 0x50
  let gather := c.kind != 0
  let scatter := c.kind == 2
  let gl : Int := c.nat 3 + g
  let sl : Int := c.nat 4 + g
  let gsa := groupSize c.fa c.ppA
  let gsb := groupSize c.fb 128
  let arow := if gather then chunks 2 64 (ls.dump gl.toNat 128) else upto 64
  let groups : List (Int × Nat) := (upto c.nb).flatMap fun (s : Nat) => [(a + (s : Int) * gsa, gsa), (b + (s : Int) * gsb, gsb)]
  if gather && !c.allows false 1 gl 128 then .bad (spaceAddr 1 gl)
  else if gather && arow.any fun r => c.ppA / 2 ≤ r then .bad (spaceAddr 1 (a + 2 * ((arow.find? fun r => c.ppA / 2 ≤ r).getD 0 : Nat)))
  else match groups.find? fun p => !c.allows false 1 p.1 p.2 with
    | some p => .bad (spaceAddr 1 p.1)
    | none =>
      if scatter && !c.allows false 1 sl 128 then .bad (spaceAddr 1 sl)
      else .ok (readGroups ls c.fa c.ppA c.nb a) (readGroups ls c.fb 128 c.nb b) arow
        (if scatter then chunks 2 64 (ls.dump sl.toNat 128) else upto 64)

/-- The 4,096 results of a block, row by row, with their flags (R125 to R128, R137). -/
def Card.block (c : Card) (as bs : List Group) (arow : List Nat) : List (List (Nat × Flags)) :=
  if isFloat c.fa then
    let rowsA := arow.map fun r => as.map fun g => (upto 16).map fun k => g.value c.fa c.ppA r k
    let colsB := (upto 64).map fun j => bs.map fun g => (upto 16).map fun k => g.value c.fb 128 j k
    rowsA.map fun x => colsB.map fun y => floatCell c.nbv x y
  else
    let rowsA := arow.map fun r => as.map fun g => (upto 16).map fun k => g.integer c.fa c.ppA r k
    let colsB := (upto 64).map fun j => bs.map fun g => (upto 16).map fun k => g.integer c.fb 128 j k
    rowsA.map fun x => colsB.map fun y => (intCell c.im x y, 0)

/-- The flags of a list of results. -/
def orFlags (xs : List (Nat × Flags)) : Flags := xs.foldl (fun f x => f ||| x.2) 0

/-- The result word of one write of emit (R138, R142). -/
def Card.emitWord (c : Card) (old new : Nat) : Nat × Flags :=
  if c.nat 8 = 1 then (new, 0)
  else if isFloat c.fa then roundFp32 0 (ExactNum.add 0 (fp32.decode old) (fp32.decode new))
  else (intMode c.im ((BitVec.ofNat 32 old).toInt + (BitVec.ofNat 32 new).toInt), 0)

/-- The words of a row that the card lets emit write before the first it does not (R98). -/
def Card.goodWords (c : Card) (off : Int) : Nat :=
  ((upto 64).takeWhile fun j => c.allows true 2 (off + 4 * (j : Nat)) 4).length

/-- Rows emitted to the granary one after another: the granary, the flags, and the first word that may not be written. -/
def Card.emitRows (c : Card) (d : Int) : List (Nat × List (Nat × Flags)) → Memory → Memory × Flags × Option Word
  | [], gr => (gr, 0, none)
  | (i, xs) :: rest, gr =>
    let off : Int := d + i * c.nat 7
    let n := c.goodWords off
    let old := chunks 4 n (gr.dump off.toNat (4 * n))
    let new := (old.zip (xs.map (·.1))).map fun p => c.emitWord p.1 p.2
    let gr1 := if n = 0 then gr else gr.blit off.toNat (new.flatMap fun p => natLe 4 p.1)
    if n < 64 then (gr1, orFlags new, some (spaceAddr 2 (off + 4 * n)))
    else
      let r := c.emitRows d rest gr1
      (r.1, orFlags new ||| r.2.1, r.2.2)

/-- The partial buffer of a pair's pointer. -/
def pairBuffer (pair : Nat) (ptr : BitVec 2) : Nat := 2 * pair + (if ptr.getLsbD pair then 1 else 0)

/-- A body's outcome: the strand after it with its flags, the strand once its buffer is FILLING, a wait for its buffer, or
the strand after the accesses that came before one its card does not allow, and that access's address. -/
inductive BodyOut where
  | done (k : Strand) (f : Flags)
  | filling (k : Strand)
  | wait
  | bad (k : Strand) (f : Flags) (addr : Word)

/-- The next body of a nest run and emitted (R137 to R140): a block for a partial buffer first makes it FILLING and then,
with its last word, FULL. -/
def Card.runBody (c : Card) (k : Strand) : BodyOut :=
  let pair := c.nat 9
  let buf := pairBuffer pair k.wptr
  match c.bodyRead k.ls with
  | .bad a => .bad k 0 a
  | .ok as bs arow srow =>
    let rows := c.block as bs arow
    let f := orFlags (rows.flatMap id)
    if c.nat 8 = 0 then
      if vget k.pbst buf 0 = 0 then .filling { k with pbst := k.pbst.setIfInBounds buf 1 }
      else if vget k.pbst buf 0 = 1 then
        .done { k with gr := k.gr.blit (pbBase buf) (rows.flatMap fun r => r.flatMap fun x => natLe 4 x.1)
                       pbst := k.pbst.setIfInBounds buf 2, wptr := k.wptr ^^^ (1#2 <<< pair) } f
      else .wait
    else
      let r := c.emitRows (c.stride (c.nat 2) 0x40) (srow.zip rows) k.gr
      match r.2.2 with
      | none => .done { k with gr := r.1 } (f ||| r.2.1)
      | some a => .bad { k with gr := r.1 } (f ||| r.2.1) a

/-- The indices of the body after one, level 0 innermost; none after the last (R137). -/
def nextNest (cnt : Nat → Nat) : Nat → List Nat → Option (List Nat)
  | _, [] => none
  | l, i :: is => if i < cnt l then some ((i + 1) :: is) else (nextNest cnt (l + 1) is).map (0 :: ·)

/-- The card after a body: its next indices, or finished. -/
def Card.afterBody (c : Card) (f : Flags) : Card :=
  let d := { c with started := true, flags := c.flags ||| f }
  match nextNest (fun l => c.nat (0x10 + l)) 0 (c.nest.toList.map BitVec.toNat) with
  | some is => { d with nest := Vector.ofFn fun l => BitVec.ofNat 16 (is.getD l.val 0) }
  | none => { d with phase := .finished, nest := Vector.replicate 6 0 }

/-! ### SACC -/

/-- acc + k_a × k_b × P with one rounding (R129). -/
def saccWord (acc : Nat) (ka kb p : ExactNum) : Nat × Flags :=
  let fs := [ka, kb, p]
  if fs.any ExactNum.isZero && fs.any ExactNum.isInf then (fp32.nan, fNV)
  else roundFp32 0 (ExactNum.add 0 (fp32.decode acc) ((ka.mul kb).1.mul p).1)

/-- A partial's value by its class (R144). -/
def partialValue (im : BitVec 1) (w : Nat) : ExactNum := if im = 1 then .ofInt (BitVec.ofNat 32 w).toInt else fp32.decode w

/-- An SACC over its buffer (R144). -/
def Card.saccRun (c : Card) (gr : Memory) (buf : Nat) : Memory × Flags :=
  (upto 64).foldl (fun (acc : Memory × Flags) i =>
    let ps := chunks 4 64 (gr.dump (pbBase buf + 256 * i) 256)
    let at_ := saccAcc c.operand + i * saccPitch c.operand
    let old := chunks 4 64 (acc.1.dump at_ 256)
    let ka := fp32.decode (laneOf c.row i).toNat
    let new := ((upto 64).zip (old.zip ps)).map fun x =>
      saccWord x.2.1 ka (fp32.decode (laneOf c.col x.1).toNat) (partialValue c.im x.2.2)
    (acc.1.blit at_ (new.flatMap fun p => natLe 4 p.1), acc.2 ||| orFlags new)) (gr, 0)

/-! ### DRAIN -/

/-- drain_hash of R145. -/
def drainHash (x : BitVec 32) : BitVec 32 :=
  let x := (x ^^^ (x >>> 16)) * 0x7FEB352D
  let x := (x ^^^ (x >>> 15)) * 0x846CA68B
  x ^^^ (x >>> 16)

/-- One element of a DRAIN pass (R145): its source word and its residual code, if the job has one. -/
def Card.drainElem (c : Card) (i j g : Nat) (res : Option Nat) : Nat × Flags :=
  let sat := c.dctl 2
  if c.dctl 5 then convert c.fa 6 0 sat g
  else
    let rm : RMode := (c.field 0xAD).setWidth 2
    let p := (fp32.decode (c.nat 0xA6)).mul (partialValue c.im g)
    let v := match res with
      | some r =>
        let q := (fp32.decode (c.nat 0xA7)).mul (decodeFmt c.fb r)
        let s := ExactNum.add 0 p.1 q.1
        roundFp32 0 (s.1, p.2 ||| q.2 ||| s.2)
      | none => roundFp32 0 p
    let w := if c.dctl 4 then
        let x := (c.field 0xA9).setWidth 32 ^^^ ((c.field 0xAA).setWidth 32 + BitVec.ofNat 32 i) * 65536#32 +
          ((c.field 0xAB).setWidth 32 + BitVec.ofNat 32 j)
        if c.nat 0xAC ≤ (drainHash x).toNat then roundFp32 0 ((fp32.decode v.1).mul (fp32.decode (c.nat 0xA8))) else (0, 0)
      else (v.1, 0)
    let o := convert c.fa 14 rm sat w.1
    (o.1, v.2 ||| w.2 ||| o.2)

/-- A DRAIN pass (R145): the granary, LS, the row-major codes of a tile destination, and the flags. -/
def Card.drainRun (c : Card) (gr ls : Memory) : Memory × Memory × List Nat × Flags :=
  let tile := c.dctl 6
  let r := (upto 64).foldl (fun (acc : Memory × Memory × List (List Nat) × Flags) i =>
    let src := c.nat 0xA0 + i * c.nat 0xA1
    let row := ((upto 64).zip (chunks 4 64 (acc.1.dump src 256))).foldl (fun (a : Memory × List Nat × Flags) x =>
      let res := if c.dctl 7 then some (elemGet a.1 (c.nat 0xA4 + i * c.nat 0xA5) x.1 (formatWidth c.fb)) else none
      let o := c.drainElem i x.1 x.2 res
      (if tile then a.1 else elemPut a.1 (c.nat 0xA2 + i * c.nat 0xA3) x.1 (formatWidth c.fa) o.1, o.1 :: a.2.1, a.2.2 ||| o.2))
      (acc.2.1, [], 0)
    (if c.dctl 3 then acc.1.clear src 256 else acc.1, row.1, row.2.1.reverse :: acc.2.2.1, acc.2.2.2 ||| row.2.2))
    (gr, ls, [], 0)
  (r.1, r.2.1, r.2.2.1.reverse.flatMap id, r.2.2.2)

end Sys2Proof.Machine
end

