-- ==== Sys2Proof/Machine/Flags.lean ====
section
/-!
DEFINITION. The flags of cfg.fflags (R121, Table 5-5) as vector instructions raise them: every flag of every enabled
lane, once, when the instruction completes (R54, R251); and the way every lane operation checks and writes.
-/
namespace Sys2Proof.Machine

/-- A vector instruction of the execute stream: elsewhere it is an illegal encoding (R49); a register or predicate under
lease is a lease fault before anything happens (R59, R252). -/
def State.vector (s : State) (g : Guard) (vs : List VName) (ps : List PName) (k : Res) : Res :=
  s.only .x (if s.cur.leaseHit g vs ps then .next (s.raise 0x07 0 0 0) else k)

/-- An integer lane operation: the enabled lanes of vd written, no flag (R255). -/
def State.intLanes (s : State) (g : Guard) (d : VName) (srcs : List VName) (len : Nat) (f : Nat → Lane) : Res :=
  s.vector g (d :: srcs) [] (.next ((s.putLanes d (s.cur.mask g) f).complete len))

/-- The flags that the enabled lanes raise (R121). -/
def laneFlags (m : BitVec 64) (f : Nat → Flags) : Flags :=
  (upto 64).foldl (fun acc i => if m.getLsbD i then acc ||| f i else acc) 0

/-- A float lane operation: the enabled lanes of vd written and their flags raised (R121, R257). -/
def State.fpLanes (s : State) (g : Guard) (d : VName) (srcs : List VName) (len : Nat) (f : Nat → Nat × Flags) : Res :=
  let m := s.cur.mask g
  s.vector g (d :: srcs) []
    (.next (((s.putLanes d m fun i => BitVec.ofNat 32 (f i).1).raiseFlags (laneFlags m fun i => (f i).2)).complete len))

end Sys2Proof.Machine
end

