-- ==== Sys2Proof/Machine/Vint.lean ====
section
/-!
DEFINITION. VINT: integer arithmetic on lanes (10 R254, R255, Table 10-1). No function sets a flag or faults on a value.
-/
namespace Sys2Proof.Machine

/-- vmin. -/
def laneMin (a b : Lane) : Lane := if a.toInt ≤ b.toInt then a else b
/-- vmax. -/
def laneMax (a b : Lane) : Lane := if a.toInt ≤ b.toInt then b else a
/-- vmulh: wrap(floor(sA × sB / 2^32), 32). -/
def laneMulh (a b : Lane) : Lane := BitVec.ofInt 32 (a.toInt * b.toInt / 2 ^ 32)
/-- vmulh.u. -/
def laneMulhU (a b : Lane) : Lane := BitVec.ofNat 32 (a.toNat * b.toNat / 2 ^ 32)
/-- vmin.u. -/
def laneMinU (a b : Lane) : Lane := if a.toNat ≤ b.toNat then a else b
/-- vmax.u. -/
def laneMaxU (a b : Lane) : Lane := if a.toNat ≤ b.toNat then b else a
/-- vadd.sat: sat_s(sA + sB, 32). -/
def laneAddSat (a b : Lane) : Lane := satS (a.toInt + b.toInt) 32
/-- vsub.sat: sat_s(sA − sB, 32). -/
def laneSubSat (a b : Lane) : Lane := satS (a.toInt - b.toInt) 32
/-- vdiv (R123): all ones for a zero divisor. -/
def laneDiv (a b : Lane) : Lane := if b = 0 then -1 else BitVec.ofInt 32 (a.toInt.tdiv b.toInt)
/-- vdiv.u. -/
def laneDivU (a b : Lane) : Lane := if b = 0 then -1 else BitVec.ofNat 32 (a.toNat / b.toNat)
/-- vrem (R123): the dividend for a zero divisor, else with the dividend's sign. -/
def laneRem (a b : Lane) : Lane := if b = 0 then a else BitVec.ofInt 32 (a.toInt.tmod b.toInt)
/-- vrem.u. -/
def laneRemU (a b : Lane) : Lane := if b = 0 then a else BitVec.ofNat 32 (a.toNat % b.toNat)
/-- sh = b[4:0] (R255). -/
def laneSh (b : Lane) : Nat := b.toNat % 32
/-- vshl. -/
def laneShl (a b : Lane) : Lane := a <<< laneSh b
/-- vshr. -/
def laneShr (a b : Lane) : Lane := a >>> laneSh b
/-- vsra. -/
def laneSra (a b : Lane) : Lane := a.sshiftRight (laneSh b)
/-- vabs: −2^31 stays. -/
def laneAbs (a : Lane) : Lane := BitVec.ofInt 32 a.toInt.natAbs
/-- vclz. -/
def laneClz (a : Lane) : Lane := BitVec.ofNat 32 (leadingZeros 32 a.toNat)
/-- vpopc. -/
def lanePopc (a : Lane) : Lane := BitVec.ofNat 32 (countOnes 32 a.toNat)

/-- The register form: vd[i] := f(va[i], vb[i]). -/
def State.vintReg (s : State) (g : Guard) (d a b : VName) (len : Nat) (f : Lane → Lane → Lane) : Res :=
  s.intLanes g d [a, b] len fun i => f (s.lane a i) (s.lane b i)

/-- The immediate form: operand b of every lane is sext(IMM, 16) (R254). -/
def State.vintImm (s : State) (g : Guard) (d a : VName) (i : BitVec 16) (f : Lane → Lane → Lane) : Res :=
  s.intLanes g d [a] 8 fun k => f (s.lane a k) (immLane i)

/-- The form of one source: vd[i] := f(va[i]). -/
def State.vintOne (s : State) (g : Guard) (d a : VName) (f : Lane → Lane) : Res :=
  s.intLanes g d [a] 8 fun k => f (s.lane a k)

/-- Table 10-1: vadd. -/
def execVadd (g : Guard) (d a b : VName) (s : State) : Res := s.vintReg g d a b 4 fun a b => a + b
/-- Table 10-1: vsub. -/
def execVsub (g : Guard) (d a b : VName) (s : State) : Res := s.vintReg g d a b 4 fun a b => a - b
/-- Table 10-1: vmul. -/
def execVmul (g : Guard) (d a b : VName) (s : State) : Res := s.vintReg g d a b 4 fun a b => a * b
/-- Table 10-1: vmin. -/
def execVmin (g : Guard) (d a b : VName) (s : State) : Res := s.vintReg g d a b 4 fun a b => laneMin a b
/-- Table 10-1: vmax. -/
def execVmax (g : Guard) (d a b : VName) (s : State) : Res := s.vintReg g d a b 4 fun a b => laneMax a b
/-- Table 10-1: vand. -/
def execVand (g : Guard) (d a b : VName) (s : State) : Res := s.vintReg g d a b 4 fun a b => a &&& b
/-- Table 10-1: vor. -/
def execVor (g : Guard) (d a b : VName) (s : State) : Res := s.vintReg g d a b 4 fun a b => a ||| b
/-- Table 10-1: vxor. -/
def execVxor (g : Guard) (d a b : VName) (s : State) : Res := s.vintReg g d a b 4 fun a b => a ^^^ b
/-- Table 10-1: vmulh. -/
def execVmulh (g : Guard) (d a b : VName) (s : State) : Res := s.vintReg g d a b 8 fun a b => laneMulh a b
/-- Table 10-1: vmulh.u. -/
def execVmulhU (g : Guard) (d a b : VName) (s : State) : Res := s.vintReg g d a b 8 fun a b => laneMulhU a b
/-- Table 10-1: vmin.u. -/
def execVminU (g : Guard) (d a b : VName) (s : State) : Res := s.vintReg g d a b 8 fun a b => laneMinU a b
/-- Table 10-1: vmax.u. -/
def execVmaxU (g : Guard) (d a b : VName) (s : State) : Res := s.vintReg g d a b 8 fun a b => laneMaxU a b
/-- Table 10-1: vadd.sat. -/
def execVaddSat (g : Guard) (d a b : VName) (s : State) : Res := s.vintReg g d a b 8 fun a b => laneAddSat a b
/-- Table 10-1: vsub.sat. -/
def execVsubSat (g : Guard) (d a b : VName) (s : State) : Res := s.vintReg g d a b 8 fun a b => laneSubSat a b
/-- Table 10-1: vdiv. -/
def execVdiv (g : Guard) (d a b : VName) (s : State) : Res := s.vintReg g d a b 8 fun a b => laneDiv a b
/-- Table 10-1: vdiv.u. -/
def execVdivU (g : Guard) (d a b : VName) (s : State) : Res := s.vintReg g d a b 8 fun a b => laneDivU a b
/-- Table 10-1: vrem. -/
def execVrem (g : Guard) (d a b : VName) (s : State) : Res := s.vintReg g d a b 8 fun a b => laneRem a b
/-- Table 10-1: vrem.u. -/
def execVremU (g : Guard) (d a b : VName) (s : State) : Res := s.vintReg g d a b 8 fun a b => laneRemU a b
/-- Table 10-1: vshl. -/
def execVshl (g : Guard) (d a b : VName) (s : State) : Res := s.vintReg g d a b 8 fun a b => laneShl a b
/-- Table 10-1: vshr. -/
def execVshr (g : Guard) (d a b : VName) (s : State) : Res := s.vintReg g d a b 8 fun a b => laneShr a b
/-- Table 10-1: vsra. -/
def execVsra (g : Guard) (d a b : VName) (s : State) : Res := s.vintReg g d a b 8 fun a b => laneSra a b
/-- Table 10-1: vabs. -/
def execVabs (g : Guard) (d a : VName) (s : State) : Res := s.vintOne g d a laneAbs
/-- Table 10-1: vnot. -/
def execVnot (g : Guard) (d a : VName) (s : State) : Res := s.vintOne g d a (~~~ ·)
/-- Table 10-1: vclz. -/
def execVclz (g : Guard) (d a : VName) (s : State) : Res := s.vintOne g d a laneClz
/-- Table 10-1: vpopc. -/
def execVpopc (g : Guard) (d a : VName) (s : State) : Res := s.vintOne g d a lanePopc
/-- Table 10-1: vmadd: wrap(vd[i] + sA × sB, 32). -/
def execVmadd (g : Guard) (d a b : VName) (s : State) : Res :=
  s.intLanes g d [a, b] 8 fun i => s.lane d i + s.lane a i * s.lane b i
/-- Table 10-1: vadd, immediate. -/
def execVaddImm (g : Guard) (d a : VName) (i : BitVec 16) (s : State) : Res := s.vintImm g d a i fun a b => a + b
/-- Table 10-1: vsub, immediate. -/
def execVsubImm (g : Guard) (d a : VName) (i : BitVec 16) (s : State) : Res := s.vintImm g d a i fun a b => a - b
/-- Table 10-1: vmul, immediate. -/
def execVmulImm (g : Guard) (d a : VName) (i : BitVec 16) (s : State) : Res := s.vintImm g d a i fun a b => a * b
/-- Table 10-1: vmin, immediate. -/
def execVminImm (g : Guard) (d a : VName) (i : BitVec 16) (s : State) : Res := s.vintImm g d a i fun a b => laneMin a b
/-- Table 10-1: vmax, immediate. -/
def execVmaxImm (g : Guard) (d a : VName) (i : BitVec 16) (s : State) : Res := s.vintImm g d a i fun a b => laneMax a b
/-- Table 10-1: vand, immediate. -/
def execVandImm (g : Guard) (d a : VName) (i : BitVec 16) (s : State) : Res := s.vintImm g d a i fun a b => a &&& b
/-- Table 10-1: vor, immediate. -/
def execVorImm (g : Guard) (d a : VName) (i : BitVec 16) (s : State) : Res := s.vintImm g d a i fun a b => a ||| b
/-- Table 10-1: vxor, immediate. -/
def execVxorImm (g : Guard) (d a : VName) (i : BitVec 16) (s : State) : Res := s.vintImm g d a i fun a b => a ^^^ b
/-- Table 10-1: vmulh, immediate. -/
def execVmulhImm (g : Guard) (d a : VName) (i : BitVec 16) (s : State) : Res := s.vintImm g d a i fun a b => laneMulh a b
/-- Table 10-1: vmulh.u, immediate. -/
def execVmulhUImm (g : Guard) (d a : VName) (i : BitVec 16) (s : State) : Res := s.vintImm g d a i fun a b => laneMulhU a b
/-- Table 10-1: vmin.u, immediate. -/
def execVminUImm (g : Guard) (d a : VName) (i : BitVec 16) (s : State) : Res := s.vintImm g d a i fun a b => laneMinU a b
/-- Table 10-1: vmax.u, immediate. -/
def execVmaxUImm (g : Guard) (d a : VName) (i : BitVec 16) (s : State) : Res := s.vintImm g d a i fun a b => laneMaxU a b
/-- Table 10-1: vadd.sat, immediate. -/
def execVaddSatImm (g : Guard) (d a : VName) (i : BitVec 16) (s : State) : Res := s.vintImm g d a i fun a b => laneAddSat a b
/-- Table 10-1: vsub.sat, immediate. -/
def execVsubSatImm (g : Guard) (d a : VName) (i : BitVec 16) (s : State) : Res := s.vintImm g d a i fun a b => laneSubSat a b
/-- Table 10-1: vdiv, immediate. -/
def execVdivImm (g : Guard) (d a : VName) (i : BitVec 16) (s : State) : Res := s.vintImm g d a i fun a b => laneDiv a b
/-- Table 10-1: vdiv.u, immediate. -/
def execVdivUImm (g : Guard) (d a : VName) (i : BitVec 16) (s : State) : Res := s.vintImm g d a i fun a b => laneDivU a b
/-- Table 10-1: vrem, immediate. -/
def execVremImm (g : Guard) (d a : VName) (i : BitVec 16) (s : State) : Res := s.vintImm g d a i fun a b => laneRem a b
/-- Table 10-1: vrem.u, immediate. -/
def execVremUImm (g : Guard) (d a : VName) (i : BitVec 16) (s : State) : Res := s.vintImm g d a i fun a b => laneRemU a b
/-- Table 10-1: vshl, immediate. -/
def execVshlImm (g : Guard) (d a : VName) (i : BitVec 16) (s : State) : Res := s.vintImm g d a i fun a b => laneShl a b
/-- Table 10-1: vshr, immediate. -/
def execVshrImm (g : Guard) (d a : VName) (i : BitVec 16) (s : State) : Res := s.vintImm g d a i fun a b => laneShr a b
/-- Table 10-1: vsra, immediate. -/
def execVsraImm (g : Guard) (d a : VName) (i : BitVec 16) (s : State) : Res := s.vintImm g d a i fun a b => laneSra a b
/-- Table 10-1: vmadd, immediate. -/
def execVmaddImm (g : Guard) (d a : VName) (i : BitVec 16) (s : State) : Res :=
  s.intLanes g d [a] 8 fun k => s.lane d k + s.lane a k * immLane i

end Sys2Proof.Machine
end

