-- ==== Sys2Proof/Machine/Vfp.lean ====
section
/-!
DEFINITION. VFP and VHALF: FP32, FP16 and BF16 arithmetic on lanes (10 R256 to R258, Table 10-2). Each function takes a
format, a mode, SAT, and the codes of the destination element, a and b; FP32 takes no SAT.
-/
namespace Sys2Proof.Machine

/-- An element function: format, mode, SAT, then the codes of d, a and b. -/
abbrev FpOp := Ieee → RMode → Bool → Nat → Nat → Nat → Nat × Flags

/-- a + b. -/
def fpAdd : FpOp := fun f rm sat _ a b => finishNum f rm sat (ExactNum.add rm (f.decode a) (f.decode b))
/-- a − b. -/
def fpSub : FpOp := fun f rm sat _ a b => finishNum f rm sat (ExactNum.sub rm (f.decode a) (f.decode b))
/-- a × b. -/
def fpMul : FpOp := fun f rm sat _ a b => finishNum f rm sat ((f.decode a).mul (f.decode b))
/-- a / b. -/
def fpDiv : FpOp := fun f rm sat _ a b => finishNum f rm sat ((f.decode a).div (f.decode b))
/-- The smaller; exact, no flag. -/
def fpMin : FpOp := fun f _ _ _ a b => (f.min a b, 0)
/-- The larger; exact, no flag. -/
def fpMax : FpOp := fun f _ _ _ a b => (f.max a b, 0)
/-- a × b + d, one rounding. -/
def fpFma : FpOp := fun f rm sat d a b => finishNum f rm sat (ExactNum.fma rm (f.decode a) (f.decode b) (f.decode d))
/-- a × b − d, one rounding. -/
def fpFms : FpOp := fun f rm sat d a b => finishNum f rm sat (ExactNum.fma rm (f.decode a) (f.decode b) (f.decode d).negate)
/-- d − a × b, one rounding. -/
def fpFnma : FpOp := fun f rm sat d a b => finishNum f rm sat (ExactNum.fma rm (f.decode a).negate (f.decode b) (f.decode d))

/-- The square root under a mode. -/
def fpSqrt (rm : RMode) (a : Nat) : Nat × Flags := roundFp32 rm (fp32.decode a).sqrt
/-- The reciprocal, RNE (R124). -/
def fpRcp (a : Nat) : Nat × Flags := roundFp32 0 (fp32.decode a).rcp
/-- The reciprocal square root, RNE (R124). -/
def fpRsq (a : Nat) : Nat × Flags := roundFp32 0 (fp32.decode a).rsqrt
/-- The base-2 exponential, RNE (R124). -/
def fpExp2 (a : Nat) : Nat × Flags := roundFp32 0 (fp32.decode a).exp2
/-- The base-2 logarithm, RNE (R124). -/
def fpLog2 (a : Nat) : Nat × Flags := roundFp32 0 (fp32.decode a).log2
/-- Bit 31 cleared; NaN gives the generated NaN. -/
def fpAbs (a : Nat) : Nat × Flags := (if fp32.isNan a then fp32.nan else a % 2 ^ 31, 0)
/-- Bit 31 inverted; NaN gives the generated NaN. -/
def fpNeg (a : Nat) : Nat × Flags := (if fp32.isNan a then fp32.nan else (a + 2 ^ 31) % 2 ^ 32, 0)

/-- The register form of VFP. -/
def State.vfp (s : State) (rm : RMode) (g : Guard) (d a b : VName) (len : Nat) (f : FpOp) : Res :=
  s.fpLanes g d [a, b] len fun i => f fp32 rm false (s.lane d i).toNat (s.lane a i).toNat (s.lane b i).toNat

/-- The immediate form: operand b is IMM × 2^16 as an FP32 pattern (R256). -/
def State.vfpImm (s : State) (rm : RMode) (g : Guard) (d a : VName) (m : BitVec 16) (f : FpOp) : Res :=
  s.fpLanes g d [a] 8 fun i => f fp32 rm false (s.lane d i).toNat (s.lane a i).toNat (m.toNat * 2 ^ 16)

/-- The form of one source. -/
def State.vfpOne (s : State) (g : Guard) (d a : VName) (f : Nat → Nat × Flags) : Res :=
  s.fpLanes g d [a] 8 fun i => f (s.lane a i).toNat

/-- Table 10-2: vfadd, RNE. -/
def execVfadd (g : Guard) (d a b : VName) (s : State) : Res := s.vfp 0 g d a b 4 fpAdd
/-- Table 10-2: vfsub, RNE. -/
def execVfsub (g : Guard) (d a b : VName) (s : State) : Res := s.vfp 0 g d a b 4 fpSub
/-- Table 10-2: vfmul, RNE. -/
def execVfmul (g : Guard) (d a b : VName) (s : State) : Res := s.vfp 0 g d a b 4 fpMul
/-- Table 10-2: vfmin, RNE. -/
def execVfmin (g : Guard) (d a b : VName) (s : State) : Res := s.vfp 0 g d a b 4 fpMin
/-- Table 10-2: vfmax, RNE. -/
def execVfmax (g : Guard) (d a b : VName) (s : State) : Res := s.vfp 0 g d a b 4 fpMax
/-- Table 10-2: vfma, RNE. -/
def execVfma (g : Guard) (d a b : VName) (s : State) : Res := s.vfp 0 g d a b 4 fpFma
/-- Table 10-2: vfms, RNE. -/
def execVfms (g : Guard) (d a b : VName) (s : State) : Res := s.vfp 0 g d a b 4 fpFms
/-- Table 10-2: vfdiv, RNE. -/
def execVfdiv (g : Guard) (d a b : VName) (s : State) : Res := s.vfp 0 g d a b 4 fpDiv
/-- Table 10-2: vfadd under RM. -/
def execVfaddRm (rm : BitVec 2) (g : Guard) (d a b : VName) (s : State) : Res := s.vfp rm g d a b 8 fpAdd
/-- Table 10-2: vfsub under RM. -/
def execVfsubRm (rm : BitVec 2) (g : Guard) (d a b : VName) (s : State) : Res := s.vfp rm g d a b 8 fpSub
/-- Table 10-2: vfmul under RM. -/
def execVfmulRm (rm : BitVec 2) (g : Guard) (d a b : VName) (s : State) : Res := s.vfp rm g d a b 8 fpMul
/-- Table 10-2: vfmin under RM. -/
def execVfminRm (rm : BitVec 2) (g : Guard) (d a b : VName) (s : State) : Res := s.vfp rm g d a b 8 fpMin
/-- Table 10-2: vfmax under RM. -/
def execVfmaxRm (rm : BitVec 2) (g : Guard) (d a b : VName) (s : State) : Res := s.vfp rm g d a b 8 fpMax
/-- Table 10-2: vfma under RM. -/
def execVfmaRm (rm : BitVec 2) (g : Guard) (d a b : VName) (s : State) : Res := s.vfp rm g d a b 8 fpFma
/-- Table 10-2: vfms under RM. -/
def execVfmsRm (rm : BitVec 2) (g : Guard) (d a b : VName) (s : State) : Res := s.vfp rm g d a b 8 fpFms
/-- Table 10-2: vfdiv under RM. -/
def execVfdivRm (rm : BitVec 2) (g : Guard) (d a b : VName) (s : State) : Res := s.vfp rm g d a b 8 fpDiv
/-- Table 10-2: vfsqrt. -/
def execVfsqrt (rm : BitVec 2) (g : Guard) (d a : VName) (s : State) : Res := s.vfpOne g d a (fpSqrt rm)
/-- Table 10-2: vfrcp. -/
def execVfrcp (g : Guard) (d a : VName) (s : State) : Res := s.vfpOne g d a fpRcp
/-- Table 10-2: vfrsq. -/
def execVfrsq (g : Guard) (d a : VName) (s : State) : Res := s.vfpOne g d a fpRsq
/-- Table 10-2: vfexp2. -/
def execVfexp2 (g : Guard) (d a : VName) (s : State) : Res := s.vfpOne g d a fpExp2
/-- Table 10-2: vflog2. -/
def execVflog2 (g : Guard) (d a : VName) (s : State) : Res := s.vfpOne g d a fpLog2
/-- Table 10-2: vfabs. -/
def execVfabs (g : Guard) (d a : VName) (s : State) : Res := s.vfpOne g d a fpAbs
/-- Table 10-2: vfneg. -/
def execVfneg (g : Guard) (d a : VName) (s : State) : Res := s.vfpOne g d a fpNeg
/-- Table 10-2: vfnma. -/
def execVfnma (rm : BitVec 2) (g : Guard) (d a b : VName) (s : State) : Res := s.vfp rm g d a b 8 fpFnma
/-- Table 10-2: vfadd, immediate. -/
def execVfaddImm (rm : BitVec 2) (g : Guard) (d a : VName) (i : BitVec 16) (s : State) : Res := s.vfpImm rm g d a i fpAdd
/-- Table 10-2: vfsub, immediate. -/
def execVfsubImm (rm : BitVec 2) (g : Guard) (d a : VName) (i : BitVec 16) (s : State) : Res := s.vfpImm rm g d a i fpSub
/-- Table 10-2: vfmul, immediate. -/
def execVfmulImm (rm : BitVec 2) (g : Guard) (d a : VName) (i : BitVec 16) (s : State) : Res := s.vfpImm rm g d a i fpMul
/-- Table 10-2: vfmin, immediate. -/
def execVfminImm (rm : BitVec 2) (g : Guard) (d a : VName) (i : BitVec 16) (s : State) : Res := s.vfpImm rm g d a i fpMin
/-- Table 10-2: vfmax, immediate. -/
def execVfmaxImm (rm : BitVec 2) (g : Guard) (d a : VName) (i : BitVec 16) (s : State) : Res := s.vfpImm rm g d a i fpMax
/-- Table 10-2: vfma, immediate. -/
def execVfmaImm (rm : BitVec 2) (g : Guard) (d a : VName) (i : BitVec 16) (s : State) : Res := s.vfpImm rm g d a i fpFma
/-- Table 10-2: vfms, immediate. -/
def execVfmsImm (rm : BitVec 2) (g : Guard) (d a : VName) (i : BitVec 16) (s : State) : Res := s.vfpImm rm g d a i fpFms
/-- Table 10-2: vfdiv, immediate. -/
def execVfdivImm (rm : BitVec 2) (g : Guard) (d a : VName) (i : BitVec 16) (s : State) : Res := s.vfpImm rm g d a i fpDiv
/-- Table 10-2: vfnma, immediate. -/
def execVfnmaImm (rm : BitVec 2) (g : Guard) (d a : VName) (i : BitVec 16) (s : State) : Res := s.vfpImm rm g d a i fpFnma

/-- VHALF (R258): both elements of each enabled lane. -/
def State.vhalf (s : State) (fmt : BitVec 4) (rm : RMode) (sat : BitVec 1) (g : Guard) (d a b : VName) (f : FpOp) : Res :=
  let op := f (ieeeOf fmt) rm (sat == 1)
  s.fpLanes g d [a, b] 8 fun i =>
    let x := (s.lane d i).toNat
    let y := (s.lane a i).toNat
    let z := (s.lane b i).toNat
    let lo := op (x % 2 ^ 16) (y % 2 ^ 16) (z % 2 ^ 16)
    let hi := op (x / 2 ^ 16) (y / 2 ^ 16) (z / 2 ^ 16)
    (hi.1 * 2 ^ 16 + lo.1, hi.2 ||| lo.2)

/-- R258: vhadd. -/
def execVhadd (f : BitVec 4) (rm : BitVec 2) (sat : BitVec 1) (g : Guard) (d a b : VName) (s : State) : Res :=
  s.vhalf f rm sat g d a b fpAdd
/-- R258: vhsub. -/
def execVhsub (f : BitVec 4) (rm : BitVec 2) (sat : BitVec 1) (g : Guard) (d a b : VName) (s : State) : Res :=
  s.vhalf f rm sat g d a b fpSub
/-- R258: vhmul. -/
def execVhmul (f : BitVec 4) (rm : BitVec 2) (sat : BitVec 1) (g : Guard) (d a b : VName) (s : State) : Res :=
  s.vhalf f rm sat g d a b fpMul
/-- R258: vhmin. -/
def execVhmin (f : BitVec 4) (rm : BitVec 2) (sat : BitVec 1) (g : Guard) (d a b : VName) (s : State) : Res :=
  s.vhalf f rm sat g d a b fpMin
/-- R258: vhmax. -/
def execVhmax (f : BitVec 4) (rm : BitVec 2) (sat : BitVec 1) (g : Guard) (d a b : VName) (s : State) : Res :=
  s.vhalf f rm sat g d a b fpMax
/-- R258: vhfma. -/
def execVhfma (f : BitVec 4) (rm : BitVec 2) (sat : BitVec 1) (g : Guard) (d a b : VName) (s : State) : Res :=
  s.vhalf f rm sat g d a b fpFma

end Sys2Proof.Machine
end

