-- ==== Sys2Proof/Machine/Vcvt.lean ====
section
/-!
DEFINITION. VCVT, VCVT.PK, VCVT.UPK and VCMP (10 R259 to R262).
-/
namespace Sys2Proof.Machine

/-- A converted code placed in a lane (R260): signed integers sign-extended, every other result zero-extended. -/
def placeFmt (f : BitVec 4) (c : Nat) : Lane :=
  match f.toNat with
  | 1 | 2 | 3 | 5 => BitVec.ofInt 32 (decodeInt f c)
  | _ => BitVec.ofNat 32 c

/-- R260: VCVT, lane by lane, from the low bits of the source lane. -/
def execVcvt (f f2 : BitVec 4) (rm : BitVec 2) (sat : BitVec 1) (g : Guard) (d a : VName) (s : State) : Res :=
  s.fpLanes g d [a] 8 fun i =>
    let r := convert f f2 rm (sat == 1) ((s.lane a i).toNat % 2 ^ formatWidth f2)
    ((placeFmt f r.1).toNat, r.2)

/-- The 2,048 bits of a register with part J replaced by 64 elements of width w (R261). -/
def packPart (old : VReg) (w j : Nat) (f : Nat → Nat) : VReg :=
  let part := (upto 64).foldr (fun i acc => acc * 2 ^ w + f i % 2 ^ w) 0
  let mask : VReg := BitVec.ofNat 2048 (2 ^ (64 * w) - 1) <<< (j * 64 * w)
  (old &&& ~~~mask) ||| (BitVec.ofNat 2048 part <<< (j * 64 * w))

/-- R261: VCVT.PK converts the 64 lanes and packs the results into part J; the other bits stay. -/
def execVcvtPk (f f2 : BitVec 4) (rm : BitVec 2) (sat : BitVec 1) (j : BitVec 5) (d a : VName) (s : State) : Res :=
  let r (i : Nat) : Nat × Flags := convert f f2 rm (sat == 1) ((s.lane a i).toNat % 2 ^ formatWidth f2)
  s.vector 0 [d, a] []
    (.next (((s.setCur (s.cur.setV d (packPart (s.cur.vreg d) (formatWidth f) j.toNat fun i => (r i).1))).raiseFlags
      (laneFlags (-1) fun i => (r i).2)).complete 8))

/-- R261: VCVT.UPK unpacks part J and converts its elements. -/
def execVcvtUpk (f f2 : BitVec 4) (rm : BitVec 2) (sat : BitVec 1) (j : BitVec 5) (d a : VName) (s : State) : Res :=
  let w := formatWidth f2
  let v := s.cur.vreg a
  s.fpLanes 0 d [a] 8 fun i =>
    let r := convert f f2 rm (sat == 1) (v.extractLsb' (j.toNat * 64 * w + i * w) w).toNat
    ((placeFmt f r.1).toNat, r.2)

/-! ### Compares -/

/-- The element of a lane a compare reads: IMM[0] picks the half for FP16 and BF16 (R262). -/
def cmpElement (f : BitVec 4) (hi : BitVec 1) (x : Lane) : Nat :=
  if f = 12 || f = 13 then (if hi = 1 then x.toNat / 2 ^ 16 else x.toNat % 2 ^ 16) else x.toNat

/-- The enabled bits of pd set to the truth of a condition, and its flags raised (R262). -/
def State.compare (s : State) (g : Guard) (p : PName) (a b : VName) (len : Nat) (f : Lane → Lane → Bool × Flags) : Res :=
  let m := s.cur.mask g
  let r (i : Nat) : Bool × Flags := f (s.lane a i) (s.lane b i)
  let old := s.cur.preg p
  let new := (upto 64).foldl (fun w i =>
    if m.getLsbD i then (if (r i).1 then w ||| (1#64 <<< i) else w &&& ~~~(1#64 <<< i)) else w) old
  s.vector g [a, b] [p] (.next (((s.setCur (s.cur.setP p new)).raiseFlags (laneFlags m fun i => (r i).2)).complete len))

/-- An integer compare sets no flag. -/
def State.intCompare (s : State) (g : Guard) (p : PName) (a b : VName) (len : Nat) (f : Lane → Lane → Bool) : Res :=
  s.compare g p a b len fun x y => (f x y, 0)

/-- Signed below. -/
def laneLt (a b : Lane) : Bool := a.toInt < b.toInt
/-- Signed at most. -/
def laneLe (a b : Lane) : Bool := a.toInt ≤ b.toInt

/-- A compare of a listed format: INT32 by `fi`, a float format by `ff` on keys with −0 = +0, `nan` and its flags when
either operand is NaN (R262). -/
def State.fmtCompare (s : State) (f : BitVec 4) (hi : BitVec 1) (g : Guard) (p : PName) (a b : VName)
    (fi : Lane → Lane → Bool) (ff : Int → Int → Bool) (nan : Bool) (nanFlags : Flags) : Res :=
  s.compare g p a b 8 fun x y =>
    if f = 6 then (fi x y, 0)
    else
      let t := ieeeOf f
      let u := cmpElement f hi x
      let v := cmpElement f hi y
      if t.isNan u || t.isNan v then (nan, nanFlags) else (ff (t.key u) (t.key v), 0)

/-- R262: vcmp.eq, INT32. -/
def execVcmpEq (g : Guard) (p : PName) (a b : VName) (s : State) : Res := s.intCompare g p a b 4 (· == ·)
/-- R262: vcmp.ne, INT32. -/
def execVcmpNe (g : Guard) (p : PName) (a b : VName) (s : State) : Res := s.intCompare g p a b 4 (· != ·)
/-- R262: vcmp.lt, INT32, signed. -/
def execVcmpLt (g : Guard) (p : PName) (a b : VName) (s : State) : Res := s.intCompare g p a b 4 laneLt
/-- R262: vcmp.le, INT32, signed. -/
def execVcmpLe (g : Guard) (p : PName) (a b : VName) (s : State) : Res := s.intCompare g p a b 4 laneLe
/-- R262: EQ of a listed format. -/
def execVcmpEqFmt (f : BitVec 4) (hi : BitVec 1) (g : Guard) (p : PName) (a b : VName) (s : State) : Res :=
  s.fmtCompare f hi g p a b (· == ·) (· == ·) false 0
/-- R262: NE of a listed format: NaN is unequal to everything. -/
def execVcmpNeFmt (f : BitVec 4) (hi : BitVec 1) (g : Guard) (p : PName) (a b : VName) (s : State) : Res :=
  s.fmtCompare f hi g p a b (· != ·) (· != ·) true 0
/-- R262: LT of a listed format; a NaN operand sets NV. -/
def execVcmpLtFmt (f : BitVec 4) (hi : BitVec 1) (g : Guard) (p : PName) (a b : VName) (s : State) : Res :=
  s.fmtCompare f hi g p a b laneLt (fun x y => decide (x < y)) false fNV
/-- R262: LE of a listed format; a NaN operand sets NV. -/
def execVcmpLeFmt (f : BitVec 4) (hi : BitVec 1) (g : Guard) (p : PName) (a b : VName) (s : State) : Res :=
  s.fmtCompare f hi g p a b laneLe (fun x y => decide (x ≤ y)) false fNV
/-- R262: vcmp.lt.u. -/
def execVcmpLtU (g : Guard) (p : PName) (a b : VName) (s : State) : Res := s.intCompare g p a b 8 BitVec.ult
/-- R262: vcmp.le.u. -/
def execVcmpLeU (g : Guard) (p : PName) (a b : VName) (s : State) : Res := s.intCompare g p a b 8 BitVec.ule
/-- R262: UN: either operand is NaN. -/
def execVcmpUn (f : BitVec 4) (hi : BitVec 1) (g : Guard) (p : PName) (a b : VName) (s : State) : Res :=
  s.fmtCompare f hi g p a b (fun _ _ => false) (fun _ _ => false) true 0
/-- R262: ORD: neither operand is NaN. -/
def execVcmpOrd (f : BitVec 4) (hi : BitVec 1) (g : Guard) (p : PName) (a b : VName) (s : State) : Res :=
  s.fmtCompare f hi g p a b (fun _ _ => false) (fun _ _ => true) false 0

end Sys2Proof.Machine
end

