-- ==== Sys2Proof/Machine/Vperm.lean ====
section
/-!
DEFINITION. VPERM: moves, permutes and reductions (10 R263, R264, Table 10-3).
-/
namespace Sys2Proof.Machine

/-- Table 10-3: vmov. -/
def execVmov (g : Guard) (d a : VName) (s : State) : Res := s.intLanes g d [a] 4 fun i => s.lane a i

/-- Table 10-3: vsel. -/
def execVsel (n : PName) (g : Guard) (d a b : VName) (s : State) : Res :=
  let p := s.cur.preg n
  s.vector g [d, a, b] [n]
    (.next ((s.putLanes d (s.cur.mask g) fun i => if p.getLsbD i then s.lane a i else s.lane b i).complete 8))

/-- Table 10-3: vperm. -/
def execVperm (g : Guard) (d a b : VName) (s : State) : Res :=
  s.intLanes g d [a, b] 8 fun i => s.lane a ((s.lane b i).toNat % 64)

/-- Table 10-3: vbcast. -/
def execVbcast (n : BitVec 6) (g : Guard) (d a : VName) (s : State) : Res :=
  s.intLanes g d [a] 8 fun _ => s.lane a n.toNat

/-- Table 10-3: vshup. -/
def execVshup (n : BitVec 6) (g : Guard) (d a b : VName) (s : State) : Res :=
  s.intLanes g d [a, b] 8 fun i => if n.toNat ≤ i then s.lane a (i - n.toNat) else s.lane b (64 - n.toNat + i)

/-- Table 10-3: vshdn. -/
def execVshdn (n : BitVec 6) (g : Guard) (d a b : VName) (s : State) : Res :=
  s.intLanes g d [a, b] 8 fun i => if i + n.toNat < 64 then s.lane a (i + n.toNat) else s.lane b (i + n.toNat - 64)

/-- Table 10-3: vidx. -/
def execVidx (i : BitVec 16) (g : Guard) (d : VName) (s : State) : Res :=
  s.intLanes g d [] 8 fun k => immLane i + BitVec.ofNat 32 k

/-- The reduction of R264: vb[0], then all 64 lanes of va in ascending order, with the flags of every step. -/
def State.reduce (s : State) (a b : VName) (f : Nat → Nat → Nat × Flags) : Nat × Flags :=
  (upto 64).foldl (fun acc j =>
    let r := f acc.1 (s.lane a j).toNat
    (r.1, acc.2 ||| r.2)) ((s.lane b 0).toNat, 0)

/-- A reduction written to every enabled lane; with no enabled lane it writes nothing and raises no flag (R264). -/
def State.reduction (s : State) (g : Guard) (d a b : VName) (f : Nat → Nat → Nat × Flags) : Res :=
  let r := s.reduce a b f
  s.fpLanes g d [a, b] 8 fun _ => r

/-- An integer step of a reduction. -/
def intStep (f : Lane → Lane → Lane) (r x : Nat) : Nat × Flags := ((f (BitVec.ofNat 32 r) (BitVec.ofNat 32 x)).toNat, 0)

/-- R264: vredadd. -/
def execVredadd (g : Guard) (d a b : VName) (s : State) : Res := s.reduction g d a b (intStep (· + ·))
/-- R264: vredmin. -/
def execVredmin (g : Guard) (d a b : VName) (s : State) : Res := s.reduction g d a b (intStep laneMin)
/-- R264: vredmax. -/
def execVredmax (g : Guard) (d a b : VName) (s : State) : Res := s.reduction g d a b (intStep laneMax)
/-- R264: vfredadd, 64 roundings in ascending order. -/
def execVfredadd (rm : BitVec 2) (g : Guard) (d a b : VName) (s : State) : Res := s.reduction g d a b (fpAdd fp32 rm false 0)
/-- R264: vfredmin. -/
def execVfredmin (g : Guard) (d a b : VName) (s : State) : Res := s.reduction g d a b (fpMin fp32 0 false 0)
/-- R264: vfredmax. -/
def execVfredmax (g : Guard) (d a b : VName) (s : State) : Res := s.reduction g d a b (fpMax fp32 0 false 0)

/-- Table 10-3: vbcasts: s[a][31:0] of the execute stream. -/
def execVbcasts (g : Guard) (d : VName) (a : Reg) (s : State) : Res :=
  s.intLanes g d [] 8 fun _ => (s.rd a).setWidth 32

end Sys2Proof.Machine
end

