-- ==== Sys2Proof/Machine/Vqt.lean ====
section
/-!
DEFINITION. The execute stream's data queues and tile rows (10 R269 to R272; tile states, 03 R56, Table 3-5), and BRC
(10 R265, R266).
-/
namespace Sys2Proof.Machine

/-- R269: VPOP. -/
def execVpop (g : Guard) (d : VName) (q : BitVec 6) (s : State) : Res :=
  let n := q.toNat
  s.vector g [d] []
    (.next (if s.emptyQ n then s.stallOn 2
            else (((s.popQ n).putLanes d (s.cur.mask g) fun i => laneOf (s.queue n).front i).complete 4)))

/-- R269: VPUSH: a disabled lane of the entry is 0. -/
def execVpush (g : Guard) (a : VName) (q : BitVec 6) (s : State) : Res :=
  let n := q.toNat
  s.vector g [a] []
    (.next (if s.fullQ n then s.stallOn 1 else (s.pushQ n (mergeLanes 0 (s.cur.mask g) fun i => s.lane a i)).complete 4))

/-- A tile of the current strand. -/
def State.tile (s : State) (t : Nat) : Tile := vget s.cur.tiles t Tile.none

/-- A tile of the current strand replaced. -/
def State.setTile (s : State) (t : Nat) (x : Tile) : State :=
  s.setCur { s.cur with tiles := s.cur.tiles.setIfInBounds t x }

/-- Whether the execute stream holds the claim of a tile (R56). -/
def TileState.isX (t : TileState) : Bool := t == .claimed 0

/-- A row of a tile: element j is lane j (R270). -/
def Tile.row (t : Tile) (r : Nat) : VReg := BitVec.ofNat 2048 (t.data.nat (256 * r) 256)

/-- A tile with a row replaced. -/
def Tile.setRow (t : Tile) (r : Nat) (v : VReg) : Tile :=
  { t with data := t.data.blit (256 * r) (natLe 256 v.toNat) }

/-- The row a scalar register names (R270). -/
def State.tileRow (s : State) (a : Reg) : Nat := (s.rd a).toNat % 64

/-- R271: TROW. -/
def execTrow (g : Guard) (d : VName) (a : Reg) (t : BitVec 4) (s : State) : Res :=
  let x := s.tile t.toNat
  s.vector g [d] []
    (.next (if x.st = .full then (s.putLanes d (s.cur.mask g) fun j => laneOf (x.row (s.tileRow a)) j).complete 4
            else s.stallOn 3))

/-- R271: TWROW: an EMPTY tile becomes CLAIMED by X (Table 3-5). -/
def execTwrow (g : Guard) (d : VName) (a : Reg) (t : BitVec 4) (s : State) : Res :=
  let x := s.tile t.toNat
  let r := s.tileRow a
  s.vector g [d] []
    (.next (if x.st = .empty || x.st.isX then
              (s.setTile t.toNat { x.setRow r (mergeLanes (x.row r) (s.cur.mask g) fun j => s.lane d j) with
                                   st := .claimed 0 }).complete 4
            else s.stallOn 4))

/-- R271: TEMPTY. -/
def execTempty (t : BitVec 4) (s : State) : Res :=
  let x := s.tile t.toNat
  s.vector 0 [] []
    (.next (match x.st with
      | .empty => s.complete 4
      | .claimed _ => s.stallOn 3
      | .full => (s.setTile t.toNat { x with st := .empty }).complete 4))

/-- R271: TFILL. -/
def execTfill (t : BitVec 4) (s : State) : Res :=
  let x := s.tile t.toNat
  s.vector 0 [] []
    (.next (match x.st with
      | .full => s.complete 4
      | st => if st = .empty || st.isX then (s.setTile t.toNat { x with st := .full }).complete 4 else s.stallOn 4))

/-- R271: TWAIT. -/
def execTwait (t : BitVec 4) (s : State) : Res :=
  s.vector 0 [] [] (.next (if (s.tile t.toNat).st = .full then s.complete 4 else s.stallOn 3))

/-! ### BRC -/

/-- VRB and PRB turned by one (R53, R266). -/
def Strand.rotate (k : Strand) : Strand := { k with vrb := k.vrb - 1, prb := k.prb - 1 }

/-- R266: the completion of a BRC, taken or not: `k` writes the count or pops the queue. -/
def State.closeLoop (s : State) (taken : Bool) (o : Off11) (k : State → State) : Res :=
  let after (t : State) : State := let u := k t; u.setCur u.cur.rotate
  .next (if taken then s.transfer (s.target o) false after else (after s).complete (off11Len o))

/-- R266: BRC on a count. -/
def execBrc (a : Reg) (o : Off11) (s : State) : Res :=
  let n := s.rd a - 1
  s.only .x (s.closeLoop (n != 0) o fun t => t.wr a n)

/-- R266: BRC.Q pops bqx. -/
def execBrcQ (o : Off11) (s : State) : Res :=
  s.only .x (if s.emptyQ 12 then .next (s.stallOn 2)
             else s.closeLoop ((s.queue 12).front.getLsbD 0) o fun t => t.popQ 12)

end Sys2Proof.Machine
end

