-- ==== Sys2Proof/Machine/Engine.lean ====
section
/-!
DEFINITION. The engines' own steps (06 R139 to R152; 11 R281, R282, R294; 03 R56, R57): handing cards to units, emitting
blocks, reading partial buffers, claiming tiles, moving bytes, barrier arrivals, retirement, and faults of running jobs.
-/
namespace Sys2Proof.Machine

/-- Whether the strand's jobs stand still: a hang trap holds them (R74), and so does a restored strand that the scheduler
has not started (R348). -/
def State.jobsHeld (s : State) : Bool := !s.cur.resident || s.cur.hung || s.cur.parked

/-- The cards of a unit in issue order (R151). -/
def Strand.unitCards (k : Strand) : JobUnit → List Card
  | .mul => k.jobs.thq.filter Card.isMul
  | .port => k.jobs.thq.filter fun c => !c.isMul
  | .copy => k.jobs.cpq

/-- The queue of a unit. -/
def Strand.unitQueue (k : Strand) : JobUnit → List Card
  | .copy => k.jobs.cpq
  | _ => k.jobs.thq

/-- A card held by a fault of its queue (R294). -/
def cardHeld (q : List Card) (c : Card) : Bool := q.any fun e => e.phase == .faulted && e.ord ≤ c.ord

/-- The card of an ordinal replaced in its queue; a thresher card that finishes takes the next place in the order in which
they finish (R152). -/
def Strand.setCard (k : Strand) (copy : Bool) (c : Card) : Strand :=
  let next := (k.jobs.thq.foldl (fun n e => max n e.fin) 0) + 1
  let put (e : Card) : Card :=
    if e.ord != c.ord then e
    else if !copy && c.phase == .finished && e.phase != .finished then { c with fin := next } else c
  { k with jobs := if copy then { k.jobs with cpq := k.jobs.cpq.map put } else { k.jobs with thq := k.jobs.thq.map put } }

/-- The card replaced. -/
def State.setCard (s : State) (copy : Bool) (c : Card) : State := s.setCur (s.cur.setCard copy c)

/-- Whether a unit is the copy engine. -/
def unitIsCopy : JobUnit → Bool
  | .copy => true
  | _ => false

/-! ### Handing over -/

/-- Whether no dependence keeps a card from starting (R95, R96). -/
def State.free_ (s : State) (u : JobUnit) (c : Card) : Bool := s.cur.clear c && !s.cardWaits (unitIsCopy u) c

/-- The card a unit may take now, when the unit is free (the copy engine runs four jobs), no fault holds the card and its
dependences are clear (R95, R96, R151): of a thresher unit only the oldest card of the queue not yet handed; the copy
engine takes the oldest whose dependences are clear (assumption log 74). -/
def State.handoff (s : State) (u : JobUnit) : Option Card :=
  if s.jobsHeld then none
  else
    let q := s.cur.unitQueue u
    match q.find? fun c => c.phase == .queued && (!unitIsCopy u || s.free_ u c) with
    | none => none
    | some c =>
      let mine := (s.cur.unitCards u).any fun e => e.ord == c.ord
      let busy := match u with
        | .copy => 4 ≤ ((q.filter fun e => e.phase == .running).length)
        | _ => (s.cur.unitCards u).any fun e => e.phase != .queued
      if mine && !busy && !cardHeld q c && s.free_ u c then some c else none

/-- R151: a card goes to its unit. -/
def execJobHandoff (u : JobUnit) (s : State) : Res :=
  match s.handoff u with
  | some c => .next (s.setCard (unitIsCopy u) { c with phase := .running })
  | none => .next s

/-- The running card of a thresher unit. -/
def State.running (s : State) (u : JobUnit) : Option Card :=
  if s.jobsHeld then none
  else (s.cur.unitCards u).find? fun c => c.phase == .running && !cardHeld (s.cur.unitQueue u) c

/-! ### Blocks and partial buffers -/

/-- The running nest and what its next body does. -/
def State.nextBody (s : State) : Option (Card × BodyOut) :=
  match s.running .mul with
  | some c => if c.kind.toNat ≤ 2 then some (c, c.runBody s.cur) else none
  | none => none

/-- R137, R138, R140: the next block of the running nest is computed and emitted; one for a partial buffer starts once that
is EMPTY. -/
def execBlockEmit (s : State) : Res :=
  match s.nextBody with
  | some (c, .done k f) => .next ((s.setCur k).setCard false (c.afterBody f))
  | some (_, .filling k) => .next (s.setCur k)
  | _ => .next s

/-- An access of a thresher job to its strand's LS (space 1) or granary (space 2). -/
structure JobAccess where
  write : Bool
  space : Nat
  off : Nat
  n : Nat
  deriving DecidableEq, Repr

/-- The accesses of the next step of a PLANE, SACC, DRAIN or GCLR, in their order, but those that R282 excepts. -/
def Card.accesses (c : Card) : List JobAccess :=
  match c.kind.toNat with
  | 3 =>
    let grp := (vget c.nest 0 0).toNat
    let toElems := c.fb.getLsbD 0
    let w := formatWidth c.fa
    let gs := groupSize c.fa (c.nat 0xB4)
    let rows : List JobAccess := (upto (c.nat 0xB4 / 2)).map fun r =>
      { write := toElems, space := 1, off := c.nat 0xB0 + r * c.nat 0xB1 + 2 * w * grp, n := 2 * w }
    let group : JobAccess := { write := !toElems, space := 1, off := c.nat 0xB2 + grp * gs, n := gs }
    if toElems then group :: rows else rows ++ [group]
  | 4 => (upto 64).map fun i =>
    { write := true, space := 2, off := saccAcc c.operand + i * saccPitch c.operand, n := 256 }
  | 5 => (upto 64).flatMap fun i =>
    let src (write : Bool) : JobAccess := { write := write, space := 2, off := c.nat 0xA0 + i * c.nat 0xA1, n := 256 }
    [src false] ++
      (if c.dctl 7 then [{ write := false, space := 1, off := c.nat 0xA4 + i * c.nat 0xA5, n := 8 * formatWidth c.fb }] else []) ++
      (if c.dctl 6 then [] else [{ write := true, space := 1, off := c.nat 0xA2 + i * c.nat 0xA3, n := 8 * formatWidth c.fa }]) ++
      (if c.dctl 3 then [src true] else [])
  | 6 => [{ write := true, space := 2, off := gclrOff c.operand, n := gclrLen c.operand }]
  | _ => []

/-- Whether an address lies in a tile's OM window, whose fills the tile states govern (R56, R282). -/
def inTileObject (a : Word) : Bool := (a.toNat / 2 ^ 56 == 3 || a.toNat / 2 ^ 56 == 4) && a.toNat / 2 ^ 24 % 16 == 4

/-- The first access of the next step of a job other than a nest that its card does not allow (R98, R282). A step looks at
all of its accesses before it performs one (DESIGN CHOICE, assumption log 92). -/
def Card.outside (c : Card) : Option Word :=
  if c.kind = 8 then
    let n := c.nat 0x82
    ((c.srcRows.find? fun a => !c.covers false a n).or (c.dstRows.find? fun a => !inTileObject a && !c.covers true a n)).or
      (if c.field 0x8B != 0 && !c.covers true (c.field 0x8B) 16 then some (c.field 0x8B) else none)
  else (c.accesses.find? fun a => !c.allows a.write a.space a.off a.n).map fun a => spaceAddr a.space a.off

/-- The running SACC and the buffer it reads, when that is FULL, or DRAINING by it (R140, R144). -/
def State.saccReady (s : State) : Option (Card × Nat) :=
  match s.running .port with
  | some c =>
    let buf := pairBuffer (saccPair c.operand) s.cur.cptr
    if c.kind = 4 && (vget s.cur.pbst buf 0 == 2 || vget s.cur.pbst buf 0 == 3) then some (c, buf) else none
  | none => none

/-- R140, R144: an SACC starts reading its FULL buffer, which is then DRAINING; with its last word it has scaled it into the
accumulator and leaves it EMPTY. -/
def execSaccBufferRead (s : State) : Res :=
  match s.saccReady with
  | some (c, buf) =>
    if c.outside.isSome then .next s
    else if vget s.cur.pbst buf 0 = 2 then
      .next ((s.setCur { s.cur with pbst := s.cur.pbst.setIfInBounds buf 3 }).setCard false { c with started := true })
    else
      let r := c.saccRun s.cur.gr buf
      let k := { s.cur with gr := r.1, pbst := s.cur.pbst.setIfInBounds buf 0
                            cptr := s.cur.cptr ^^^ (1#2 <<< saccPair c.operand) }
      .next ((s.setCur k).setCard false { c with phase := .finished, started := true, flags := c.flags ||| r.2 })
  | none => .next s

/-! ### Tile ports -/

/-- The parts of rows of a copy, or none while a page of one moves (R87, R364). -/
def State.rowParts (s : State) (c : Card) : List Word → Option (List (Word × List Piece))
  | [] => some []
  | a :: rest => match s.jobParts c.target a (splits a (c.nat 0x82)) with
    | .ok ps => (s.rowParts c rest).map fun rs => (a, ps) :: rs
    | _ => none

/-- The parts of the rows of a copy on one side. -/
def State.copyParts (s : State) (c : Card) (rows : List Word) : List (Word × List Piece) := (s.rowParts c rows).getD []

/-- Whether no page of a copy moves. -/
def State.copySettled (s : State) (c : Card) : Bool := (s.rowParts c c.srcRows).isSome && (s.rowParts c c.dstRows).isSome

/-- The tile a place lies in, as the place of its first byte. -/
def Loc.tileBase : Loc → Option Loc
  | .own 4 off => some (.own 4 (off / 16384 * 16384))
  | .peer d t x 4 off => some (.peer d t x 4 (off / 16384 * 16384))
  | _ => none

/-- The tiles a running card fills (R56). -/
def State.fillTiles (s : State) (c : Card) : List Loc :=
  if c.kind = 5 then (if c.dctl 6 then [.own 4 (c.nat 0xA2 * 16384)] else [])
  else if c.kind = 8 then
    ((s.copyParts c c.dstRows).flatMap fun r => r.2.filterMap fun p => p.hit.loc.tileBase).eraseDups
  else []

/-- A tile at a place. -/
def State.tileAt (s : State) : Loc → Tile
  | .own _ off => s.tile (off / 16384)
  | .peer d t x _ off => match s.findPeer d t x with
    | some k => vget k.tiles (off / 16384) Tile.none
    | none => Tile.none
  | .phys _ => Tile.none

/-- A tile at a place given a state. -/
def State.setTileSt (s : State) (l : Loc) (st : TileState) : State :=
  let set (k : Strand) (n : Nat) : Strand := { k with tiles := k.tiles.setIfInBounds n { vget k.tiles n Tile.none with st := st } }
  match l with
  | .own _ off => s.setCur (set s.cur (off / 16384))
  | .peer d t x _ off => (s.updPeer d t x fun k => set k (off / 16384)).writeSaved d t x (0x44F80 + 4 * (off / 16384)) (natLe 4 st.word.toNat)
  | .phys _ => s

/-- The claiming source of a card at a tile (Table 15-15). -/
def claimSource (c : Card) : Loc → BitVec 3
  | .own _ _ => if c.kind = 5 then 1 else 2
  | _ => 3

/-- The running card of a port and the number of the first tile it still has to claim that is EMPTY (R56, R57). -/
def State.claimable (s : State) (u : FillPort) : Option (Card × Nat × Loc) :=
  let first (c : Card) : Option (Card × Nat × Loc) :=
    ((upto (s.fillTiles c).length).zip (s.fillTiles c)).findSome? fun p =>
      if !c.claims.contains p.1 && (s.tileAt p.2).st == .empty then some (c, p.1, p.2) else none
  if s.jobsHeld then none
  else match u with
    | .drain => match s.running .port with
      | some c => if c.kind = 5 then first c else none
      | none => none
    | .copy => (s.cur.jobs.cpq.filter fun c => c.phase == .running && !cardHeld s.cur.jobs.cpq c).findSome? first
    | .remote _ => none

/-- A waiting delivery whose tile is EMPTY. -/
def State.fillReady (s : State) (k : Nat) : Option TileFill :=
  match s.cur.jobs.fills[k]? with
  | some f => if s.cur.resident && (s.tile f.tile).st == .empty then some f else none
  | none => none

/-- R56, R57: a fill source waiting at a tile port claims its EMPTY tile; a delivery of a mailbox fills it whole. -/
def execTilePortClaim (u : FillPort) (s : State) : Res :=
  match u with
  | .remote k => match s.fillReady k with
    | some f =>
      let x := s.tile f.tile
      let t := s.setTile f.tile { st := .full, data := x.data.scatter f.bytes }
      .next (t.setCur { t.cur with jobs := { t.cur.jobs with fills := t.cur.jobs.fills.eraseIdx k } })
    | none => .next s
  | _ => match s.claimable u with
    | some (c, n, l) =>
      .next ((s.setTileSt l (.claimed (claimSource c l))).setCard (c.kind == 8) { c with claims := n :: c.claims, started := true })
    | none => .next s

/-! ### Moving bytes -/

/-- The address of byte t of a copy on one side. -/
def Card.byteAddr (c : Card) (rows : List Word) (t : Nat) : Word := rows.getD (t / c.nat 0x82) 0 + BitVec.ofNat 64 (t % c.nat 0x82)

/-- The parts of one side of a copy, each with the address of its row, its start counted from the copy's first byte. -/
def State.copyPieces (s : State) (c : Card) (rows : List Word) : List (Word × Piece) :=
  let parts := s.copyParts c rows
  ((upto parts.length).zip parts).flatMap fun r => r.2.2.map fun p => (r.2.1, { p with start := r.1 * c.nat 0x82 + p.start })

/-- A part of a copy's request: a physical address under the grant is the target strand's (R149). -/
def ReqPart.under (q : ReqPart) (c : Card) (ea : Word) : ReqPart :=
  if ea.toNat / 2 ^ 56 == 4 then { q with strand := c.target } else q

/-- What a copy reads by requests to its owners, as loads do (R367). -/
def State.copyGets (s : State) (c : Card) : List ReqPart :=
  (s.copyPieces c c.srcRows).flatMap fun r => (s.loadParts [r.2]).map fun q => q.under c r.1

/-- Whether a copy writes a place by a request to its owner: a direct place, and a granary word of another die that it adds
to (R142, R367). -/
def Card.sends (c : Card) (h : Hit) : Bool := h.remote && !h.irr && (!h.cached || c.nat 0x89 != 0)

/-- What a copy writes by requests to its owners; a speculative run writes its bivouac alone (R401). -/
def State.copyPuts (s : State) (c : Card) : List (Word × Piece) :=
  if s.cur.spec.isSome then [] else (s.copyPieces c c.dstRows).filter fun r => c.sends r.2.hit

/-- The owners a list of parts goes to. -/
def partPeers (ps : List ReqPart) : List Nat := (ps.map fun p => p.key / 2 ^ 52).eraseDups

/-- Whether the current die has a free tag for each of `n` requests (R370). -/
def State.tagsFor (s : State) (n : Nat) : Bool := n + s.myDie.requests.length ≤ 4096

/-- The requests of a copy job, one for each owner (assumption log 90): the machine and their tags. -/
def State.sendJobs (s : State) (c : Card) (kind : BitVec 2) (rows : List Word) (bytes : List Byte) (ps : List ReqPart) :
    State × List Nat :=
  (partPeers ps).foldl (fun (acc : State × List Nat) peer =>
    let mine := ps.filter fun p => p.key / 2 ^ 52 == peer
    match acc.1.freeTag with
    | none => acc
    | some tag =>
      let r := acc.1.newRequest tag kind mine bytes false 0 (c.byteAddr rows ((mine.head?.map (·.start)).getD 0))
      (acc.1.addRequest { r with job := true, mode := if kind == 1 then c.nat 0x89 else 0 }, acc.2 ++ [tag])) (s, [])

/-- The requests that a copy waits for. -/
def State.copyRequests (s : State) (c : Card) : List Request := c.tags.filterMap s.myDie.request

/-- Whether every request of a copy is answered. -/
def State.copyAnswered (s : State) (c : Card) : Bool := (s.copyRequests c).all (·.replied)

/-- The poisoned lines a copy would read or has read, with the first faulting address (R294, R420). -/
def State.copyPoison (s : State) (c : Card) : Option (Word × List Nat) :=
  if c.tags.isEmpty then
    (s.copyParts c c.srcRows).findSome? fun r => match s.poisonHere r.2 with
      | [] => none
      | ls => some (s.poisonAddr r.1 (r.2.filter fun p => !p.hit.remote), ls)
  else (s.copyRequests c).findSome? fun r => match r.poison with
    | [] => none
    | ls =>
      let first := r.parts.findSome? fun p =>
        ((linesOf p.key p.len).find? r.poison.contains).map fun l => p.start + (max (l * 64) p.key - p.key)
      some (c.byteAddr c.srcRows (first.getD 0), ls)

/-- The bytes a copy reads, all before any is written (R148): those of its answers in their places. -/
def State.copySource (s : State) (c : Card) : List Byte :=
  (s.copyRequests c).foldl (fun bs r =>
    let got := s.ownWrites r
    r.parts.foldl (fun bs p => spliceAt bs p.start ((got.drop p.start).take p.len)) bs)
    ((s.copyParts c c.srcRows).flatMap fun r => s.loadBytes r.2)

/-- What a copy's reads leave behind (R359, R363, R368, R401). -/
def State.copyRead (s : State) (c : Card) : State :=
  (s.copyParts c c.srcRows).foldl (fun t r =>
    let here := t.afterLoad r.1 (r.2.filter fun p => !p.hit.remote)
    let away := r.2.filter fun p => p.hit.remote
    away.foldl (fun u p => if p.hit.cls.isSome then u.sawPart p.hit.key p.len else u) ((here.fillAll r.1 away).touchParts away)) s

/-- The lines that leave the die's cache before a copy reads or writes them at their owners (R369). -/
def State.copyEvicts (s : State) (c : Card) : List Nat :=
  let away (h : Hit) : Bool := h.direct || c.sends h || (h.remote && h.irr)
  let src := (s.copyPieces c c.srcRows).filter fun r => r.2.hit.direct
  let dst := if s.cur.spec.isSome then [] else (s.copyPieces c c.dstRows).filter fun r => away r.2.hit
  (src ++ dst).flatMap fun r => linesOf r.2.hit.key r.2.len

/-- One word of an adding copy (R142). -/
def copyAdd (mode old new : Nat) : Nat × Flags :=
  if mode = 1 then roundFp32 0 (ExactNum.add 0 (fp32.decode old) (fp32.decode new))
  else ((if mode = 2 then BitVec.ofNat 32 (old + new)
         else satS ((BitVec.ofNat 32 old).toInt + (BitVec.ofNat 32 new).toInt) 32).toNat, 0)

/-- The words that an adding copy leaves, with their flags. -/
def copySums (mode : Nat) (old new : List Byte) : List (Nat × Flags) :=
  ((chunks 4 (old.length / 4) old).zip (chunks 4 (old.length / 4) new)).map fun w => copyAdd mode w.1 w.2

/-- What a copy writes at a place whose bytes are `old`, with the flags: its bytes, or their sums (R142, R146). -/
def copyResult (mode : Nat) (old new : List Byte) : List Byte × Flags :=
  if mode = 0 then (new, 0)
  else ((copySums mode old new).flatMap fun w => natLe 4 w.1, (copySums mode old new).foldl (fun f w => f ||| w.2) 0)

/-- Bytes of a copy written on an irrevocable page: they fill the entries reserved for their lines (R419). -/
def State.fillHeld (s : State) (hold key : Nat) (bs : List Byte) : State :=
  let cells := ((upto bs.length).zip bs).map fun c => (key + c.1, c.2)
  let x := s.myDie
  s.setMyDie { x with egress := x.egress.map fun e =>
    if e.owner == some hold then
      let mine := cells.filter fun c => c.1 / 64 == e.line
      { e with bytes := (e.bytes.filter fun b => !(mine.any fun c => c.1 == b.1)) ++ mine }
    else e }

/-- One part of a copy written by this die: the machine and the flags. -/
def State.copyWrite (s : State) (c : Card) (ea : Word) (p : Piece) (bs : List Byte) : State × Flags :=
  let out := copyResult (c.nat 0x89) (s.getBytes p.hit.loc p.len) bs
  (if p.hit.irr && s.cur.spec.isNone then (s.countAccess p.hit).fillHeld c.hold p.hit.key out.1
   else s.storePart ea p out.1, out.2)

/-- The parts that this die writes of every row of a copy written (R146). -/
def State.copyRows (s : State) (c : Card) : List (Word × List Piece) → List Byte → State × Flags
  | [], _ => (s, 0)
  | r :: rest, bs =>
    let mine := r.2.filter fun p => s.cur.spec.isSome || !c.sends p.hit
    let w := mine.foldl (fun (acc : State × Flags) p =>
      let x := acc.1.copyWrite c r.1 p ((bs.drop p.start).take p.len)
      (x.1, acc.2 ||| x.2)) (s, 0)
    let t := w.1.copyRows c rest (bs.drop (c.nat 0x82))
    (t.1, w.2 ||| t.2)

/-- The reserved entries of a copy that has written everything stand as any other (R419). -/
def State.settleHeld (s : State) (hold : Nat) : State :=
  let x := s.myDie
  s.setMyDie { x with egress := x.egress.map fun e => if e.owner == some hold then { e with owner := none } else e }

/-- Whether a copy that has read its bytes can write them: its tiles claimed, the lines it takes out of the cache clear to go,
room in the undo log (R417) and tags for its requests. -/
def State.writeReady (s : State) (c : Card) : Bool :=
  ((upto (s.fillTiles c).length).all fun n => c.claims.contains n) && s.canWriteBack (s.copyEvicts c) &&
    !s.logStall (((s.copyParts c c.dstRows).flatMap (·.2)).filter fun p => !c.sends p.hit) &&
    s.tagsFor (partPeers ((s.copyPuts c).map fun r => r.2.whole)).length

/-- Whether a copy can take its next step (R148, R367): ask for its remote bytes, write what it has read, or end once all its
writes are acknowledged. -/
def State.copyReady (s : State) (c : Card) : Bool :=
  if c.phase == .finished then !c.tags.isEmpty && s.copyAnswered c
  else s.copySettled c && (s.copyPoison c).isNone && c.outside.isNone && s.copyAnswered c &&
    (if c.tags.isEmpty && !(s.copyGets c).isEmpty then s.canWriteBack (s.copyEvicts c) && s.tagsFor (partPeers (s.copyGets c)).length
     else s.writeReady c)

/-- A copy whose last write is performed: the tiles it claimed are FULL (R56, R148). -/
def State.copyEnd (s : State) (c : Card) (f : Flags) : State :=
  let t := (s.fillTiles c).foldl (fun (t : State) l => t.setTileSt l .full) (s.settleHeld c.hold)
  (t.dropTags c.tags).setCard true { c with phase := .finished, started := true, flags := c.flags ||| f, tags := [] }

/-- A copy writes the bytes it has read: those of this die's parts now, the others by requests. -/
def State.copyPut (s : State) (c : Card) : State :=
  let bs := s.copySource c
  let r := ((s.copyRead c).dropTags c.tags).copyRows c (s.copyParts c c.dstRows) bs
  match s.copyPuts c with
  | [] => r.1.copyEnd { c with tags := [] } r.2
  | ps =>
    let t := r.1.sendJobs c 1 c.dstRows bs (ps.map fun p => p.2.whole.under c p.1)
    t.1.setCard true { c with phase := .finished, started := true, flags := c.flags ||| r.2, tags := t.2 }

/-- A copy's next step (R148, R367, R369). -/
def State.copyRun (s0 : State) (c : Card) : State :=
  if c.phase == .finished then s0.copyEnd c ((s0.copyRequests c).foldl (fun f r => f ||| r.value.setWidth 5) 0)
  else
    let s := (s0.copyEvicts c).foldl (fun (u : State) l => u.evict u.cur.id.die.toNat l) s0
    match (if c.tags.isEmpty then s.copyGets c else []) with
    | [] => s.copyPut c
    | ps =>
      let t := s.sendJobs c 0 c.srcRows (List.replicate (c.nat 0x82 * c.nat 0x83 * c.nat 0x84) 0) ps
      t.1.setCard true { c with started := true, tags := t.2 }

/-- What is left of a copy held by a fault of its queue: the answers to its reads are dropped with their tags (R294). -/
def State.copyLeft (s : State) (c : Card) : State :=
  if c.tags.isEmpty || !s.copyAnswered c then s
  else if c.phase == .finished then s.copyRun c
  else (s.dropTags c.tags).setCard true { c with tags := [] }

/-- Whether a running card can perform its accesses now; nests and SACCs have steps of their own. -/
def State.performable (s : State) (c : Card) : Bool :=
  if c.kind = 8 then (c.phase == .running || c.phase == .finished) && s.copyReady c
  else c.phase == .running && c.outside.isNone &&
    match c.kind.toNat with
    | 3 | 6 => true
    | 5 => (upto (s.fillTiles c).length).all fun n => c.claims.contains n
    | _ => false

/-- A DRAIN, GCLR or COPYJ performs its accesses, a PLANE those of one group (R283). -/
def State.perform (s : State) (c : Card) : State :=
  let done (k : Strand) (f : Flags) : State :=
    (s.setCur k).setCard false { c with phase := .finished, started := true, flags := c.flags ||| f }
  match c.kind.toNat with
  | 3 => (s.setCur { s.cur with ls := c.planeGroup s.cur.ls }).setCard false c.afterGroup
  | 6 => done { s.cur with gr := s.cur.gr.clear (gclrOff c.operand) (gclrLen c.operand) } 0
  | 5 =>
    let r := c.drainRun s.cur.gr s.cur.ls
    let k := { s.cur with gr := r.1, ls := r.2.1 }
    let t := c.nat 0xA2 % 16
    let k1 := if c.dctl 6 then
        { k with tiles := k.tiles.setIfInBounds t { st := .full, data := listed 0 (r.2.2.1.flatMap fun w => natLe 4 w) } } else k
    done k1 r.2.2.2
  | 8 => s.copyRun c
  | _ => s

/-- Every running card of a unit that can performs its accesses; what a held copy still waits for is taken. -/
def State.performAll (s : State) (u : JobUnit) : State :=
  (s.cur.unitCards u).foldl (fun t c =>
    if cardHeld (t.cur.unitQueue u) c then t.copyLeft c else if t.performable c then t.perform c else t) s

/-! ### Barrier arrival and retirement -/

/-- The k-th copy card, when its bytes are moved or can be, and its arrival is due (R150). -/
def State.arrivalDue (s : State) (k : Nat) : Option Card :=
  if s.jobsHeld then none
  else match s.cur.jobs.cpq[k]? with
    | some c =>
      if c.field 0x8B != 0 && !c.arrived && !cardHeld s.cur.jobs.cpq c &&
          ((c.phase == .finished && c.tags.isEmpty) || s.performable c) then some c else none
    | none => none

/-- R150: after all its bytes are performed a copy job arrives on its barrier object, a release at its scope; an overrun is
recorded in the job's completion. It waits while the object's page moves (R364) or the release cannot write back. -/
def execCopyBarrierArrival (k : Nat) (s : State) : Res :=
  match s.arrivalDue k with
  | none => .next s
  | some c =>
    let sc : BitVec 3 := (c.field 0x8C).setWidth 3
    let t := if c.phase == .finished && c.tags.isEmpty then s else s.perform c
    let moved := (t.cur.jobs.cpq[k]?).any fun d => d.phase == .finished && d.tags.isEmpty
    match t.locate (c.field 0x8B) 0 16 with
    | .hit h =>
      if !moved || !t.flushable sc then .next t
      else
        let t1 := t.released sc
        let n := if (t1.barAt h.loc).byt = 1 then BitVec.ofNat 32 (c.nat 0x82 * c.nat 0x83 * c.nat 0x84) else 1
        let r := t1.arriveAt h.loc n (s.cur.id.lastId true)
        let overran := r.2.extractLsb' 70 4 == 2#4
        match r.1.cur.jobs.cpq[k]? with
        | some d => .next (r.1.setCard true { d with arrived := true, overrun := overran })
        | none => .next r.1
    | _ => .next t

/-- Whether a finished thresher card waits for one that finished before it on the other unit (R152). -/
def Strand.finishedBefore (k : Strand) (c : Card) : Bool :=
  k.jobs.thq.any fun e => e.phase == .finished && e.fin < c.fin && !cardHeld k.jobs.thq e

/-- The oldest card of a unit, when its last write is performed (R152). -/
def State.retirable (s : State) (u : JobUnit) : Option Card :=
  if s.jobsHeld then none
  else match s.cur.unitCards u with
    | c :: _ =>
      if c.phase == .finished && c.tags.isEmpty && (c.kind != 8 || c.field 0x8B == 0 || c.arrived) && !cardHeld (s.cur.unitQueue u) c &&
          (unitIsCopy u || !s.cur.finishedBefore c) then some c else none
    | [] => none

/-- A retirement (R71, R72, R121, R152): the card leaves its queue, its flags are raised, its sequence number rises, an
overrun stays in its completion (R150), and UI makes a user-level interrupt pending. -/
def State.retire (s : State) (copy : Bool) (c : Card) : State :=
  let j := s.cur.jobs
  let drop (q : List Card) : List Card := q.filter fun e => !(e.ord == c.ord)
  let j1 := if copy then { j with cpq := drop j.cpq, seqcp := j.seqcp + 1
                                  overruns := if c.overrun then c.ord :: j.overruns else j.overruns } else { j with thq := drop j.thq, seqtl := j.seqtl + 1 }
  let t := (s.setCur { s.cur with jobs := j1 }).raiseFlags c.flags
  if c.ui = 1 then t.raiseUi (if copy then 0 else 1) else t

/-- R152: the running jobs of a unit perform what they can, and its oldest job retires once it is done. -/
def execJobRetire (u : JobUnit) (s : State) : Res :=
  if s.jobsHeld then .next s
  else
    let t := s.performAll u
    match t.retirable u with
    | some c => .next (t.retire (unitIsCopy u) c)
    | none => .next t

/-! ### Running faults -/

/-- The SRC of a unit (Table 15-9). -/
def unitSrc : JobUnit → Nat
  | .mul => 3
  | .port => 4
  | .copy => 5

/-- The first remote access of a copy that has had no answer for T cycles (R294, R370), by the address of its request. -/
def State.copyOverdue (s : State) (c : Card) : Option Word :=
  ((s.copyRequests c).find? fun r => !r.replied && 2 ^ s.myDie.win.ftimeout.toNat ≤ r.age && !(r.kind == 1 && r.performed)).map (·.faddr)

/-- What a unit's running job meets at its next access: the strand after the accesses before it, the card, the cause,
the address and the poisoned lines (R294). -/
def State.jobProblem (s : State) (u : JobUnit) : Option (Strand × Card × BitVec 8 × Word × List Nat) :=
  match u with
  | .mul => match s.nextBody with
    | some (c, .bad k f a) => some (k, { c with flags := c.flags ||| f }, 0x0E, a, [])
    | some _ => none
    | none => match s.running .mul with
      | some c => c.outside.map fun a => (s.cur, c, 0x0E, a, [])
      | none => none
  | .port => match s.running .port with
    | some c => if c.kind = 4 && s.saccReady.isNone then none else c.outside.map fun a => (s.cur, c, 0x0E, a, [])
    | none => none
  | .copy =>
    if s.jobsHeld then none
    else (s.cur.jobs.cpq.filter fun c => (c.phase == .running || c.phase == .finished) && !cardHeld s.cur.jobs.cpq c).findSome? fun c =>
      match s.copyOverdue c with
      | some a => some (s.cur, c, 0x11, a, [])
      | none =>
        if c.phase == .finished then none
        else match c.outside with
          | some a => some (s.cur, c, 0x0E, a, [])
          | none => if s.copyAnswered c then (s.copyPoison c).map fun p => (s.cur, c, 0x10, p.1, p.2) else none

/-- Requests of a die that nobody waits for any more: their tags are free under a new generation, and what is under way of
them goes on without them, but for stores that their owners have taken and what was discarded (R370, R372). -/
def Die.abandon (x : Die) (k : Option Strand) (p : Request → Bool) : Die :=
  let gone := x.requests.filter p
  { x with
    requests := x.requests.filter fun r => !p r
    gens := gone.foldl (fun g r => insertKey g r.tag (lookupD 0 g r.tag + 1)) x.gens
    strays := x.strays ++ (gone.filter fun r => !(r.kind == 1 && r.served) && !r.replied && !r.dropped).map fun r =>
      { req := r, strand := if r.kind == 2 then k else none } }

/-- A job faulted: it and every later card of its queue are held, its requests are abandoned, the entries it reserved and did
not fill are freed, and the strand freezes with the record (R294, R419); poison rolls the domain back (R420). -/
def State.jobFaulted (s : State) (u : JobUnit) (k : Strand) (c : Card) (cause : BitVec 8) (addr : Word) (lines : List Nat) : State :=
  let t0 := (s.setCur k).setCard (unitIsCopy u) { c with phase := .faulted, started := true, tags := [] }
  let t := if c.tags.isEmpty then t0 else t0.setMyDie (t0.myDie.abandon none fun r => c.tags.contains r.tag)
  let x := t.myDie
  let kept := x.egress.filter fun e => !(e.owner == some c.hold && e.bytes.isEmpty)
  let t1 := t.setMyDie { x with egress := kept.map fun e => if e.owner == some c.hold then { e with owner := none } else e }
  let r := t1.faultRec cause (unitSrc u) false 0 0 addr (BitVec.ofNat 64 c.ord)
  match t1.cur.spec with
  | some n => t1.dropSpec n Window.bumpDoth
  | none => if lines.isEmpty then t1.freeze r else t1.poisoned lines r

/-- R294: a running job meets the fault that stands at its next access. -/
def execJobRunningFault (u : JobUnit) (c : BitVec 8) (addr : Word) (s : State) : Res :=
  match s.jobProblem u with
  | some (k, card, cause, a, ls) => if c == cause && addr == a then .next (s.jobFaulted u k card cause a ls) else .next s
  | none => .next s

end Sys2Proof.Machine
end

