-- ==== Sys2Proof/Machine/System.lean ====
section
/-!
DEFINITION. WAIT, PAUSE, CAPR, TRAP, UIMASK, UIRET, LAUNCH and the reading of configuration registers (08 R198 to R209,
15 R333, R334), and taking a user-level interrupt (03 R72, R73).
-/
namespace Sys2Proof.Machine

/-- A value in a field of a register. -/
def fieldAt {w : Nat} (v : BitVec w) (lo : Nat) : Word := v.setWidth 64 <<< lo

/-! ### Waiting -/

/-- Whether a counter of cfg.wcnt satisfies a field of WAIT: 15 waits for nothing (R70, R198). -/
def waitOk (n : Nat) (f : BitVec 4) : Bool := f == 15#4 || n ≤ f.toNat

/-- R198: WAIT stalls until all four counters are at or below their fields at one instant. -/
def execWait (l c t r : BitVec 4) (s : State) : Res :=
  let k := s.cur
  .next (if waitOk k.ld l && waitOk k.st c && waitOk k.jobs.cpq.length t && waitOk k.jobs.thq.length r then s.complete 4
         else s.stallOn 5)

/-- R199: PAUSE: the stream issues nothing for n + 1 cycles and goes on with the instruction after it. -/
def execPause (n : BitVec 12) (s : State) : Res :=
  let t := s.complete 4
  .next (t.setMe { t.me with pause := n.toNat + 1 })

/-- R199: the last cycle of a PAUSE has passed and the stream issues again; with more of them left, or none, nothing changes
(assumption log 2). -/
def execPauseExpiry (s : State) : Res := .next (if s.me.pause = 1 then s.setMe { s.me with pause := 0 } else s)

/-! ### Configuration registers -/

/-- cfg.coreid (Table 1-1). -/
def Ident.coreid (i : Ident) : Word :=
  fieldAt i.core 0 ||| fieldAt i.clus 3 ||| fieldAt i.die 6 ||| fieldAt i.pkg 16
/-- cfg.sheaf (Table 2-1). -/
def Ident.sheaf (i : Ident) : Word := fieldAt i.six 0 ||| fieldAt i.scntM1 3 ||| fieldAt (BitVec.ofBool i.cor) 8
/-- cfg.gridpos (Table 2-2). -/
def Ident.gridpos (i : Ident) : Word := fieldAt i.gx 0 ||| fieldAt i.gy 16 ||| fieldAt i.gz 32
/-- cfg.griddim (Table 2-3). -/
def Ident.griddim (i : Ident) : Word := fieldAt i.xm1 0 ||| fieldAt i.ym1 16 ||| fieldAt i.zm1 32
/-- cfg.stage (Table 2-4). -/
def Ident.stage (i : Ident) : Word := fieldAt i.stg 0 ||| fieldAt i.nstgM1 3
/-- cfg.tent (Table 2-7); the system context reads TID 0, ASID 0 and TPRI 11 (R332). DESIGN CHOICE (assumption log 82): PRI is
the priority the strand was dispatched with until it is resumed, TPRI the tent's ceiling now. -/
def State.cfgTent (s : State) : Word :=
  let i := s.cur.id
  let tpri : BitVec 4 := if i.sys then 11 else ((s.dev.tent i.tid.toNat).map (·.ceiling)).getD 0
  fieldAt i.tid 0 ||| fieldAt i.asid 8 ||| fieldAt i.pri 24 ||| fieldAt tpri 28
/-- cfg.qstk and cfg.qlp (Table 2-8). The system context has no quota: it reads 0. -/
def State.cfgQuota (s : State) (cls : BitVec 1) : Word :=
  if s.cur.id.sys then 0 else ((s.dev.tent s.cur.id.tid.toNat).map fun t => t.quota cls).getD 0
/-- cfg.rot (Table 3-3). -/
def Strand.rot (k : Strand) : Word := fieldAt k.vrb 0 ||| fieldAt k.prb 8
/-- cfg.gmap (Table 3-4): g0 reads 0. -/
def Strand.cfgGmap (k : Strand) : Word :=
  (upto 7).foldl (fun w n => w ||| fieldAt (vget k.gmap (n + 1) 0) (8 * (n + 1))) 0
/-- cfg.blkrep (Table 7-6). -/
def Stream.blkrep (x : Stream) : Word := fieldAt x.left 0 ||| fieldAt x.pass 6
/-- cfg.rstk (Table 8-2). -/
def Stream.rstk (x : Stream) : Word := BitVec.ofNat 64 (x.stack.length % 32) ||| fieldAt (BitVec.ofNat 8 x.spl) 16
/-- cfg.uistat (Table 3-12). -/
def UiState.stat (u : UiState) : Word :=
  fieldAt u.pend 0 ||| fieldAt (BitVec.ofBool u.mask) 8 ||| fieldAt (BitVec.ofBool u.inh) 9 |||
    fieldAt (BitVec.ofBool u.ovf) 10 ||| fieldAt u.srcs 11
/-- cfg.xtctl (Table 15-7). -/
def Window.xtctl (w : Window) : Word := fieldAt w.xtSt 0 ||| fieldAt (w.xtGen.setWidth 8) 56

/-- The value CFGR reads (Tables 8-4 and 15-2); write-only fields read zero. -/
def State.cfgValue (s : State) (r : BitVec 14) : Word :=
  let k := s.cur
  let w := s.myDie.win
  match r.toNat with
  | 0x0 => k.id.coreid
  | 0x1 => k.id.sheaf
  | 0x2 => k.id.gridpos
  | 0x3 => k.id.griddim
  | 0x4 => k.id.stage
  | 0x5 => k.id.ringin
  | 0x6 => k.id.ringout
  | 0x7 => s.cfgTent
  | 0x8 => s.cfgQuota 0
  | 0x9 => s.cfgQuota 1
  | 0x10 => k.rot
  | 0x11 => k.cfgGmap
  | 0x12 => BitVec.ofNat 64 k.gleanOcc
  | 0x13 => s.me.blkrep
  | 0x14 => s.me.rstk
  | 0x15 => s.me.rsbase
  | 0x18 => k.wcnt
  | 0x19 => k.jobs.seqcp
  | 0x1A => k.jobs.seqtl
  | 0x20 => k.ui.stat
  | 0x21 => k.ui.vec
  | 0x22 => k.ui.ret
  | 0x23 => k.ui.hdr
  | 0x24 => k.ui.pass
  | 0x28 => fieldAt k.fflags 0
  | 0x29 => fieldAt k.nbv 0
  | 0x30 => k.pbstat
  | 0x38 => fieldAt s.dev.rin 0
  | 0x2000 => fieldAt (BitVec.ofBool k.srt) 0
  | 0x2001 => fieldAt w.hangto 0
  | 0x2002 => w.traprcb
  | 0x2003 => w.hangbuf
  | 0x2005 => fieldAt k.ctxSt 0
  | 0x2006 => w.xtctl
  | 0x2007 => fieldAt w.migthr 0
  | _ => 0

/-- Whether a register number is a system register's (R333, R334). -/
def isSystemReg (r : BitVec 14) : Bool := 0x2000 ≤ r.toNat

/-- R200: CFGR; a system register in user mode is a privilege fault. -/
def execCfgr (d : Reg) (r : BitVec 14) (s : State) : Res :=
  if isSystemReg r && !s.cur.id.sys then .next (s.raise 0x02 0 0 0)
  else .next ((s.wr d (s.cfgValue r)).complete 4)

/-- The capability entry of a device at an index (Table 1-5): ID, VER 1, SSIZE. -/
def capability (i : Nat) : Word :=
  if i < 12 then
    let size : Nat := match i with
      | 3 => 98368
      | 4 => 128
      | 5 => 4096
      | _ => 0
    BitVec.ofNat 64 (i + 1 + 1 * 2 ^ 16 + size * 2 ^ 24)
  else 0

/-- R203: CAPR. -/
def execCapr (d a : Reg) (s : State) : Res := .next ((s.wr d (capability (s.rd a).toNat)).complete 4)

/-- R204: TRAP raises a breakpoint with its code; the strand freezes at the TRAP, and RESUME goes on past it. -/
def execTrap (c : BitVec 16) (s : State) : Res := .next (s.raise 0x12 c 0 0)

/-! ### User-level interrupts -/

/-- R205: UIMASK. -/
def execUimask (v : BitVec 1) (s : State) : Res :=
  s.only .c (.next ((s.setCur { s.cur with ui := { s.cur.ui with mask := v == 1 } }).complete 4))

/-- s24 to s31 of a register file exchanged with the shadow bank (R72). -/
def swapBank (regs : Vector Word 32) (shadow : Vector Word 8) : Vector Word 32 × Vector Word 8 :=
  (Vector.ofFn fun i => if 24 ≤ i.val then vget shadow (i.val - 24) 0 else vget regs i.val 0,
   Vector.ofFn fun i => vget regs (24 + i.val) 0)

/-- The control stream with its bank exchanged. -/
def Strand.swapBank (k : Strand) : Strand :=
  let p := Sys2Proof.Machine.swapBank k.ctl.regs k.ui.shadow
  { k with ctl := { k.ctl with regs := p.1 }, ui := { k.ui with shadow := p.2 } }

/-- R206: UIRET restores the bank and the block state and continues at cfg.uiret; with INH 0 it is an illegal
encoding. -/
def execUiret (s : State) : Res :=
  s.only .c (.next (
    if !s.cur.ui.inh then s.raiseIllegal
    else
      let u := s.cur.ui
      let k := { s.cur with ui := { u with inh := false } }.swapBank
      let x := k.ctl.returnTo u.ret u.hdr (s.bodyEndAt u.hdr) (u.pass.extractLsb' 0 6) (u.pass.extractLsb' 6 6)
      s.setCur { k with ctl := x }))

/-- Whether an interrupt is due at the control stream's boundary (R72): a stall of kinds 1 to 5 is a boundary, and one of
kind 6 or 7 or the wait for a reply is none, nor are the issues of a REP (R163) or a QDROP that has removed an entry
(R197). -/
def Strand.interrupted (k : Strand) : Bool :=
  let x := k.ctl
  k.resident && !k.frozen && !k.parked && k.spillReady && x.run == .running && k.ui.pend != 0 && !k.ui.mask && !k.ui.inh &&
    k.ui.vec != 0 && x.rep.isNone && x.drop.isNone && x.reply.isNone && x.stall ≤ 5

/-- Whether the control stream stands at a LAUNCH or a PUBLISH, whose waits of kind 5 are no boundary of R72. -/
def State.atCopying (s : State) : Bool :=
  match s.codeWord s.cur.ctl.pc with
  | some w => (major w == 7 && bits w 26 5 == 8#5) || (major w == 28 && bits w 25 3 == 2#3)
  | none => false

/-- Whether an interrupt is taken now (R72). -/
def State.interruptible (s : State) : Bool := s.cur.interrupted && !(s.cur.ctl.stall == 5 && s.atCopying)

/-- R72, R73: the control stream takes a user-level interrupt at a boundary; a PAUSE ends (R199). A vector that no
transfer may reach raises the transfer's fault at the interrupted boundary, with INH set. DESIGN CHOICE (assumption log
69): there the saved registers are written and PEND has fallen, and s24 to s31 stay in the main bank. -/
def execUserInterruptTake (s : State) : Res :=
  let k := s.cur
  let x := k.ctl
  if !s.interruptible || s.transferWaits k.ui.vec then .next s
  else
    let u := { k.ui with ret := x.pc, hdr := x.hdr, pass := x.blkrep, pend := k.ui.pend - 1, inh := true }
    let t : State := { s with turn := .stream .c }
    let swapped := { k with ui := u }.swapBank
    let r : State := match t.transferFault .c u.vec true with
      | some (c, a, d) => { { t with cur := { k with ui := u } }.raiseAt c d a 0 with turn := s.turn }
      | none =>
        let entered := { swapped.ctl.calm with pause := 0 }.enter u.vec ((t.codeWord u.vec).getD 0)
        { s with cur := { swapped with ctl := entered } }
    .next r

/-! ### LAUNCH -/

/-- A pending-kick bit is set on the tent's home die (R391). -/
def Device.kick (d : Device) (tid q : Nat) : Device :=
  match d.tent tid with
  | none => d
  | some t =>
    let x := d.die t.home
    let b := 8 * tid + q
    if x.kicks.contains b then d else d.setDie t.home { x with kicks := b :: x.kicks }

/-- The tent replaced. -/
def Device.setTent (d : Device) (t : Tent) : Device :=
  { d with tents := d.tents.map fun u => if u.tid == t.tid then t else u }

/-- The handles of a tent's live instances (R307). -/
def Device.liveHandles (d : Device) (tid : Nat) : List Word :=
  (match d.tent tid with
   | some t => t.devq.map (·.handle)
   | none => []) ++
  (d.instances.filter fun i => i.tid == tid).map (·.handle)

/-- A value that is nonzero and not in use; the spec gives its bits no meaning, so it is a free value but for that
(R297, R307, assumption log 3). -/
def State.freshHandle (s : State) (used : List Word) : Word :=
  (((upto (used.length + 2)).map fun k => s.free + BitVec.ofNat 64 k).find? fun h => h != 0 && !used.contains h).getD s.free

/-- The scheduler's read of `n` bytes at a TV address, under the strand's translation (R207); an address in another space
raises 0x04 (assumption log 75). Where it must wait, for a page that moves or a held path, the wait is kind 5 (R207). -/
def State.readTv (s : State) (ea : Word) (n : Nat) (k : State → List Byte → State) : State :=
  if ea.toNat / 2 ^ 56 != 0 then s.raise 0x04 0 ea 0
  else match s.check .load 1 false ea n with
    | .fault c a => s.raiseAt c 0 a 0
    | .wait => s.stallOn 5
    | .ok ps =>
      if !s.clearToGo ps then s.stallOn 5
      else match s.poisonIn ps with
      | [] => k (s.readParts ea ps).1 (s.readParts ea ps).2
      | ls => s.poisoned ls (s.faultRec 0x10 s.who.num false 0 s.me.iaddr (s.poisonAddr ea ps) (s.me.aux 0))

/-- The words of a list of bytes. -/
def wordsOf (n : Nat) (bs : List Byte) : List Word :=
  (upto n).map fun k => BitVec.ofNat 64 (leNat ((bs.drop (8 * k)).take 8))

/-- The launch record enqueued and its handle returned (R207). -/
def State.enqueueLaunch (s : State) (t : Tent) (d : Reg) (desc : Word) (header : List Byte) (args : List Word) : State :=
  let h := s.freshHandle (s.dev.liveHandles t.tid)
  let r : LaunchRec := { desc := desc, header := BitVec.ofNat 512 (leNat header), args := args, handle := h }
  let d1 := (s.dev.setTent { t with devq := t.devq ++ [r] }).kick t.tid 0
  (({ s with dev := d1 }.drew).wr d h).complete 4

/-- Whether an access of the access stream that is not yet performed is earlier than a token the control stream has popped:
an element of a queue stream, or a store that waits behind one (R95, R208). -/
def State.beforeToken (s : State) : Bool :=
  s.cur.qstreams.any fun q => q.toks.1 < (s.queue 5).popped || q.toks.2 < (s.queue 10).popped

/-- R207, R208: LAUNCH: 0 when the tent's device launch queue has no free record (the system context has no such queue);
else the header and the argument words are copied, once the accesses that a token has told of are performed and the tent's cached
lines on this die written back and dropped. -/
def State.launch (s : State) (d a b : Reg) : State :=
  let desc := s.rd a
  let argp := s.rd b
  match (if s.cur.id.sys then none else s.dev.tent s.cur.id.tid.toNat) with
  | none => (s.wr d 0).complete 4
  | some t =>
    if 64 ≤ t.devq.length then (s.wr d 0).complete 4
    else if !s.storesInFlight.isEmpty || s.beforeToken || !s.flushable 3 then s.stallOn 5
    else (s.acquired 3).readTv desc 64 fun s1 header =>
      let n := (header[0x0D]?.getD 0).toNat + 1
      if argp = 0 then s1.enqueueLaunch t d desc header (List.replicate n 0)
      else s1.readTv argp (8 * n) fun s2 bs => s2.enqueueLaunch t d desc header (wordsOf n bs)

/-- R207 to R209: LAUNCH, from the control stream; a speculative run that reaches it is discarded. -/
def execLaunch (d a b : Reg) (s : State) : Res := s.only .c (.next (s.unlessSpec (s.launch d a b)))

end Sys2Proof.Machine
end

