-- ==== Sys2Proof/Machine/Image.lean ====
section
/-!
DEFINITION. The context image (15 R346 to R349) and the hang record's block (R336): their bytes, the checks of a restore,
and what a restore loads.
-/
namespace Sys2Proof.Machine

/-! ### Bytes -/

/-- Little-endian words one after another. -/
def words (ws : List Word) : List Byte := ws.flatMap bytes8

/-- A vector register's bytes. -/
def vregBytes (v : VReg) : List Byte := natLe 256 v.toNat

/-- The REP state as one word: address [55:0], issue [61:56], [63] present (assumption log 19). -/
def RepState.word (r : RepState) : Word :=
  r.addr.extractLsb' 0 56 |>.setWidth 64 |>.or (BitVec.ofNat 64 (r.issue % 64) <<< 56) |>.or (1#64 <<< 63)

/-- The QDROP state as one word: the remaining count, 0 for no QDROP in progress; its queue stands in the run state's word
(assumption log 19). -/
def dropWord (n : Option Nat) : Word := BitVec.ofNat 64 (n.getD 0)

/-- The run state (Tables 15-15 and 15-19): 00 running, 01 stalled, 10 ended, and the stall kind in [5:2]. -/
def Stream.stateWord (x : Stream) : Word :=
  match x.run with
  | .ended => 2
  | .running => if x.stall = 0 then 0 else BitVec.ofNat 64 (1 + x.stall * 4)

/-- A queue stream as a record of 32 bytes: base, shape, a word with queue [4:0], size [9:8], X [10], store [11],
present [15], next entry [31:16] and next element [37:32], and the address of its instruction; a plain store that waits has
queue 13 and its data in place of a shape (assumption log 19). -/
def QStream.bytes (q : QStream) : List Byte :=
  words [q.base, if q.plain then q.lane (q.held.getD 0) (q.lanes - 1) else q.shape,
    BitVec.ofNat 64 (q.queue + q.sz.toNat * 2 ^ 8 + (if q.sext then 2 ^ 10 else 0) + (if q.store then 2 ^ 11 else 0) + 2 ^ 15 +
      q.entry * 2 ^ 16 + q.elem * 2 ^ 32), q.iaddr]

/-- A queue stream read back. -/
def qstreamOf (b : List Byte) : Option QStream :=
  let w := leNat ((b.drop 16).take 8)
  if w / 2 ^ 15 % 2 = 0 then none
  else
    let v := leNat ((b.drop 8).take 8)
    let plain := w % 32 == 13
    let sz : BitVec 2 := BitVec.ofNat 2 (w / 2 ^ 8)
    some { store := w / 2 ^ 11 % 2 == 1, sext := w / 2 ^ 10 % 2 == 1, sz := sz, base := BitVec.ofNat 64 (leNat (b.take 8))
           shape := if plain then 0 else BitVec.ofNat 64 v, queue := w % 32, entry := w / 2 ^ 16 % 2 ^ 16, elem := w / 2 ^ 32 % 64
           held := if plain then some (lastLane sz v) else none, replies := [], kinds := []
           iaddr := BitVec.ofNat 64 (leNat ((b.drop 24).take 8)), tl := 0, cp := 0 }

/-- A stream part of the image (Table 15-15). -/
def Stream.part (x : Stream) (qs : List QStream) : List Byte :=
  let stack := (x.stack.reverse.flatMap fun e => natLe 16 e.spill.toNat)
  let recs := qs.flatMap QStream.bytes
  words ((upto 32).map fun r => x.get (BitVec.ofNat 5 r)) ++
    words [x.pc, x.blkrep, x.rstk, x.rsbase, (x.rep.map RepState.word).getD 0, dropWord x.drop, BitVec.ofNat 64 x.pause, x.stateWord] ++
    stack ++ List.replicate (256 - stack.length) 0 ++ recs ++ List.replicate (256 - recs.length) 0

/-! ### The hang record (R336) -/

/-- The queue that an instruction pops (Table 7-5, R190, R266, R269). -/
def popOf (t : StreamId) : Code → Option Nat
  | .half h => if bits h 0 2 == 1#2 && bits h 13 3 == 2#3 then some (bits h 2 5).toNat else none
  | .word w | .wide w _ =>
    let op := (bits w 22 3).toNat
    match major w with
    | 4 => if bits w 17 3 == 7#3 then some (ownBq t) else none
    | 6 => if 1 ≤ op && op ≤ 3 then some (bits w 12 5).toNat else none
    | 22 => if bits w 28 4 == 0#4 then some (bits w 22 6).toNat else none
    | 23 => if bits w 17 3 == 1#3 then some 12 else none
    | _ => none

/-- Whether a stream is stalled popping a queue. -/
def State.stalledPop (s : State) (q : Nat) (t : StreamId) : Bool :=
  let u := { s with turn := .stream t }
  let at_ := if u.me.rep.isSome then u.me.pc + 4 else u.me.pc
  u.me.run == .running && u.me.stall == 2 &&
    match (frameBytes (u.bodyBytes at_).2).bind (popOf t) with
    | some n => n == q
    | none => false

/-- The unmatched-pop mark of a queue (R75). -/
def State.unmatched (s : State) (q : Nat) : Bool :=
  s.emptyQ q && ([StreamId.c, .a, .x].any fun t => s.stalledPop q t) &&
    !(s.cur.qstreams.any fun r => !r.store && r.queue == q)

/-- A head entry, zero for an empty queue. -/
def Queue.head? (x : Queue) : VReg := if x.occ = 0 then 0 else x.front

/-- One stream of the hang record: run state, address, stalled cycles. DESIGN CHOICE (assumption log 96): of a stream stalled
at the target of a REP the address is the REP's, which Table 15-19 leaves open. -/
def Stream.hangPart (x : Stream) : List Byte := words [x.stateWord, x.iaddr, BitVec.ofNat 64 x.stallCycles, 0]

/-- Bytes padded with zeros to a length. -/
def padTo (n : Nat) (b : List Byte) : List Byte := b ++ List.replicate (n - b.length) 0

/-- The queue of the QDROP in progress on a stream (Table 15-14). -/
def State.dropQueue (s : State) (t : StreamId) : Nat :=
  let u := { s with turn := .stream t }
  ((frameBytes (u.bodyBytes u.me.pc).2).bind (popOf t)).getD 0

/-- The hang record (Table 15-19). -/
def State.hangRecord (s : State) : List Byte :=
  let k := s.cur
  let i := k.id
  let q (n : Nat) : Word :=
    let x := s.queue n
    BitVec.ofNat 64 (x.occ % 128 + (if s.unmatched n then 128 else 0) + x.head % 64 * 256)
  let card (c : Option Card) : List Byte := (c.map Card.bytes).getD (List.replicate 1024 0)
  let glean : BitVec 192 := if k.gleanOcc = 0 then 0 else Cells.get k.glean k.gleanHead
  words [BitVec.ofNat 64 (1 + i.stag.toNat * 2 ^ 16 + i.six.toNat * 2 ^ 32),
    BitVec.ofNat 64 (i.coreNum.toNat + i.pkg.toNat * 2 ^ 16 + i.tid.toNat * 2 ^ 24 + s.dev.rin.toNat * 2 ^ 32)] ++
  k.ctl.hangPart ++ k.acc.hangPart ++ k.exe.hangPart ++ words [k.wcnt, 0] ++
  padTo 128 (words ((upto 13).map q)) ++
  (k.tiles.toList.flatMap fun t => natLe 4 t.st.word.toNat) ++
  words [BitVec.ofNat 64 k.gleanOcc] ++ natLe 24 glean.toNat ++
  words [BitVec.ofNat 64 k.jobs.thq.length, k.jobs.seqtl, BitVec.ofNat 64 k.jobs.cpq.length, k.jobs.seqcp] ++
  padTo 128 (words ((upto 6).map fun n => ((s.queue (4 + n)).head?).setWidth 64) ++
    words ((upto 3).map fun n => ((s.queue (10 + n)).head?).setWidth 64 &&& 1)) ++
  ((upto 4).flatMap fun n => vregBytes (s.queue n).head?) ++ card k.jobs.thq.head? ++ card k.jobs.cpq.head? ++
  List.replicate 512 0

/-! ### The image -/

/-- SIZE of the image (R346). -/
def imageSize : Nat := 3059712

/-- The checkpointed multiply-unit job (R346, Table 15-17). -/
def Strand.checkpointCard (k : Strand) : Option Card := k.jobs.thq.find? fun c => c.isMul && c.started

/-- LIVE (R347, Table 15-17). -/
def Strand.live (k : Strand) : Nat :=
  let ui := k.ui
  6 + (if k.nbv = 1 || k.cards.any fun c => c.nbv == 1 then 8 else 0) + (if k.gleanOcc = 0 then 0 else 16) +
    (if ui.vec == 0 && ui.ret == 0 && ui.hdr == 0 && ui.pass == 0 && ui.stat == 0 && ui.shadow.toList.all (· == 0) then 0 else 32) +
    (if k.checkpointCard.isSome then 64 else 0)

/-- A fault record's 64 bytes (Table 15-9). -/
def FaultRec.bytes (r : FaultRec) : List Byte :=
  padTo 64 (words [BitVec.ofNat 64 (r.cause.toNat + r.src.toNat * 2 ^ 8 + (if r.sys then 2 ^ 11 else 0) +
      (if r.defer then 2 ^ 12 else 0) + r.detail.toNat * 2 ^ 16 + r.tid.toNat * 2 ^ 32),
    r.iaddr, r.faddr, r.aux,
    BitVec.ofNat 64 (r.core.toNat + r.pkg.toNat * 2 ^ 16 + r.stag.toNat * 2 ^ 32 + r.six.toNat * 2 ^ 48),
    r.rin.setWidth 64])

/-- A fault record read back. -/
def faultOf (b : List Byte) : FaultRec :=
  let w (o n : Nat) : Nat := leNat ((b.drop o).take n)
  { cause := BitVec.ofNat 8 (w 0 1), src := BitVec.ofNat 3 (w 1 1), sys := w 1 1 / 8 % 2 == 1, defer := w 1 1 / 16 % 2 == 1
    detail := BitVec.ofNat 16 (w 2 2), tid := BitVec.ofNat 8 (w 4 1), iaddr := BitVec.ofNat 64 (w 8 8)
    faddr := BitVec.ofNat 64 (w 0x10 8), aux := BitVec.ofNat 64 (w 0x18 8), core := BitVec.ofNat 9 (w 0x20 2)
    pkg := BitVec.ofNat 8 (w 0x22 1), stag := BitVec.ofNat 16 (w 0x24 2), six := BitVec.ofNat 3 (w 0x26 1)
    rin := BitVec.ofNat 32 (w 0x28 4) }

/-- The parts of the image that are not LS or granary, as (offset, bytes) (Table 15-15). -/
def Strand.imageParts (k : Strand) : List (Nat × List Byte) :=
  let i := k.id
  let thq := k.jobs.thq.filter fun c => !(some c.ord == (k.checkpointCard.map (·.ord)))
  let flags : Nat := (if k.faults.isEmpty then 0 else 1) + (if i.sys then 2 else 0)
  let queue (n : Nat) : Queue := vget k.queues n Queue.none
  [(0, natLe 4 0x58544358 ++ natLe 2 1 ++ natLe 2 flags ++ natLe 8 k.live ++ natLe 8 imageSize ++
      natLe 2 i.stag.toNat ++ natLe 1 i.six.toNat ++ natLe 1 i.scntM1.toNat),
   (0x40, k.ctl.part []), (0x440, k.acc.part (k.qstreams.take 8)), (0x840, k.exe.part []),
   (0xC40, k.v.toList.flatMap vregBytes),
   (0x4C40, words ((upto 96).map fun n => if n = 0 then -1 else vget k.p n 0)),
   (0x4F40, words [k.cfgGmap, k.rot]),
   (0x44F80, k.tiles.toList.flatMap fun t => natLe 4 t.st.word.toNat),
   (0x44FC0, k.k.toList.flatMap vregBytes),
   (0x45FC0, words ((upto 13).map fun n => (queue n).desc)),
   (0x46040, (upto 4).flatMap fun n => (upto 32).flatMap fun j => vregBytes (Cells.get (queue n).slots j)),
   (0x4E040, (upto 6).flatMap fun n => (upto 16).flatMap fun j => bytes8 ((Cells.get (queue (4 + n)).slots j).setWidth 64)),
   (0x4E340, words ((upto 3).map fun n => (queue (10 + n)).bits)),
   (0x4E380, words [BitVec.ofNat 64 k.gleanOcc, if k.gleanOcc = 0 then 0 else BitVec.ofNat 64 k.gleanHead]),
   (0x663C0, words [k.wcnt, k.jobs.seqcp, k.jobs.seqtl, k.fflags.setWidth 64, k.nbv.setWidth 64, k.pbstat,
      if k.srt then 1 else 0, 0]),
   (0x66400, words (k.ui.shadow.toList ++ [k.ui.vec, k.ui.ret, k.ui.stat, k.ui.hdr, k.ui.pass])),
   (0x66480, (k.checkpointCard.map Card.bytes).getD []),
   (0x67480, words (k.jobs.table.toList) ++ thq.flatMap Card.bytes),
   (0x69C80, ((k.faults.head?).map FaultRec.bytes).getD [])]

/-- The image as a memory of its own offsets (Table 15-15). -/
def Strand.image (k : Strand) : Memory :=
  let low := k.imageParts.foldl (fun (m : Memory) p => m.blit p.1 p.2) []
  let tiled := ((upto 16).foldl (fun (m : Memory) t => m.paste (0x4F80 + 16384 * t) 16384 ((vget k.tiles t Tile.none).data.slice 0 16384)) low)
  let gleaned := (upto 4096).foldl (fun (m : Memory) j =>
    let e := Cells.get k.glean j
    if e = 0 || k.gleanOcc = 0 then m else m.blit (0x4E3C0 + 24 * j) (natLe 24 e.toNat)) tiled
  (gleaned.paste 0x6B000 0x200000 (k.ls.slice 0 0x200000)).paste 0x26B000 0x80000 (k.gr.slice 0 0x80000)

/-- The image of a saved strand, with the queue of each QDROP in progress in bits [15:8] of its stream's run state (R345,
assumption log 19). -/
def State.imageOf (s : State) (k : Strand) : Memory :=
  [(StreamId.c, 0x40), (.a, 0x440), (.x, 0x840)].foldl (fun (m : Memory) p =>
    if (k.stream p.1).drop.isSome then m.set (p.2 + 313) (BitVec.ofNat 8 ({ s with cur := k }.dropQueue p.1)) else m) k.image

/-! ### The checks of a restore (R349) -/

/-- The offsets of nonzero bytes in a range. -/
def Memory.nonzero (m : Memory) (a n : Nat) : List Nat := (m.filter fun c => a ≤ c.1 && c.1 < a + n).map (·.1)

/-- The offsets of the bytes of a word of `n` bytes that hold a bit outside the fields `ones`. -/
def Memory.outside (m : Memory) (a n ones : Nat) : List Nat := (upto n).filterMap fun i =>
  if (m.get (a + i)).toNat &&& (ones / 256 ^ i % 256) == (m.get (a + i)).toNat then none else some (a + i)

/-- The fields of the words of a stream part (Tables 7-6, 8-2, 8-3; R73, R158; the words of assumption log 19), as
(offset, bits), with those of a return stack entry (R192) and of a queue stream's word. -/
def partFields : List (Nat × Nat) :=
  [(256, 2 ^ 56 - 2), (264, 0xFFF), (272, 0xFF001F), (280, 2 ^ 56 - 16), (288, 2 ^ 63 + 2 ^ 62 - 1), (304, 0x1FFF), (312, 0x1F3F)] ++
    (upto 16).flatMap fun i => [(320 + 16 * i, 2 ^ 62 - 1), (328 + 16 * i, 2 ^ 62 - 1)]

/-- The fields of the words beside the stream parts (Tables 3-3, 3-4, 3-12, 5-5, 5-9, 6-3, 15-3; R73), and those of the
fault record of a faulted image (Table 15-9). -/
def imageFields (faulted : Bool) : List (Nat × Nat) :=
  [(0x4F40, 2 ^ 64 - 256), (0x4F48, 0x3F1F), (0x663D8, 0x1F), (0x663E0, 0xFF), (0x663E8, 0xFFF), (0x663F0, 1),
   (0x66440, 2 ^ 56 - 2), (0x66448, 2 ^ 56 - 1), (0x66450, 0x3FFF), (0x66458, 2 ^ 56 - 4), (0x66460, 0xFFF)] ++
    if faulted then [(0x69C80, 2 ^ 40 - 1 - 0xE000), (0x69CA0, 0x7FFFF00FF01FF), (0x69CA8, 2 ^ 32 - 1), (0x69CB0, 0), (0x69CB8, 0)]
    else []

/-- The offsets of the reserved bits of glean entries that are set (Table 3-10). -/
def gleanBad (m : Memory) : List Nat :=
  (m.filter fun c => 0x4E3C0 ≤ c.1 && c.1 < 0x4E3C0 + 98304 &&
    c.2 &&& byteOf gleanFields ((c.1 - 0x4E3C0) % 24) != c.2).map (·.1)

/-- Check 1: MAGIC, VER, SIZE and reserved bytes and bits; the offsets at fault. -/
def imageBad1 (m : Memory) : List Nat :=
  let field (a n v : Nat) : List Nat := (upto n).filterMap fun i =>
    if m.get (a + i) == BitVec.ofNat 8 (v / 256 ^ i) then none else some (a + i)
  field 0 4 0x58544358 ++ field 4 2 1 ++ m.outside 6 2 3 ++
    (if (m.get 8).getLsbD 0 then [8] else []) ++ field 0x10 8 imageSize ++ m.outside 0x1A 2 0x707 ++ m.nonzero 0x1C 36 ++
    ((upto 3).flatMap fun t => partFields.flatMap fun f => m.outside (0x40 + 1024 * t + f.1) 8 f.2) ++
    ((upto 3).flatMap fun t => m.nonzero (0x40 + 1024 * t + 832) 192) ++
    ((imageFields ((m.get 6).getLsbD 0)).flatMap fun f => m.outside f.1 8 f.2) ++ gleanBad m ++
    ((upto 256).flatMap fun n => m.outside (0x67480 + 8 * n) 8 (2 ^ fieldWidth (BitVec.ofNat 8 n) - 1)) ++
    m.nonzero 0x4F50 48 ++ m.nonzero 0x46028 24 ++ m.nonzero 0x4E358 40 ++ m.nonzero 0x4E390 48 ++ m.nonzero 0x663F8 8 ++
    m.nonzero 0x66468 24 ++ m.nonzero 0x66880 3072 ++ m.nonzero 0x69CC0 4928

/-- The bytes of a queue's descriptor that do not agree with it (R335): reserved bits, OCC above the depth, HEAD beyond
the slots, TAIL other than HEAD + OCC. -/
def descBad (q : Nat) (w : Nat) : List Nat :=
  let occ := w % 128
  let head := w / 256 % 64
  let tail := w / 65536 % 64
  let n := queueDepth q
  ((upto 8).filter fun i => w / 256 ^ i % 256 &&& (0x3F3F7F / 256 ^ i % 256) != w / 256 ^ i % 256) ++
    (if occ ≤ n then [] else [0]) ++ (if head < n then [] else [1]) ++ (if tail == (head + occ) % n then [] else [2])

/-- Whether a queue's descriptor agrees with itself (R335). -/
def descOk (q : Nat) (w : Nat) : Bool := (descBad q w).isEmpty

/-- The bytes of a card of a restored thresher queue that break Table 11-4 (R280): a kind that no thresher queue holds, a
reserved bit, a parameter wider than its field, or a byte after the kind's parameters; a card of zeros is an unused
slot. -/
def cardBad (m : Memory) (a : Nat) : List Nat :=
  let kind := m.nat a 1 % 16
  let fs := kindFields kind
  let rest : List Nat :=
    if kind = 4 then m.nonzero (a + 0x88) 0x178
    else if kind = 6 then m.nonzero (a + 0x88) 0x378
    else m.nonzero (a + 0x80 + 8 * fs.length) (0x380 - 8 * fs.length) ++
      (fs.zip (upto fs.length)).flatMap fun f => m.outside (a + 0x80 + 8 * f.2) 8 (2 ^ fieldWidth (BitVec.ofNat 8 f.1) - 1)
  if (m.nonzero a 1024).isEmpty then []
  else (if kind ≤ 6 then [] else [a]) ++ m.outside a 8 0xFF3FFF ++ m.outside (a + 0x10) 8 (2 ^ 33 - 1) ++
    ((upto 6).flatMap fun r => m.nonzero (a + 0x20 + 16 * r + 12) 4) ++ rest

/-- The bytes of the glean queue's occupancy and head that no glean queue has (R68, R335). -/
def gleanOff (occ head : Nat) : List Nat :=
  (if occ ≤ 4096 then [] else [0x4E380]) ++ (if head < 4096 then [] else [0x4E388])

/-- Check 2: queue descriptors, tile states and cards; the offsets at fault. -/
def imageBad2 (m : Memory) : List Nat :=
  ((upto 13).flatMap fun q => (descBad q (m.nat (0x45FC0 + 8 * q) 8)).map fun i => 0x45FC0 + 8 * q + i) ++
    gleanOff (m.nat 0x4E380 8) (m.nat 0x4E388 8) ++
    ((upto 16).flatMap fun t =>
      let a := 0x44F80 + 4 * t
      m.outside a 4 0x1F ++ (if m.nat a 1 % 4 == 3 || 4 ≤ m.nat a 1 / 4 % 8 then [a] else [])) ++
    cardBad m 0x66480 ++ ((upto 8).flatMap fun c => cardBad m (0x67C80 + 1024 * c))

/-- Check 3: the lowest live ID that the device does not report (Table 1-5). -/
def liveMissing (live : Nat) : Option Nat := (upto 64).find? fun n => 1 ≤ n && live.testBit n && 12 < n

/-- The fault of a restore: cause and AUX (R349). -/
def imageFault (m : Memory) : Option (BitVec 8 × Nat) :=
  match (imageBad1 m).min? with
  | some a => some (0x01, a)
  | none => match (imageBad2 m).min? with
    | some a => some (0x01, a)
    | none => (liveMissing (m.nat 8 8)).map fun n => (0x0B, n)

/-! ### Loading -/

/-- A card read back (Table 11-4). -/
def cardOf (b : List Byte) (stamp : Nat) : Card :=
  let w (o n : Nat) : Nat := leNat ((b.drop o).take n)
  let kind := w 0 1 % 16
  { kind := BitVec.ofNat 4 kind, fa := BitVec.ofNat 4 (w 0 1 / 16), fb := BitVec.ofNat 4 (w 1 1), im := BitVec.ofNat 1 (w 1 1 / 16)
    ui := BitVec.ofNat 1 (w 1 1 / 32), nbv := BitVec.ofNat 8 (w 2 1)
    nest := Vector.ofFn fun i => BitVec.ofNat 16 (w (8 + 2 * i.val) 2), started := w 0x14 1 % 2 == 1, ord := w 0x18 8
    regions := Vector.ofFn fun i => { base := BitVec.ofNat 64 (w (0x20 + 16 * i.val) 8), len := BitVec.ofNat 32 (w (0x28 + 16 * i.val) 4) }
    params := if kind = 4 || kind = 6 then []
              else (kindFields kind).zip ((upto (kindFields kind).length).map fun i => BitVec.ofNat 64 (w (0x80 + 8 * i) 8))
    operand := if kind = 4 || kind = 6 then BitVec.ofNat 64 (w 0x80 8) else 0
    row := if kind = 4 then BitVec.ofNat 2048 (w 0x200 256) else 0, col := if kind = 4 then BitVec.ofNat 2048 (w 0x300 256) else 0
    phase := .queued, flags := 0, arrived := false, overrun := false, leaseV := 0, leaseP := 0, stamp := stamp, target := none, hold := 0, claims := [] }

/-- A restored card with what the scheduler's own record of the strand holds of it beside Table 11-4: the flags of the
bodies it has emitted (R121), its place in the issue order (R96). -/
def Card.recall (c : Card) (old : List Card) : Card :=
  match old.find? fun o => o.ord == c.ord && o.kind == c.kind with
  | some o => { c with flags := o.flags, stamp := o.stamp, claims := o.claims }
  | none => c

/-- Whether a restored queue stream is one of the scheduler's own record. -/
def QStream.same (q o : QStream) : Bool :=
  o.iaddr == q.iaddr && o.queue == q.queue && o.store == q.store && o.base == q.base && o.entry == q.entry && o.elem == q.elem

/-- A restored queue stream with what the scheduler's own record of the strand holds of it: the entry that an STQ has
popped and not stored whole, and the ordinals it waits for (R97, R217); its page kinds are looked up again (R91). -/
def State.recallStream (s : State) (old : List QStream) (q : QStream) : QStream :=
  let kind := if q.store then AccKind.store else .load
  let r := { q with kinds := s.elemKinds kind q.width q.elements }
  match old.find? q.same with
  | some o => { r with held := if q.plain then q.held else o.held, tl := o.tl, cp := o.cp, toks := o.toks }
  | none => r

/-- The queue streams of a restored strand: those of the image, and the plain stores that waited past its eight records,
which the scheduler's own record holds (R91, assumption log 65). -/
def State.recallStreams (s : State) (qs old : List QStream) : List QStream :=
  qs.map (s.recallStream old) ++ (if qs.length = 8 && (qs.zip old).all fun p => p.1.same p.2 then old.drop 8 else [])

/-- The header of the block an address lies in: the greatest block start of its object at or below it (R158). -/
def State.headerOfPc (s : State) (pc : Word) : Word :=
  match s.objectAt pc with
  | some o =>
    let off := pc.toNat - o.base.toNat
    match (o.starts.filter fun a => a ≤ off).max? with
    | some a => o.base + BitVec.ofNat 64 a
    | none => pc
  | none => pc

/-- A stream part loaded: `s` holds the strand's identity, for the code its block lies in. -/
def State.streamOf (s : State) (m : Memory) (a : Nat) : Stream :=
  let w (o : Nat) : Word := m.w64 (a + o)
  let pc := w 256
  let hdr := s.headerOfPc pc
  let br := w 264
  let stack := (w 272).toNat % 32
  let rep := w 288
  let code : BitVec 32 := (s.codeWord (rep.extractLsb' 0 56 |>.setWidth 64)).getD 0
  { regs := Vector.ofFn fun i => w (8 * i.val), pc := pc, hdr := hdr, bodyEnd := s.bodyEndAt hdr, left := br.extractLsb' 0 6
    pass := br.extractLsb' 6 6, atHeader := pc == hdr, run := if (w 312).toNat % 4 = 2 then .ended else .running
    stall := if (w 312).toNat % 4 = 1 then (w 312).toNat / 4 % 16 else 0, stallCycles := 0
    stack := ((upto (min stack 16)).map fun i => unspill (BitVec.ofNat 128 (m.nat (a + 320 + 16 * i) 16))).reverse
    spl := (w 272).toNat / 2 ^ 16 % 256, rsbase := w 280
    rep := if rep.getLsbD 63 then
        some { addr := rep.extractLsb' 0 56 |>.setWidth 64, ib := bits code 19 3, ia := bits code 16 3, id := bits code 13 3
               last := bits code 7 6, issue := (rep.extractLsb' 56 6).toNat }
      else none
    drop := if w 296 = 0 then none else some (w 296).toNat
    pause := (w 304).toNat, barwait := none, reply := none, claim := none }

/-- The tile state of a state word (Table 15-15). -/
def tileStateOf (w : Nat) : TileState :=
  match w % 4 with
  | 1 => .claimed (BitVec.ofNat 3 (w / 4))
  | 2 => .full
  | _ => .empty

/-- A restored stream with the resident cycles of its stall so far and the claim of a ring operation that a full undo log
stalls, from the scheduler's own record (R45, R74, R417; assumption logs 65 and 83). -/
def Stream.recall (x old : Stream) : Stream :=
  { x with stallCycles := if x.stall = 0 then 0 else old.stallCycles, claim := if x.stall = 7 && x.pc == old.pc then old.claim else none }

/-- The execute stream of a restored portable-form run: the body of the section in place of a block, begun or not as the
scheduler's own record says (R44, R180; assumption log 65). -/
def Portable.recall (p : Option Portable) (x old : Stream) : Stream :=
  match p with
  | some p => { x with hdr := p.base - 4, bodyEnd := p.base + BitVec.ofNat 64 (4 * leNat ((p.wpf.drop 8).take 4)), atHeader := old.atHeader }
  | none => x

/-- A strand loaded from an image onto a place whose identity `s.cur.id` holds (R346, R349). What no byte of an image holds
(a deferred fault, a portable-form run, the cycles of a stall, a spill area not yet committed, an ended strand) comes from
`old`, the scheduler's own record of the strand, where it has one (assumption log 65). -/
def State.strandOf (s : State) (m : Memory) (old : Option Strand) : Strand :=
  let o := old.getD Strand.blank
  let w (a : Nat) : Word := m.w64 a
  let vreg (a : Nat) : VReg := BitVec.ofNat 2048 (m.nat a 256)
  let queue (n : Nat) : Queue :=
    let slots : Cells 2048 :=
      if n < 4 then (upto 32).foldl (fun c j => Cells.set c j (vreg (0x46040 + 8192 * n + 256 * j))) []
      else if n < 10 then (upto 16).foldl (fun c j => Cells.set c j ((w (0x4E040 + 128 * (n - 4) + 8 * j)).setWidth 2048)) []
      else []
    let q0 : Queue := { Queue.none with slots := slots }.setDesc (w (0x45FC0 + 8 * n))
    let q : Queue := { q0 with pushed := (old.map fun k => (vget k.queues n Queue.none).pushed).getD (q0.occ + 1) }
    if n < 10 then q else q.setBits (w (0x4E340 + 8 * (n - 10)))
  let cards := (0x66480 :: (upto 8).map fun c => 0x67C80 + 1024 * c).filter fun a => !(m.nonzero a 1024).isEmpty
  let thq := (sortBy (fun a b => a.ord ≤ b.ord) (cards.map fun a => cardOf (m.bytes a 1024) 0)).map fun c => { c with stamp := c.ord }.recall o.jobs.thq
  let seqtl := w 0x663D0
  let pb := w 0x663E8
  let st := w 0x66450
  let qs := ((upto 8).filterMap fun i => qstreamOf (m.bytes (0x440 + 576 + 32 * i) 32))
  let streams := s.recallStreams qs o.qstreams
  let faulted := (m.get 6).getLsbD 0
  { s.cur with
    ctl := (s.streamOf m 0x40).recall o.ctl, acc := (s.streamOf m 0x440).recall o.acc
    exe := Portable.recall o.portable ((s.streamOf m 0x840).recall o.exe) o.exe
    v := Vector.ofFn fun i => vreg (0xC40 + 256 * i.val), p := Vector.ofFn fun i => w (0x4C40 + 8 * i.val)
    gmap := Vector.ofFn fun i => m.get (0x4F40 + i.val), vrb := (w 0x4F48).extractLsb' 0 5, prb := (w 0x4F48).extractLsb' 8 6
    tiles := Vector.ofFn fun i => { st := tileStateOf (m.nat (0x44F80 + 4 * i.val) 4), data := m.slice (0x4F80 + 16384 * i.val) 16384 }
    k := Vector.ofFn fun i => vreg (0x44FC0 + 256 * i.val), queues := Vector.ofFn fun i => queue i.val
    qstreams := streams
    glean := (upto 4096).foldl (fun c j => Cells.set c j (BitVec.ofNat 192 (m.nat (0x4E3C0 + 24 * j) 24))) []
    gleanOcc := m.nat 0x4E380 8, gleanHead := m.nat 0x4E388 8, ld := (streams.filter fun q => !q.store).length + (if o.acc.claim.isSome && w (0x440 + 312) = 29 then 1 else 0), st := (streams.filter fun q => q.store).length
    ui := { pend := st.extractLsb' 0 8, mask := st.getLsbD 8, inh := st.getLsbD 9, ovf := st.getLsbD 10, srcs := st.extractLsb' 11 3
            vec := w 0x66440, ret := w 0x66448, hdr := w 0x66458, pass := w 0x66460
            shadow := Vector.ofFn fun i => w (0x66400 + 8 * i.val) }
    fflags := (w 0x663D8).extractLsb' 0 5, nbv := (w 0x663E0).extractLsb' 0 8
    pbst := Vector.ofFn fun i => pb.extractLsb' (2 * i.val) 2, wptr := pb.extractLsb' 8 2, cptr := pb.extractLsb' 10 2
    srt := (w 0x663F0).getLsbD 0
    jobs := { table := Vector.ofFn fun i => w (0x67480 + 8 * i.val), thq := thq, cpq := [], issuedTl := seqtl.toNat + thq.length
              issuedCp := (w 0x663C8).toNat, seqcp := w 0x663C8, seqtl := seqtl, overruns := o.jobs.overruns, fills := o.jobs.fills }
    ls := m.slice 0x6B000 0x200000, gr := m.slice 0x26B000 0x80000
    faults := if faulted then faultOf (m.bytes 0x69C80 64) :: o.faults.drop 1 else [], published := 0, deferred := o.deferred
    frozen := faulted, hung := faulted && o.hung, ended := o.ended, spillReady := o.spillReady, portable := o.portable, spec := none
    resident := true, parked := true }

end Sys2Proof.Machine
end

