-- ==== Sys2Proof/Machine/Ring.lean ====
section
/-!
DEFINITION. Rings (09 R234 to R244): the control block, records, reservation and publication, RRESV, RPUB, WENQ, RPOP,
RPEEK, MSEND, and the hardware's own WENQ (R238); and MSTORE (R245, 16 R373).
-/
namespace Sys2Proof.Machine

/-- A ring control block (Table 9-8); counters as numbers. -/
structure Rcb where
  head : Nat
  tail : Nat
  resv : Nat
  sks : Nat
  buf : Word
  cap : Nat
  ctl : BitVec 32
  own : Word
  ntf : Word
  deriving DecidableEq, Repr

/-- The block in 64 bytes. -/
def Rcb.ofBytes (bs : List Byte) : Rcb :=
  let w (o n : Nat) : Nat := leNat ((bs.drop o).take n)
  { head := w 0 8, tail := w 8 8, resv := w 0x10 8, sks := w 0x18 8, buf := BitVec.ofNat 64 (w 0x20 8), cap := w 0x28 4
    ctl := BitVec.ofNat 32 (w 0x2C 4), own := BitVec.ofNat 64 (w 0x30 8), ntf := BitVec.ofNat 64 (w 0x38 8) }

/-- The 64 bytes of a block. -/
def Rcb.bytes (r : Rcb) : List Byte :=
  natLe 8 r.head ++ natLe 8 r.tail ++ natLe 8 r.resv ++ natLe 8 r.sks ++ natLe 8 r.buf.toNat ++ natLe 4 r.cap ++
    natLe 4 r.ctl.toNat ++ natLe 8 r.own.toNat ++ natLe 8 r.ntf.toNat

/-- SCOPE. -/
def Rcb.scope (r : Rcb) : BitVec 3 := r.ctl.extractLsb' 0 3
/-- MBX. -/
def Rcb.mbx (r : Rcb) : Bool := r.ctl.getLsbD 3
/-- UIN. -/
def Rcb.uin (r : Rcb) : Bool := r.ctl.getLsbD 4
/-- PTID. -/
def Rcb.ptid (r : Rcb) : BitVec 8 := r.ctl.extractLsb' 8 8
/-- CTID. -/
def Rcb.ctid (r : Rcb) : BitVec 8 := r.ctl.extractLsb' 16 8

/-- Whether a number is a power of two from 64 to 2^31. -/
def isCap (n : Nat) : Bool := (upto 26).any fun k => n == 64 * 2 ^ k

/-- A field of the block breaks R234. -/
def Rcb.bad (r : Rcb) : Bool :=
  !(r.head ≤ r.tail && r.tail ≤ r.resv && r.resv ≤ r.head + r.cap) || !isCap r.cap || 4 < r.scope.toNat ||
    r.ctl.extractLsb' 5 3 != 0#3 || r.ctl.extractLsb' 24 8 != 0#8 || r.buf.toNat % 64 != 0 ||
    !(r.buf.toNat / 2 ^ 56 == 0 || r.buf.toNat / 2 ^ 56 == 3) ||
    r.own.extractLsb' 11 5 != 0#5 || r.own.extractLsb' 35 29 != 0#29

/-- Whether the issuing strand lies inside the scope instance of OWN (R238). -/
def State.insideRing (s : State) (r : Rcb) : Bool :=
  let i := s.cur.id
  let pkg := r.own.extractLsb' 0 8
  let die := r.own.extractLsb' 8 3
  let stag := r.own.extractLsb' 16 16
  let six := r.own.extractLsb' 32 3
  match r.scope.toNat with
  | 0 => i.pkg == pkg && i.die == die && i.stag == stag && i.six == six
  | 1 => i.pkg == pkg && i.die == die && i.stag == stag
  | 2 => i.pkg == pkg && i.die == die
  | 3 => i.pkg == pkg
  | _ => s.inDomain pkg.toNat && s.inDomain i.pkg.toNat

/-- The size of a record (R235). -/
def recordSize (len : Nat) : Nat := 8 + 8 * ((len + 7) / 8)

/-- Where a reservation of a record lies (R239): its counter, the skip before it and its size. -/
structure Room where
  c : Nat
  skip : Nat
  size : Nat
  deriving DecidableEq, Repr

/-- The room a record of `len` bytes takes at counter `c`. -/
def Rcb.roomAt (r : Rcb) (c len : Nat) : Room :=
  let size := recordSize len
  { c := c, skip := if r.cap < c % r.cap + size then r.cap - c % r.cap else 0, size := size }

/-- The address of the byte at a counter (R234). -/
def Rcb.addr (r : Rcb) (c : Nat) : Word := r.buf + BitVec.ofNat 64 (c % r.cap)

/-- Whether the ring has no room for a reservation (R239). -/
def Rcb.full (r : Rcb) (m : Room) : Bool := r.cap < r.resv - r.head + m.skip + m.size

/-- A record header (R235). -/
def recordHeader (len : Nat) (ty : BitVec 16) (tag tid : BitVec 8) : Word :=
  tid ++ tag ++ ty ++ BitVec.ofNat 32 len

/-- The stores a reservation's headers make, the skip first (R239). -/
def Rcb.headers (r : Rcb) (m : Room) (hdr : Word) (tid : BitVec 8) : List (Word × List Byte) :=
  (if m.skip = 0 then [] else [(r.addr m.c, wordBytes (recordHeader (m.skip - 8) 0xFFFF 0 tid) 8)]) ++
    [(r.addr (m.c + m.skip), wordBytes hdr 8)]

/-! ### Checks of several ranges -/

/-- The outcome of checking several ranges. -/
inductive RangeChk where
  | ok (ps : List (Word × List Piece))
  | fault (cause : BitVec 8) (faddr : Word)
  | wait

/-- Every range checked in order; an empty range needs no check. -/
def State.checkRanges (s : State) : List (AccKind × Word × Nat) → RangeChk
  | [] => .ok []
  | (kind, ea, n) :: rest =>
    if n = 0 then
      match s.checkRanges rest with
      | .ok ps => .ok ((ea, []) :: ps)
      | e => e
    else match s.check kind 1 false ea n with
      | .fault c a => .fault c a
      | .wait => .wait
      | .ok ps => match s.checkRanges rest with
        | .ok qs => .ok ((ea, ps) :: qs)
        | e => e

/-- The units of several ranges committed (R102, R103). -/
def State.commitRanges (s : State) : List (Word × List Piece) → Commit
  | [] => .done s
  | (ea, ps) :: rest => match s.commitAll ea 2 ps with
    | .done t => t.commitRanges rest
    | e => e

/-- Checked stores performed one after another. -/
def State.storeRanges (s : State) : List (Word × List Byte) → State
  | [] => s
  | (ea, bs) :: rest =>
    match s.locateAll ea (splits ea bs.length) with
    | .ok ps => (s.storeNow ea ps bs).storeRanges rest
    | _ => s.storeRanges rest

/-- Whether the undo log has no room for one of the stores (R417). -/
def State.rangesStall (s : State) (ws : List (Word × List Byte)) : Bool :=
  ws.any fun w => match s.locateAll w.1 (splits w.1 w.2.length) with
    | .ok ps => s.logStall ps
    | _ => false

/-- Whether the stores must wait: behind an earlier access that Table 4-7 keeps before them (R91), or because a remote one
could not be sent now (R366). -/
def State.rangesKept (s : State) (ws : List (Word × List Byte)) : Bool :=
  ws.any fun w => match s.locateAll w.1 (splits w.1 w.2.length) with
    | .ok ps => s.kept .store ps || !s.clearToGo ps
    | _ => true

/-- Whether an access of the ranges stalls on a job's footprint or a queue stream (R67, R97). -/
def State.rangesHeld (s : State) (rs : List (AccKind × Word × Nat)) : Bool :=
  rs.any fun r => s.cur.jobStall r.1 r.2.1 r.2.2 || s.streamStall r.2.1 r.2.2

/-! ### The ring operations -/

/-- The block at a place. -/
def State.rcbAt (s : State) (loc : Loc) : Rcb := Rcb.ofBytes (s.getBytes loc 64)

/-- The block at a place replaced. -/
def State.setRcb (s : State) (loc : Loc) (r : Rcb) : State := s.setBytes loc r.bytes

/-- The physical key of a place: an object of a strand by the core it lies on (Table 4-3). -/
def State.keyOf (s : State) (loc : Loc) : Nat :=
  match loc with
  | .own o off => s.dev.chipKey s.cur.id.coreNum.toNat o off
  | .peer d t x o off => match s.findPeer d t x with
    | some k => s.dev.chipKey k.id.coreNum.toNat o off
    | none => 0
  | .phys key => key

/-- A publication into a registered launch ring sets the queue's pending-kick bit (R304, R391). -/
def State.published (s : State) (loc : Loc) : State :=
  let key := BitVec.ofNat 64 (s.keyOf loc)
  s.setDev (s.dev.tents.foldl (fun d t =>
    t.rings.foldl (fun d q => if q.2 == key then d.kick t.tid q.1 else d) d) s.dev)

/-- A ring operation ends with a status or an address in s[d] (Table 9-9); one that had claimed its room no longer counts on
ld (R70). -/
def State.ringEnd (s : State) (d : Reg) (v : Word) : State :=
  let t := if s.me.claim.isSome then s.count false (· - 1) else s
  ((t.setMe { t.me with claim := none }).wr d v).complete 4

/-- A ring operation that has claimed the room at a counter and still has to write it: it counts on ld until its value reaches
its register (R70, R243). -/
def State.ringClaimed (s : State) (c : Nat) : State :=
  let t := if s.me.claim.isSome then s else s.count false (· + 1)
  t.setMe { t.me with claim := some (BitVec.ofNat 64 c) }

/-- Who may use a mailbox's operation: producer, consumer (R237). -/
inductive RingSide where
  | producer
  | consumer
  deriving DecidableEq, Repr

/-- A ring operation (R236, R237): the handle checked as a granary object, then BAD and REJECT, then `k` on the block;
`rel` marks the releases of R243, which wait for every earlier access; the others wait for what Table 4-7 keeps before
them. -/
def State.ring (s : State) (a d : Reg) (rel : Bool) (side : RingSide) (k : State → Loc → Rcb → State) : State :=
  s.unlessSpec <|
  let claimed := s.me.claim.isSome
  if !claimed && s.counterFull false then s.stallOn 5
  else s.granary 64 (s.rd a) fun s p =>
    if !claimed && s.me.reply.isNone && ((if rel then !s.drained else s.kept .atomic [p]) || !s.evictable [p]) then s.idle
    else s.remoteGate (if p.hit.remote && !claimed then some p.hit else none) 0 64 (s.rd a) fun t =>
      let r := t.rcbAt p.hit.loc
      let tid := t.cur.id.tid
      if claimed then s.flushed false r.scope (k t p.hit.loc r)
      else if r.bad then t.ringEnd d 5
      else if !t.insideRing r || (r.mbx && tid != (if side = .producer then r.ptid else r.ctid)) then
        (if t.cur.srt && t.cur.id.sys then t.raise 0x08 0 0 0 else t.ringEnd d 4)
      else s.flushed false r.scope (k t p.hit.loc r)

/-- LEN of a descriptor (R236). -/
def descLen (w : Word) : Nat := w.toNat % 2 ^ 32
/-- TYPE of a descriptor. -/
def descType (w : Word) : BitVec 16 := w.extractLsb' 32 16
/-- TAG of a descriptor. -/
def descTag (w : Word) : BitVec 8 := w.extractLsb' 48 8

/-- The header a descriptor asks for, with the producer's tent (R235). -/
def State.headerOf (s : State) (desc : Word) : Word :=
  recordHeader (descLen desc) (descType desc) (descTag desc) s.cur.id.tid

/-- The operand rule of RRESV, WENQ and MSEND (R235, R239). -/
def Rcb.refuses (r : Rcb) (desc : Word) : Bool := r.cap < recordSize (descLen desc) || 0xFFEF < (descType desc).toNat

/-- The claimed counter remembered while the undo log has no room (R243). -/
def State.claimStall (s : State) (c : Nat) : State := (s.ringClaimed c).stallOn 7

/-- The headers of a reservation written, and its payload address returned (R239). -/
def State.finishResv (s : State) (d : Reg) (r : Rcb) (m : Room) (hdr : Word) : State :=
  let ws := r.headers m hdr s.cur.id.tid
  if s.rangesStall ws then s.claimStall m.c
  else if s.rangesKept ws then (s.ringClaimed m.c).idle
  else ((s.storeRanges ws).acquired r.scope).ringEnd d (r.addr (m.c + m.skip) + 8)

/-- R239: RRESV. -/
def State.rresv (s : State) (d b : Reg) (loc : Loc) (r : Rcb) : State :=
  let desc := s.rd b
  let hdr := s.headerOf desc
  match s.me.claim with
  | some c => s.finishResv d r (r.roomAt c.toNat (descLen desc)) hdr
  | none =>
    if r.refuses desc then s.ringEnd d 5
    else
      let m := r.roomAt r.resv (descLen desc)
      let ws := r.headers m hdr s.cur.id.tid
      let rs := ws.map fun w => (AccKind.store, w.1, w.2.length)
      match s.checkRanges rs with
      | .fault c x => s.raiseAt c (chkDetail c 2) x 0
      | .wait => s.idle
      | .ok ps =>
        if s.rangesHeld rs then s.stallOn 6
        else if s.rangesKept ws then s.idle
        else match s.commitRanges ps with
          | .fault c dt x aux => s.raise c dt x aux
          | .full => s.stallOn 7
          | .done t =>
            if r.full m then (t.acquired r.scope).ringEnd d 2
            else if 0 < m.skip && r.sks != 0 && r.tail < m.c then (t.acquired r.scope).ringEnd d 3
            else
              let sks := if 0 < m.skip && r.sks == 0 && r.tail != m.c then m.c else r.sks
              let tail := if 0 < m.skip && r.tail == m.c then m.c + m.skip else r.tail
              let r' := { r with sks := sks, resv := m.c + m.skip + m.size, tail := tail }
              (t.setRcb loc r').finishResv d r' m hdr

/-- A header read at a counter, or the fault of its read. -/
def State.headerAt (s : State) (ea : Word) (k : State → Word → State) : State :=
  match s.check .load 1 false ea 8 with
  | .fault c x => s.raiseAt c (chkDetail c 2) x 0
  | .wait => s.idle
  | .ok ps =>
    if s.rangesHeld [(.load, ea, 8)] then s.stallOn 6
    else if !s.clearToGo ps then s.idle
    else match s.poisonIn ps with
      | [] => k (s.readParts ea ps).1 (BitVec.ofNat 64 (leNat (s.readParts ea ps).2))
      | ls => s.poisoned ls (s.faultRec 0x10 s.who.num false 0 s.me.iaddr (s.poisonAddr ea ps) (s.me.aux 0))

/-- R240: RPUB. -/
def State.rpub (s : State) (d b : Reg) (loc : Loc) (r : Rcb) : State :=
  let idx := (s.rd b - 8 - r.buf).toNat
  if !(idx ≤ r.cap - 8) || idx % 8 != 0 then s.ringEnd d 5
  else s.headerAt (r.buf + BitVec.ofNat 64 idx) fun s1 h =>
    let len := descLen h
    let base := r.tail / r.cap * r.cap + idx
    let c := if base < r.tail then base + r.cap else base
    if r.resv ≤ c then s1.ringEnd d 5
    else if c != r.tail then s1.ringEnd d 3
    else
      let tail := c + recordSize len
      let r' := if tail == r.sks then { r with tail := (tail + r.cap - 1) / r.cap * r.cap, sks := 0 } else { r with tail := tail }
      (((s1.released r.scope).setRcb loc r').published loc).ringEnd d 0

/-- The writes of a whole record at a reservation (R241). -/
def Rcb.record (r : Rcb) (m : Room) (hdr : Word) (tid : BitVec 8) (payload : List Byte) : List (Word × List Byte) :=
  (if m.skip = 0 then [] else [(r.addr m.c, wordBytes (recordHeader (m.skip - 8) 0xFFFF 0 tid) 8)]) ++
    [(r.addr (m.c + m.skip), wordBytes hdr 8 ++ payload)]

/-- The end of a WENQ: record written, then published (R241), with the notification of a mailbox send (R244). -/
def State.finishWenq (s : State) (d : Reg) (loc : Loc) (r : Rcb) (m : Room) (hdr : Word) (payload : List Byte)
    (send : Bool) : State :=
  let ws := r.record m hdr s.cur.id.tid payload
  let stored := s.storeRanges ws
  if s.rangesStall ws || !stored.flushable r.scope then s.claimStall m.c
  else if s.rangesKept ws then (s.ringClaimed m.c).idle
  else
    let t := stored.released r.scope
    let t1 := (t.setRcb loc { r with tail := m.c + m.skip + m.size }).published loc
    let t2 := if send && r.uin then
      t1.setDev { t1.dev with notices := t1.dev.notices ++ [(t1.keyOf loc, payload.take 16384)] } else t1
    t2.ringEnd d 0

/-- R241: WENQ; R244: with `send`, MSEND. -/
def State.wenq (s : State) (d b : Reg) (send : Bool) (loc : Loc) (r : Rcb) : State :=
  let desc := s.rd d
  let src := s.rd b
  let len := descLen desc
  let hdr := s.headerOf desc
  if s.me.claim.isNone && ((send && !r.mbx) || r.refuses desc) then s.ringEnd d 5
  else
    let m := r.roomAt ((s.me.claim.map BitVec.toNat).getD r.resv) len
    if s.me.claim.isNone && r.full m then s.ringEnd d 2
    else
      let dst := r.addr (m.c + m.skip)
      let rs := [(AccKind.load, src, len)] ++ (if m.skip = 0 then [] else [(AccKind.store, r.addr m.c, 8)]) ++
        [(AccKind.store, dst, 8 + len)]
      match s.checkRanges rs with
      | .fault c x => s.raiseAt c (chkDetail c 2) x 0
      | .wait => s.idle
      | .ok ps =>
        let from_ := (ps.head?.map (·.2)).getD []
        if s.rangesHeld rs then s.stallOn 6
        else if !s.clearToGo from_ then s.idle
        else match s.poisonIn from_ with
          | p :: ls => s.poisoned (p :: ls) (s.faultRec 0x10 s.who.num false 0 s.me.iaddr (s.poisonAddr src from_) (s.me.aux 0))
          | [] => match s.commitRanges (ps.drop 1) with
            | .fault c dt x aux => s.raise c dt x aux
            | .full => s.stallOn 7
            | .done u =>
              let t := (u.readParts src from_).1
              let payload := (u.readParts src from_).2
              if t.me.claim.isSome then t.finishWenq d loc r m hdr payload send
              else if r.resv != r.tail then t.ringEnd d 3
              else
                let r' := { r with resv := m.c + m.skip + m.size }
                (t.setRcb loc r').finishWenq d loc r' m hdr payload send

/-- The counter of the oldest record past a published skip at HEAD, with the machine after reading (R242); `k` receives
none when no record is published there, and whether a skip was stepped over. -/
def State.oldest (s : State) (r : Rcb) (k : State → Option (Nat × Nat) → Nat → State) : State :=
  if r.tail ≤ r.head then k s none r.head
  else s.headerAt (r.addr r.head) fun s1 h =>
    if descType h == 0xFFFF then
      let h2 := r.head + recordSize (descLen h)
      if r.tail ≤ h2 then k s1 none h2
      else s1.headerAt (r.addr h2) fun s2 g => k s2 (some (h2, recordSize (descLen g))) h2
    else k s1 (some (r.head, recordSize (descLen h))) r.head

/-- R242: RPEEK. -/
def State.rpeek (s : State) (d : Reg) (r : Rcb) : State :=
  (s.acquired r.scope).oldest r fun t o _ =>
    match o with
    | some (c, _) => t.ringEnd d (r.addr c + 8)
    | none => t.ringEnd d 1

/-- A record the hardware enqueues itself (R238, R305, R338): the block at `loc` of the context `s` stands for; its
status of Table 9-9, never REJECT, in the order of R241, or 7 where it must wait: for a page that moves (R364), a full
undo log (R417) or a held path (R366). A translation or permission failure gives BAD with nothing done (R305). -/
def State.hwEnqueue (s : State) (loc : Loc) (hdr : Word) (payload : List Byte) : State × Nat :=
  let r := s.rcbAt loc
  if r.bad || r.cap < recordSize payload.length then (s, 5)
  else
    let m := r.roomAt r.resv payload.length
    let ws := r.record m hdr (hdr.extractLsb' 56 8) payload
    if r.full m then (s, 2)
    else match s.checkRanges (ws.map fun w => (AccKind.store, w.1, w.2.length)) with
      | .fault _ _ => (s, 5)
      | .wait => (s, 7)
      | .ok ps => match s.commitRanges ps with
        | .fault _ _ _ _ => (s, 5)
        | .full => (s, 7)
        | .done t =>
          if r.resv != r.tail then (t, 3)
          else if s.rangesStall ws || s.rangesKept ws then (s, 7)
          else
            let t1 := t.storeRanges ws
            let e := m.c + m.skip + m.size
            ((t1.setRcb loc { r with resv := e, tail := e }).published loc, 0)

/-- End-of-stream records that waited for room in the ring at a place (R34). -/
def State.retryEos (s : State) (loc : Loc) : State :=
  let key := s.placeOf loc
  match s.dev.eosWait.find? fun e => e.1 == key with
  | none => s
  | some e =>
    let r := s.hwEnqueue loc (recordHeader 0 0xFFFE 0 e.2) []
    if r.2 = 0 then r.1.setDev { r.1.dev with eosWait := r.1.dev.eosWait.filter fun x => !(x.1 == key) } else s

/-- R242: RPOP. -/
def State.rpop (s : State) (d : Reg) (loc : Loc) (r : Rcb) : State :=
  s.oldest r fun t o past =>
    let t1 := t.released r.scope
    match o with
    | some (c, size) => ((t1.setRcb loc { r with head := c + size }).retryEos loc).ringEnd d 0
    | none => ((t1.setRcb loc { r with head := past }).retryEos loc).ringEnd d 1

/-- R239, R243: RRESV, an acquire at the ring's scope. -/
def execRresv (d a b : Reg) (s : State) : Res :=
  s.only .a (.next (s.ring a d false .producer fun t loc r => t.rresv d b loc r))
/-- R240, R243: RPUB, a release. -/
def execRpub (d a b : Reg) (s : State) : Res :=
  s.only .a (.next (s.ring a d true .producer fun t loc r => t.rpub d b loc r))
/-- R241, R243: WENQ, a release. -/
def execWenq (d a b : Reg) (s : State) : Res :=
  s.only .a (.next (s.ring a d true .producer fun t loc r => t.wenq d b false loc r))
/-- R242, R243: RPOP, a release. -/
def execRpop (d a : Reg) (s : State) : Res :=
  s.only .a (.next (s.ring a d true .consumer fun t loc r => t.rpop d loc r))
/-- R242, R243: RPEEK, an acquire. -/
def execRpeek (d a : Reg) (s : State) : Res :=
  s.only .a (.next (s.ring a d false .consumer fun t _ r => t.rpeek d r))
/-- R244: MSEND. -/
def execMsend (d a b : Reg) (s : State) : Res :=
  s.only .a (.next (s.ring a d true .producer fun t loc r => t.wenq d b true loc r))

/-! ### MSTORE -/

/-- A group of the tent's group table (R373): its members' places as (peer, physical address), its window bytes and
whether it forwards in a chain; none for an invalid entry. -/
def State.group (s : State) (asid g : Nat) : Option (List (Nat × Nat) × Nat × Bool) :=
  let gtab := s.astWord asid 2
  if !s.tableNamed gtab then none
  else
    let base := physKey (ptePeer gtab) (pteAddr gtab) + 256 * g
    let head := s.natAt base 8
    let chain := pteBit head 1
    let n := head / 4 % 32
    let wlen := head / 2 ^ 32
    let member (i : Nat) : Nat := s.natAt (base + 0x40 + 8 * i) 8
    let ok (e : Nat) : Bool :=
      !pteBit e 63 && e % 2 ^ 52 % 8 == 0 &&
      match physRegion (e / 2 ^ 52 % 2048) (e % 2 ^ 52) wlen with
      | some .stacked | some .lpddr | some .chip => true
      | _ => false
    let zeros : Bool := (upto 7).all (fun i => s.natAt (base + 8 + 8 * i) 8 == 0) &&
      (upto (24 - n)).all fun i => member (n + i) == 0
    if pteBit head 0 && head / 128 % 2 ^ 25 == 0 && 1 ≤ n && n ≤ (if chain then 8 else 16) && wlen % 8 == 0 && 8 ≤ wlen &&
        zeros && (upto n).all fun i => ok (member i) then
      some ((upto n).map fun i => (member i / 2 ^ 52, member i % 2 ^ 52), wlen, chain)
    else none

/-- The request of a multicast to the members of a group (R245, R374); the die's copies of their lines leave its cache first
(R369). -/
def State.sendCast (s : State) (w : Word) (faddr : Word) (ms : List (Nat × Nat)) (chain : Bool) : State :=
  let out := if s.freeTag.isSome then ms.foldl (fun (u : State) m => u.evictKey (physKey m.1 m.2) 8) s else s
  let t := out.sendAwaited 3 [] (bytes8 w) false faddr
  match t.awaited with
  | none => t
  | some r =>
    let all := 2 ^ ms.length - 1
    t.setMyDie (t.myDie.setRequest { r with
      bitmap := BitVec.ofNat 16 all, value := BitVec.ofNat 128 all, members := ms, chain := chain })

/-- Whether a multicast waits for an earlier access of its strand: a store in flight or an element of a queue stream (R67, R91);
its members' windows are written as pages of kind RC are (assumption log 71). -/
def State.castKept (s : State) (ms : List (Nat × Nat)) : Bool :=
  ms.any fun m =>
    s.storesInFlight.any (fun r => r.parts.any fun p =>
      (p.key < physKey m.1 m.2 + 8 && physKey m.1 m.2 < p.key + p.len) || keptPair true true p.pkind 1) ||
    s.cur.qstreams.any fun q =>
      (q.entry < q.count && q.kinds.any fun k => keptPair q.store true k 1) ||
        q.pending.any fun e => spansMeet (s.spans (q.addr e.1 e.2) q.width) [(physKey m.1 m.2, 8)]

/-- Whether the lines of a multicast's members that the die holds dirty can be written back now (R366, R369, R417). -/
def State.castReady (s : State) (ms : List (Nat × Nat)) : Bool :=
  s.canWriteBack (ms.flatMap fun m => linesOf (physKey m.1 m.2) 8)

/-- R245: MSTORE: the write is sent to every member of the group, and the bitmap of those that did not acknowledge is
returned with the merged reply. -/
def execMstore (d a b : Reg) (s : State) : Res :=
  let g := (s.rd d).toNat % 256
  let off := (s.rd a).toNat
  s.only .a (.next (s.unlessSpec (
    if s.counterFull false then s.stallOn 5
    else match s.awaited with
      | some r =>
        if r.replied then ((s.tookReply r).wr d (r.value.setWidth 64)).complete 4 else s.idle
      | none =>
        if off % 8 != 0 then s.raise 0x03 0 (s.rd a) 0
        else match s.group s.cur.id.asid.toNat g with
          | none => s.raise 0x05 1 (s.rd a) 0
          | some (ms, wlen, chain) =>
            let at_ := ms.map fun m => (m.1, m.2 + off)
            if wlen < off + 8 then s.raise 0x04 1 (s.rd a) 0
            else if s.castKept at_ || !s.castReady at_ then s.idle
            else s.sendCast (s.rd b) (s.rd a) at_ chain)))

end Sys2Proof.Machine
end

