-- ==== Sys2Proof/Machine/Agent.lean ====
section
/-!
DEFINITION. Scheduler firmware as an agent: its accesses under a tent's or the system context's translation (R306,
R308, R338), the pages and persistent regions it allocates (R21, R192, R297, R313, R412), and the journal (R381).
-/
namespace Sys2Proof.Machine

/-- In whose name firmware acts: the die it acts from, and the tent or the system context (R332). -/
structure Agent where
  die : Nat
  tid : Nat
  asid : Nat
  sys : Bool
  deriving DecidableEq, Repr

/-- The system context on a die. -/
def Agent.system (die : Nat) : Agent := { die := die, tid := 0, asid := 0, sys := true }

/-- A tent's firmware, on its home die (R379). -/
def Tent.agent (t : Tent) : Agent := { die := t.home, tid := t.tid, asid := t.asid, sys := false }

/-- The machine as the agent sees it: its identity in place of the current strand's, which steps aside. -/
def State.enter (s : State) (g : Agent) : State :=
  { s with
    cur := { Strand.blank with id := { Ident.blank with
      pkg := s.dev.pkg, die := BitVec.ofNat 3 g.die, tid := BitVec.ofNat 8 g.tid, asid := BitVec.ofNat 16 g.asid, sys := g.sys } }
    others := s.cur :: s.others }

/-- The current strand back in its place. -/
def State.leave (s : State) : State :=
  match s.others with
  | k :: ks => { s with cur := k, others := ks }
  | [] => s

/-- The same machine, with what `f` does in the agent's name. -/
def State.inName (s : State) (g : Agent) (f : State → State) : State := (f (s.enter g)).leave

/-- What a failed check of firmware's comes to, as the agent `t` made it: poison that its walkers met rolls the domain back, but
for a line restored poisoned (R420, R423). -/
def State.walked (s t : State) (c : BitVec 8) (a : Word) (bad : State) : State :=
  if c = 0x10 && !((t.poisonOf a).all fun l => s.dev.restored.contains l) then s.rollback (t.poisonOf a) [] else bad

/-- A read by firmware: `k` with the bytes, `bad` where translation, permission or a line restored poisoned stops it
(R423); other poison rolls the domain back (R420), and a page that moves makes the whole event wait (`orig`, R364). -/
def State.readK (s : State) (g : Agent) (orig : State) (ea : Word) (n : Nat) (bad : State → State)
    (k : State → List Byte → State) : State :=
  if n = 0 then k s []
  else if ea.toNat / 2 ^ 56 != 0 then bad s
  else
    let t := s.enter g
    match t.check .load 1 false ea n with
    | .fault c a => s.walked t c a (bad s)
    | .wait => orig
    | .ok ps => if !t.clearToGo ps then orig else match t.poisonIn ps with
      | [] => k (t.readParts ea ps).1.leave (t.readParts ea ps).2
      | ls => if ls.all fun l => s.dev.restored.contains l then bad s else s.rollback ls []

/-- A write by firmware, committed like a store (R306, R307): `k` after it, `bad` with the launch status code of
Table 12-3 where it cannot be made; a full undo log or a page that moves makes the event wait. -/
def State.writeK (s : State) (g : Agent) (orig : State) (ea : Word) (bs : List Byte) (bad : State → Nat → State)
    (k : State → State) : State :=
  if bs.isEmpty then k s
  else if ea.toNat / 2 ^ 56 != 0 then bad s 8
  else
    let t := s.enter g
    match t.check .store 1 false ea bs.length with
    | .fault c a => s.walked t c a (bad s 8)
    | .wait => orig
    | .ok ps => match t.commitAll ea 1 ps with
      | .fault c _ _ _ => bad s (if c == 0x06 then 9 else 8)
      | .full => orig
      | .done u =>
        if u.logStall ps || !u.clearToGo ps then orig
        else if u.holdFull ps then
          orig.setDev orig.dev.requestSeal
        else k (u.storeNow ea ps bs).leave

/-! ### Pages -/

/-- The TV address of new pages: a free value among the 64 KiB units where the address space maps nothing, never 0 (R297,
assumption log 3). -/
def State.newPages (s : State) (units : Nat) : Word :=
  let asid := s.cur.id.asid.toNat
  let at_ (k : Nat) : Nat := ((s.free.toNat + k) % 2 ^ 39 + 1) * 65536
  let ok (va : Nat) : Bool := (upto units).all fun u => (s.leafOf asid (va + 65536 * u)).isNone
  BitVec.ofNat 64 (at_ (((upto 4096).find? fun k => ok (at_ k)).getD 0))

/-- New frames of the current die's memory for pages of firmware's: none of a carve-out (R13) and none that firmware has
mapped; which ones the spec leaves open (assumption log 3). -/
def State.newFrames (s : State) (units : Nat) : Nat :=
  physKey s.myPeer (s.dev.takeFrame s.cur.id.die.toNat units s.fresh)

/-- The tent charged for units of stacked DRAM at once, or the quota words it has (R103, R297); the system context is
not counted (R332). -/
def State.chargeStk (s : State) (units : Nat) : State ⊕ Word :=
  match (if s.cur.id.sys then none else s.dev.tent s.cur.id.tid.toNat) with
  | none => .inl s
  | some t =>
    if t.limStk.toNat < t.usedStk.toNat + units then .inr (t.quota 0)
    else .inl (s.setDev { s.dev with tents := s.dev.tents.map fun x =>
      if x.tid == t.tid then { t with usedStk := t.usedStk + BitVec.ofNat 32 units } else x })

/-- Fresh units that hold the given bytes and zeros after them, tagged without undo entries (R357, R408). -/
def Device.freshUnits (d : Device) (key units : Nat) (bs : List Byte) : Device :=
  let mine (l : Nat) : Bool := key / 64 ≤ l && l < key / 64 + 1024 * units
  { d with
    mem := (d.mem.clear key (65536 * units)).blit key bs
    tags := ((upto (1024 * units)).map fun k => (key / 64 + k, d.rin.setWidth 8)) ++ d.tags.filter fun t => !mine t.1
    poison := d.poison.filter fun l => !mine l
    restored := d.restored.filter fun l => !mine l }

/-- Leaf attributes of firmware's mappings (Table 16-2): code open to user mode, system code, read-only data (R21),
read-write data, and the spill areas' supervisor pages (R192). -/
def attrCode : Nat := 0xB3
/-- System code. -/
def attrSysCode : Nat := 0x93
/-- Read-only data. -/
def attrReadOnly : Nat := 0xA7
/-- Read-write data. -/
def attrData : Nat := 0xAF
/-- A spill area. -/
def attrSpill : Nat := 0x8F

/-- New pages mapped in the current address space on new frames of the current die: the machine and their address. -/
def State.mapNew (s : State) (units attrs : Nat) (owner : MapOwner) (charged : Bool) (bs : List Byte) : State × Word :=
  let base := s.newPages units
  let key := s.newFrames units
  let m : Mapping := { asid := s.cur.id.asid.toNat, base := base, units := units, key := key, attrs := attrs, owner := owner
                       charged := charged && !s.cur.id.sys }
  let d := s.dev.freshUnits key units bs
  ((s.setDev { d with maps := d.maps ++ [m] }).drew, base)

/-- Mappings undone: their units leave USED, and every die's TLBs drop their translations (R361). -/
def Device.unmap (d : Device) (p : MapOwner → Bool) : Device :=
  let gone := d.maps.filter fun m => p m.owner
  let dead (e : TlbEntry) : Bool := gone.any fun m =>
    e.asid == m.asid && e.level == 3 && m.base.toNat / 65536 ≤ e.page && e.page < m.base.toNat / 65536 + m.units
  let units (t : Tent) : Nat := gone.foldl (fun n m => if m.charged && m.asid == t.asid then n + m.units else n) 0
  { d with
    maps := d.maps.filter fun m => !p m.owner
    dies := if gone.isEmpty then d.dies else d.dies.map fun x => x.tlbDrop dead
    tents := d.tents.map fun t => { t with usedStk := t.usedStk - BitVec.ofNat 32 (units t) } }

/-! ### Persistent regions -/

/-- The physical key of a byte of a core's granary (Table 4-3); `core` is package-wide. -/
def Device.granaryKey (d : Device) (core off : Nat) : Nat :=
  physKey (d.peerOf (core / 64)) (0xFFF * 2 ^ 40 + core * 2 ^ 28 + 2 ^ 24 + off)

/-- The persistent regions on a core's granary as (offset, end). -/
def Device.regionsOn (d : Device) (core : Nat) : List (Nat × Nat) :=
  let base := d.granaryKey core 0
  (d.persistPages.filter fun r => base ≤ r.1 && r.1 < base + 0x80000).map fun r => (r.1 - base, r.1 - base + r.2.1)

/-- Whether a core is a granary host (R412). -/
def Device.isHost (d : Device) (core : Nat) : Bool := !(d.regionsOn core).isEmpty

/-- Whether a core holds a strand. -/
def State.coreTaken (s : State) (core : Nat) : Bool :=
  (s.cur :: s.others).any fun k => k.resident && k.id.coreNum.toNat == core

/-- The place for a region on a host, in pages 0 to 6: after a region already there, else at the start of a page from
page 6 downward (R412, Table 14-13). -/
def Device.placeOn (d : Device) (core bytes : Nat) : Option Nat :=
  let rs := d.regionsOn core
  let cand := (rs.map fun r => (r.2 + 63) / 64 * 64) ++ (upto 7).map fun p => 65536 * (6 - p)
  cand.find? fun o => o + bytes ≤ 0x70000 && rs.all fun r => o + bytes ≤ r.1 || r.2 ≤ o

/-- A persistent region of a die for a tent: from core 7 of cluster 7
downward, on cores that hold no strand; its contents become zero (R411, R412). The key of its first byte, none when no
host has room. -/
def State.allocPersist (s : State) (die bytes tid : Nat) : Option (State × Nat) :=
  let cores := (upto 64).map fun k => 64 * die + (63 - k)
  match cores.findSome? fun c => if s.coreTaken c then none else (s.dev.placeOn c bytes).map fun o => (c, o) with
  | none => none
  | some (c, o) =>
    let key := s.dev.granaryKey c o
    some (s.setDev { s.dev with mem := s.dev.mem.clear key bytes, persistPages := s.dev.persistPages ++ [(key, bytes, tid)] }, key)

/-- A region freed (R412). -/
def Device.freePersist (d : Device) (key : Nat) : Device :=
  { d with persistPages := d.persistPages.filter fun r => !(r.1 == key) }

/-- The region of a block recorded as persistent, unless a region holds it already. -/
def Device.keepRegion (d : Device) (key tid : Nat) : Device :=
  if d.persistPages.any fun r => r.1 ≤ key && key + 64 ≤ r.1 + r.2.1 then d
  else { d with persistPages := d.persistPages ++ [(key, 64, tid)] }

/-- The granary page of a place mapped into the current address space: the TV address of the place. -/
def State.mapKey (s : State) (key : Nat) (owner : MapOwner) : State × Word :=
  let base := s.newPages 1
  let m : Mapping := { asid := s.cur.id.asid.toNat, base := base, units := 1, key := key / 65536 * 65536, attrs := attrData
                       owner := owner, charged := false }
  ((s.setDev { s.dev with maps := s.dev.maps ++ [m] }).drew, base + BitVec.ofNat 64 (key % 65536))

/-! ### Rings that firmware serves -/

/-- A new ring's block (R234, R312): no record, and OWN set to the identity given. -/
def newRcb (buf : Word) (cap : Nat) (ctl : Nat) (own : Word) (ntf : Word) : Rcb :=
  { head := 0, tail := 0, resv := 0, sks := 0, buf := buf, cap := cap, ctl := BitVec.ofNat 32 ctl, own := own, ntf := ntf }

/-- OWN of a strand or of a place on a die (Table 9-8). -/
def ownWord (pkg : BitVec 8) (die stag six : Nat) : Word :=
  BitVec.ofNat 64 (pkg.toNat + die * 2 ^ 8 + stag * 2 ^ 16 + six * 2 ^ 32)

/-- The block a handle names, in the agent's name: where it lies, or none. -/
def State.ringAt (s : State) (h : Word) : Option Loc :=
  match s.check .atomic 64 true h 64 with
  | .ok (p :: _) => some p.hit.loc
  | _ => none

/-! ### The journal -/

/-- The capacity of a journal copy in records: a ring of 32 MiB (R381). -/
def journalCap : Nat := 524288

/-- A slot of a die. -/
def Die.slot (x : Die) (slot : Nat) : Slot := if slot % 2 = 0 then x.slot0 else x.slot1

/-- A slot of a die replaced. -/
def Die.setSlot (x : Die) (slot : Nat) (v : Slot) : Die :=
  if slot % 2 = 0 then { x with slot0 := v } else { x with slot1 := v }

/-- A number as words of 4 bytes, least significant first. -/
def wordsLe (n x : Nat) : List Nat := (upto n).map fun i => x / 2 ^ (32 * i) % 2 ^ 32

/-- The 64 bytes of a record (Table 17-1). -/
def JournalRec.bytes (r : JournalRec) : List Byte :=
  let body := (r.body.flatMap fun w => natLe 4 w).take 44
  let b := natLe 8 r.seq ++ natLe 2 r.kind.toNat ++ natLe 1 r.tid.toNat ++ [0] ++ natLe 4 r.inst.toNat ++ body ++
    List.replicate (44 - body.length) 0
  b ++ natLe 4 (crc32c b).toNat

/-- The offset of a record in each copy of its journal's ring (R381). -/
def JournalRec.offset (r : JournalRec) : Nat := 64 * (r.seq % journalCap)

/-- Whether a record stands in both copies of a slot's journal with its CRC, in lines that can be read (R381, R384, R420). -/
def Device.committedRec (d : Device) (die slot : Nat) (r : JournalRec) : Bool :=
  let v := (d.die die).slot slot
  let w := (d.die die).win
  let line (base : Word) : Nat := physKey (d.peerOf die) (base.toNat + slot % 2 * 2 ^ 25 + r.offset) / 64
  v.ringA.bytes r.offset 64 == r.bytes && v.ringB.bytes r.offset 64 == r.bytes && !d.poison.contains (line w.jrnl) &&
    !d.poison.contains (line w.jrnlb)

/-- The longest run of committed records, consecutive in SEQ (R384). -/
def committedRun (good : JournalRec → Bool) : List JournalRec → List JournalRec
  | [] => []
  | r :: rs =>
    if !good r then []
    else match rs with
      | [] => [r]
      | q :: _ => if q.seq = r.seq + 1 then r :: committedRun good rs else [r]

/-- A slot as its standby rebuilds it (R384): the records that were committed, from the newest snapshot, with which the list
begins, and the SEQ that follows them; the effects they describe stand in the device's own lists, each made in the step that
committed its record (R381, R385). -/
def Slot.rebuilt (x : Slot) (good : JournalRec → Bool) : Slot :=
  let run := committedRun good x.journal
  { x with journal := run, seq := (run.getLast?.map fun r => r.seq + 1).getD x.seq }

/-- A slot with one more journal record, committed: its bytes stand in both copies before any effect (R381). -/
def Slot.record (v : Slot) (kind tid inst : Nat) (body : List Nat) : Slot :=
  let r : JournalRec := { seq := v.seq, kind := BitVec.ofNat 16 kind, tid := BitVec.ofNat 8 tid, inst := BitVec.ofNat 32 inst
                          body := body }
  { v with seq := v.seq + 1, journal := (v.journal ++ [r]).drop (v.journal.length + 1 - journalCap)
           ringA := v.ringA.blit r.offset r.bytes, ringB := v.ringB.blit r.offset r.bytes }

/-- A committed journal record of a slot of a die. -/
def Device.journal (d : Device) (die slot kind tid inst : Nat) (body : List Nat) : Device :=
  let x := d.die die
  d.setDie die (x.setSlot slot ((x.slot slot).record kind tid inst body))

end Sys2Proof.Machine
end

