-- ==== Sys2Proof/Machine/Publish.lean ====
section
/-!
DEFINITION. PUBLISH (11 R295 to R297): the descriptor, the framing walk and the checks of Table 11-11, the kernel
attribute record (R298), and the code object it makes.
-/
namespace Sys2Proof.Machine

/-! ### The kernel attribute record -/

/-- A field of a record as a number. -/
def recNat (r : List Byte) (off n : Nat) : Nat := leNat ((r.drop off).take n)

/-- SCNT (Table 11-13); a record of no bytes is the default record of R298. -/
def attrScnt (r : List Byte) : Nat := if r.isEmpty then 1 else recNat r 0 1
/-- NSTG. -/
def attrNstg (r : List Byte) : Nat := if r.isEmpty then 1 else recNat r 1 1
/-- SPEC of FLAGS. -/
def attrSpec (r : List Byte) : Bool := recNat r 2 1 % 2 == 1
/-- NRING. -/
def attrNring (r : List Byte) : Nat := recNat r 3 1
/-- LCAP, 65,536 where the field is 0. -/
def attrLcap (r : List Byte) : Nat := if recNat r 4 4 = 0 then 65536 else recNat r 4 4
/-- DCMASK. -/
def attrDcmask (r : List Byte) : Nat := recNat r 8 8
/-- Entry i of FOOT as (base word, length word), none for an unused entry. -/
def attrFoot (r : List Byte) (i : Nat) : Option (Nat × Nat) :=
  let e := recNat r (0x10 + 2 * i) 2
  if r.isEmpty || e == 0xFFFF then none else some (e % 256, e / 256)
/-- WPFOFF. -/
def attrWpfoff (r : List Byte) : Nat := recNat r 0x1C 4

/-- A sheaf ring of the record (R312): CAP, SCOPE, G, L. -/
structure RingDecl where
  cap : Nat
  scope : Nat
  g : Nat
  l : Nat
  deriving DecidableEq, Repr

/-- The sheaf rings. -/
def attrRings (r : List Byte) : List RingDecl :=
  (upto (attrNring r)).map fun i =>
    let o := 0x20 + 16 * i
    { cap := recNat r o 4, scope := recNat r (o + 4) 1, g := recNat r (o + 8) 4, l := recNat r (o + 12) 4 }

/-- The bytes of the portable-form section that WPFOFF names (R177), none where there is none. -/
def attrWpf (r : List Byte) : List Byte :=
  let o := attrWpfoff r
  if o = 0 then [] else (r.drop o).take (16 + 48 * recNat r (o + 6) 1 + 4 * recNat r (o + 8) 4)

/-- The offsets at which a record breaks R298, one for each field or byte at fault. A record that ends before what Table
11-13 lays out is at fault at its end, beside any byte it does have: DESIGN CHOICE, unsafe, assumption log 97, as R298 names
no such record. -/
def recordBad (r : List Byte) : List Nat :=
  let n := r.length
  if n = 0 then []
  else
    let rings := min (attrNring r) 8
    let ringEnd := 0x20 + 16 * rings
    let w := attrWpfoff r
    let wEnd := w + 16 + 48 * recNat r (w + 6) 1 + 4 * recNat r (w + 8) 4
    let wBad := w != 0 && (w % 8 != 0 || n < w + 16 || n < wEnd)
    let named (i : Nat) : Bool := i < ringEnd || (w != 0 && !wBad && w ≤ i && i < wEnd)
    (if 1 ≤ attrScnt r && attrScnt r ≤ 8 then [] else [0]) ++ (if 1 ≤ attrNstg r && attrNstg r ≤ 8 then [] else [1]) ++
      (if recNat r 2 1 < 2 then [] else [2]) ++ (if attrNring r ≤ 8 then [] else [3]) ++
      (if recNat r 4 4 == 0 || isCap (recNat r 4 4) then [] else [4]) ++ (if wBad then [0x1C] else []) ++
      (if n < ringEnd then [n] else []) ++
      ((upto rings).flatMap fun i =>
        let o := 0x20 + 16 * i
        if n < o + 8 then []
        else (if isCap (recNat r o 4) then [] else [o]) ++ (if recNat r (o + 4) 1 ≤ 1 then [] else [o + 4]) ++
          ((upto 3).filter fun k => recNat r (o + 5 + k) 1 != 0).map (o + 5 + ·)) ++
      (((upto n).zip r).filter fun p => p.2 != 0 && !named p.1).map (·.1)

/-- The first offset at which a record breaks R298 (R296). -/
def recordFault (r : List Byte) : Option Nat := (recordBad r).min?

/-! ### The framing walk -/

/-- A 32-bit instruction found in a body: its offset, its block's header, its word and literal. -/
structure Framed where
  off : Nat
  hdr : Nat
  word : BitVec 32
  lit : OptLit
  deriving DecidableEq, Repr

/-- The instructions of a body from an offset, with the first offset at which reason 3 holds: an instruction or literal
past the body, major 11111, or a REP at its end; `rep` is a REP whose target has not been met. -/
def walkBody (hdr : Nat) : Nat → Nat → Option Nat → List Byte → List Framed × Option Nat
  | 0, off, _, _ => ([], some off)
  | _ + 1, _, rep, [] => ([], rep)
  | fuel + 1, off, _, b0 :: b1 :: rest =>
    if bits b0 0 2 != 3#2 then walkBody hdr fuel (off + 2) none rest
    else match rest with
      | b2 :: b3 :: more =>
        let w : BitVec 32 := b3 ++ b2 ++ b1 ++ b0
        let rep := if major w == 29 then some off else none
        if major w == 31 then ([], some off)
        else if hasLiteral w then
          match more with
          | l0 :: l1 :: l2 :: l3 :: more' =>
            let r := walkBody hdr fuel (off + 8) rep more'
            ({ off := off, hdr := hdr, word := w, lit := some (l3 ++ l2 ++ l1 ++ l0) } :: r.1, r.2)
          | _ => ([], some off)
        else
          let r := walkBody hdr fuel (off + 4) rep more
          ({ off := off, hdr := hdr, word := w, lit := none } :: r.1, r.2)
      | _ => ([], some off)
  | _ + 1, off, _, _ => ([], some off)

/-- Code framed: its block headers with their offsets, its 32-bit instructions, and the first offsets at which reasons 2
and 3 of Table 11-11 hold. -/
structure Framing where
  heads : List (Nat × BitVec 32)
  code : List Framed
  bad2 : Option Nat
  bad3 : Option Nat
  deriving DecidableEq, Repr

/-- A word is a valid BLK header (R156). -/
def validHeader (w : BitVec 32) : Bool :=
  major w == 31 && bits w 0 2 == 3#2 && bits w 29 3 == 0#3 && hdrSc w != 3#2 && hdrLen w != 0 && hdrLen w % 2 == 0

/-- The walk over the blocks of code from an offset. -/
def walkCode : Nat → Nat → List Byte → Framing
  | 0, off, _ => { heads := [], code := [], bad2 := some off, bad3 := none }
  | _ + 1, _, [] => { heads := [], code := [], bad2 := none, bad3 := none }
  | fuel + 1, off, bs =>
    let w : BitVec 32 := BitVec.ofNat 32 (leNat (bs.take 4))
    if bs.length < 4 || !validHeader w then { heads := [], code := [], bad2 := some off, bad3 := none }
    else
      let n := 2 * hdrLen w
      let body := (bs.drop 4).take n
      if body.length < n then { heads := [(off, w)], code := [], bad2 := none, bad3 := some off }
      else
        let b := walkBody off (n + 1) (off + 4) none body
        let r := walkCode fuel (off + 4 + n) (bs.drop (4 + n))
        { heads := (off, w) :: r.heads, code := b.1 ++ r.code, bad2 := r.bad2, bad3 := b.2.or r.bad3 }

/-- Whether an instruction is a direct transfer (reason 4): B, CB.cond, BQB, CALL or BRC. -/
def Framed.transfers (f : Framed) : Bool :=
  let kind := (bits f.word 17 3).toNat
  major f.word == 4 || (major f.word == 5 && kind == 0) || (major f.word == 23 && kind ≤ 1)

/-- The target of a direct transfer, counted from CODE (R158). -/
def Framed.target (f : Framed) : Int :=
  f.hdr + 4 * (match f.lit with
    | some l => l.toInt
    | none => (bits f.word 20 11).toInt)

/-- Whether an instruction is a CFGR or CFGW of a register number from 0x2000 to 0x2FFF (reason 6). -/
def Framed.namesSystem (f : Framed) : Bool :=
  let op := (bits f.word 26 5).toNat
  let r := (bits f.word 12 14).toNat
  major f.word == 7 && (op == 2 || op == 3) && 0x2000 ≤ r && r ≤ 0x2FFF

/-- The header at an offset. -/
def Framing.head (f : Framing) (off : Nat) : Option (BitVec 32) := (f.heads.find? fun h => h.1 == off).map (·.2)

/-- The entry offsets of a descriptor at fault (reason 5). -/
def Framing.badEntries (f : Framing) (entries : List Nat) : List Nat :=
  (entries.zip (upto 3)).filterMap fun e =>
    if e.1 = 0xFFFFFFFF then none
    else match f.head e.1 with
      | some w => if hdrEp w && (hdrSc w).toNat == e.2 then none else some e.1
      | none => some e.1

/-- Reasons 2 to 7 in order: the first that holds with its AUX (R296). -/
def publishFault (user : Bool) (f : Framing) (entries : List Nat) (len : Nat) (attr : List Byte) : Option (Nat × Nat) :=
  let starts := f.heads.map fun h => (h.1 : Int)
  let r4 := f.code.find? fun c => c.transfers && !starts.contains c.target
  let r6 := if user then f.code.find? Framed.namesSystem else none
  ((((((f.bad2.map fun a => (2, a)).or (f.bad3.map fun a => (3, a))).or (r4.map fun c => (4, c.off))).or
    ((f.badEntries entries).min?.map fun a => (5, a))).or (r6.map fun c => (6, c.off)))).or
    ((recordFault attr).map fun a => (7, len + a))

/-! ### The object -/

/-- The publish descriptor (Table 11-10). -/
structure PubDesc where
  code : Word
  len : Nat
  alen : Nat
  entries : List Nat
  flags : Nat
  deriving DecidableEq, Repr

/-- The descriptor in its 64 bytes. -/
def PubDesc.ofBytes (b : List Byte) : PubDesc :=
  { code := BitVec.ofNat 64 (recNat b 0 8), len := recNat b 8 4, alen := recNat b 12 4
    entries := [recNat b 0x10 4, recNat b 0x14 4, recNat b 0x18 4], flags := recNat b 0x1C 4 }

/-- Reason 1 (Table 11-11). -/
def PubDesc.bad (p : PubDesc) (user : Bool) : Bool :=
  p.code.toNat % 4 != 0 || p.len % 4 != 0 || p.len < 4 || 1048576 < p.len || 2 ≤ p.flags || (p.flags == 1 && user)

/-- Whether a read of PUBLISH waits as stall kind 6: an unretired job or an earlier store of the access stream that is
not performed writes what it reads (R297). -/
def State.publishWaits (s : State) (ea : Word) (n : Nat) : Bool :=
  s.cur.jobStall .load ea n ||
  (s.cur.qstreams.any fun q => q.store && q.pending.any fun e => overlaps (q.addr e.1 e.2) q.width ea n) ||
  s.storesInFlight.any fun r => r.parts.any fun p => overlaps (r.partAddr p) p.len ea n

/-- The spaces a PUBLISH address may lie in: LS and TV (R295, R296). -/
def lsOrTv (ea : Word) : Bool := ea.toNat / 2 ^ 56 ≤ 1

/-- A read of PUBLISH (R296, R211). -/
def State.publishRead (s : State) (ea : Word) (n : Nat) (k : State → List Byte → State) : State :=
  if n = 0 then k s []
  else match s.check .load 1 false ea n with
    | .fault c a => s.raiseAt c 0 a 0
    | .wait => s.stallOn 5
    | .ok ps =>
      if !lsOrTv ea then s.raise 0x05 0 ea 0
      else if s.publishWaits ea n then s.stallOn 6
      else if !s.clearToGo ps then s.stallOn 5
      else match s.poisonIn ps with
        | [] => k (s.readParts ea ps).1 (s.readParts ea ps).2
        | ls => s.poisoned ls (s.faultRec 0x10 s.who.num false 0 s.me.iaddr (s.poisonAddr ea ps) (s.me.aux 0))

/-- The effects of R297, after every check: quota first, then DIGEST, the object and s[d]. -/
def State.publishObject (s : State) (d : Reg) (ea : Word) (p : PubDesc) (f : Framing) (code attr : List Byte) : State :=
  let units := (p.len + 65535) / 65536
  let base := s.newPages units
  match s.chargeStk units with
  | .inr aux => s.raise 0x06 0 base aux
  | .inl t =>
    let digest := shake256 (code ++ attr)
    let at_ := ea + 0x20
    match t.check .store 1 false at_ 32 with
    | .fault c a => s.raiseAt c (chkDetail c 1) a 0
    | .wait => s.stallOn 5
    | .ok ps =>
      if t.logStall ps then s.stallOn 7
      else if !t.clearToGo ps then s.stallOn 5
      else
        let key := s.newFrames units
        let o : CodeObj :=
          { asid := s.cur.id.asid.toNat, base := base, len := p.len, sys := p.flags == 1
            entries := Vector.ofFn fun i => BitVec.ofNat 32 (p.entries.getD i.val 0xFFFFFFFF)
            starts := f.heads.map (·.1), attr := attr, digest := BitVec.ofNat 256 (leNat digest), rin := s.dev.rin }
        let m : Mapping :=
          { asid := o.asid, base := base, units := units, key := key, attrs := if o.sys then attrSysCode else attrCode
            owner := .object base, charged := !s.cur.id.sys }
        let t1 := t.storeNow at_ ps digest
        ((t1.setDev { t1.dev.freshUnits key units code with objects := t1.dev.objects ++ [o], maps := t1.dev.maps ++ [m] }).drew.wr d base).complete 4

/-- R295, R296: PUBLISH, in its order. -/
def State.publish (s : State) (d a : Reg) : State :=
  let ea := s.rd a
  match s.check .load 8 false ea 64 with
    | .fault c x => s.raiseAt c 0 x 0
    | .wait => s.stallOn 5
    | .ok rs => match s.check .store 1 false (ea + 0x20) 32 with
      | .fault c x => s.raiseAt c (chkDetail c 1) x 0
      | .wait => s.stallOn 5
      | .ok ws =>
        if !lsOrTv ea then s.raise 0x05 0 ea 0
        else if s.publishWaits ea 64 then s.stallOn 6
        else if !s.clearToGo rs then s.stallOn 5
        else match s.commitAll (ea + 0x20) 1 ws with
          | .fault c dt x aux => s.raise c dt x aux
          | .full => s.stallOn 7
          | .done u =>
            let t := u.evictDirect rs
            match t.poisonIn rs with
            | l :: ls => t.poisoned (l :: ls) (t.faultRec 0x10 t.who.num false 0 t.me.iaddr (t.poisonAddr ea rs) (t.me.aux 0))
            | [] =>
              let p := PubDesc.ofBytes (t.loadBytes rs)
              let user := !t.cur.id.sys
              if p.bad user then t.raise 0x0F 1 0 0
              else if p.alen % 8 != 0 || 65536 < p.alen then t.raise 0x0F 7 0 (BitVec.ofNat 64 p.len)
              else t.publishRead p.code (p.len + p.alen) fun u bs =>
                let code := bs.take p.len
                let attr := bs.drop p.len
                let f := walkCode p.len 0 code
                match publishFault user f p.entries p.len attr with
                | some (r, off) => u.raise 0x0F (BitVec.ofNat 16 r) 0 (BitVec.ofNat 64 off)
                | none => u.publishObject d ea p f code attr

/-- R295 to R297: PUBLISH, from the control stream; a speculative run that reaches it is discarded. -/
def execPublish (a d : Reg) (s : State) : Res := s.only .c (.next (s.unlessSpec (s.publish d a)))

end Sys2Proof.Machine
end

