-- ==== Sys2Proof/Machine/Seal.lean ====
section
/-!
DEFINITION. SEAL, SEALW and RINR (09 R246 to R249).
-/
namespace Sys2Proof.Machine

/-- R247: SEAL requests a seal and returns the current RIN; it does not wait. -/
def execSeal (d : Reg) (s : State) : Res :=
  s.only .a (.next (s.unlessSpec (
    if s.counterFull false then s.stallOn 5
    else ((s.setDev s.dev.requestSeal).wr d (s.dev.rin.setWidth 64)).complete 4)))

/-- R249: RINR, in access-stream program order: it waits until every earlier access is performed, so that none of them
can carry a higher number. -/
def execRinr (d : Reg) (s : State) : Res :=
  s.only .a (.next (s.unlessSpec (
    if s.counterFull false then s.stallOn 5
    else if !s.drained then s.idle
    else (s.wr d (s.dev.rin.setWidth 64)).complete 4)))

/-- Whether a SEALW in progress is a strand's (R248). -/
def SealwReq.isOf (q : SealwReq) (k : Strand) : Bool := k.named q.die q.stag q.six

/-- The SEALW of the issuing strand registered, and a seal requested (R248, R413). -/
def State.startSealw (s : State) (ea : Word) (bs : List Byte) (d : Reg) : State :=
  let i := s.cur.id
  let q : SealwReq := { die := i.die.toNat, stag := i.stag.toNat, six := i.six.toNat, ea := ea, bytes := bs, d := d
                        committed := false, out := [] }
  ((s.setDev { s.dev.requestSeal with sealw := s.dev.sealw ++ [q] }).count false (· + 1)).stallOn 5

/-- R248, R416: SEALW. It is checked as a store that must lie on an irrevocable page; it waits for every earlier access and
then, as stall kind 5, for the seal it forces, for which those of several strands may wait (R413; DEDUCED, assumption log
76). The seal's COMMIT and RELEASE perform its store and complete it. -/
def execSealw (z : BitVec 2) (b a d : Reg) (s : State) : Res :=
  let n := szBytes z
  let ea := s.rd a
  s.only .a (.next (s.unlessSpec (
    if s.dev.sealw.any fun q => q.isOf s.cur then s.stallOn 5
    else if s.counterFull false then s.stallOn 5
    else match s.check .store n false ea n with
        | .fault c x => s.raiseAt c (chkDetail c 1) x 0
        | .wait => s.idle
        | .ok ps =>
          if let some x := firstPart (fun h => !h.irr) ea ps then s.raise 0x05 1 x 0
          else match s.commitAll ea 1 ps with
            | .fault c dt x aux => s.raise c dt x aux
            | .full => s.stallOn 7
            | .done t => if !s.drained then s.idle else t.startSealw ea (wordBytes (s.rd b) n) d)))

end Sys2Proof.Machine
end

