-- ==== Sys2Proof/Machine/Tasks.lean ====
section
/-!
DEFINITION. Instances, tasks and sheaves as the scheduler keeps them: the status word (R307), failure and the end of an
instance (R306), the ends of sheaves and tasks (R25, R31, R34), and the end of a task by the supervisor (R339).
-/
namespace Sys2Proof.Machine

/-! ### Finding and replacing -/

/-- An instance by its number. -/
def Device.instance_ (d : Device) (n : Nat) : Option Instance := d.instances.find? fun i => i.num == n

/-- An instance replaced. -/
def State.setInst (s : State) (i : Instance) : State :=
  s.setDev { s.dev with instances := s.dev.instances.map fun x => if x.num == i.num then i else x }

/-- A task by its number. -/
def Device.task (d : Device) (n : Nat) : Option Task := d.tasks.find? fun t => t.num == n

/-- A task replaced. -/
def State.setTask (s : State) (t : Task) : State :=
  s.setDev { s.dev with tasks := s.dev.tasks.map fun x => if x.num == t.num then t else x }

/-- A sheaf by its die and tag. -/
def Device.sheaf (d : Device) (die stag : Nat) : Option Sheaf := d.sheaves.find? fun h => h.die == die && h.stag.toNat == stag

/-- The tent of an instance. -/
def Device.tentOf (d : Device) (i : Instance) : Option Tent := d.tent i.tid

/-- The home die and slot that serve a tent (R379). -/
def Device.server (d : Device) (tid : Nat) : Nat × Nat := (((d.tent tid).map (·.home)).getD 0, tid % 2)

/-- The field of a descriptor header (Table 12-1). -/
def hdrField (h : BitVec 512) (off n : Nat) : Nat := h.toNat / 256 ^ off % 256 ^ n

/-- A field of a node record (R301, Table 12-2). -/
def NodeState.field (x : NodeState) (off n : Nat) : Nat := hdrField x.record off n

/-- A node of an instance. -/
def Instance.node? (i : Instance) (n : Nat) : Option NodeState := i.nodes[n]?

/-- A node replaced. -/
def Instance.setNode (i : Instance) (n : Nat) (x : NodeState) : Instance := { i with nodes := i.nodes.set n x }

/-- An argument word of an instance. -/
def Instance.arg (i : Instance) (n : Nat) : Word := i.args.getD n 0

/-- The dies a graph may use: DIES of the header, all when it is 0. -/
def diesOf (mask : Nat) : List Nat := (upto 8).filter fun d => mask = 0 || mask.testBit d

/-- The dies of an instance's graph. -/
def Instance.dies (i : Instance) : List Nat := diesOf (hdrField i.header 0x0F 1)

/-! ### Levels of a graph (R302) -/

/-- The ranges of a control node as (first, count). -/
def NodeState.ranges (x : NodeState) : List (Nat × Nat) :=
  match x.field 0 1 with
  | 2 => [(x.field 0x10 2, x.field 0x12 2), (x.field 0x14 2, x.field 0x16 2)]
  | 3 => [(x.field 0x10 2, x.field 0x12 2)]
  | 4 => (upto (x.field 9 1)).map fun c => (x.field (0x10 + 4 * c) 2, x.field (0x12 + 4 * c) 2)
  | _ => []

/-- Whether a range covers a node. -/
def inRange (r : Nat × Nat) (n : Nat) : Bool := r.1 ≤ n && n < r.1 + r.2

/-- The level of a node: the innermost range that contains it, none at the top level. -/
def levelOf (nodes : List NodeState) (n : Nat) : Option (Nat × Nat) :=
  (nodes.flatMap NodeState.ranges).foldl (fun best r =>
    if inRange r n then (match best with
      | some b => if r.2 < b.2 then some r else best
      | none => some r)
    else best) none

/-- The nodes of a level. -/
def levelNodes (nodes : List NodeState) (l : Option (Nat × Nat)) : List Nat :=
  (upto nodes.length).filter fun n => levelOf nodes n == l

/-- Whether every node of a level has ended. -/
def Instance.levelEnded (i : Instance) (l : Option (Nat × Nat)) : Bool :=
  (levelNodes i.nodes l).all fun n => match i.node? n with
    | some x => x.phase == .ended
    | none => true

/-- Whether a node's level has been entered (R308): the top level at once, a range once its control node has selected it. -/
def Instance.entered (i : Instance) (n : Nat) : Bool :=
  match levelOf i.nodes n with
  | none => true
  | some r => i.nodes.any fun x => x.phase == .running && x.range == r && r.2 != 0

/-- The nodes of a range made ready to run again (R309). -/
def Instance.resetRange (i : Instance) (r : Nat × Nat) : Instance :=
  { i with nodes := ((upto i.nodes.length).zip i.nodes).map fun p =>
      if inRange r p.1 then { p.2 with phase := .idle, passes := 0, range := (0, 0) } else p.2 }

/-! ### The status word -/

/-- The instance status word (Table 12-4). -/
def Instance.statusWord (i : Instance) : Word :=
  BitVec.ofNat 64 (i.state.toNat + i.code.toNat * 2 ^ 8 + i.node.toNat * 2 ^ 16 + (if i.loopcap then 2 ^ 32 else 0))

/-- The address of the status word, none without STATA or where its argument word holds no 8-aligned address (R307). -/
def Instance.statusAddr (i : Instance) : Option Word :=
  let a := hdrField i.header 0x0E 1
  if a = 0xFF then none
  else match i.args[a]? with
    | some w => if w.toNat % 8 = 0 then some w else none
    | none => none

/-- The status word written at a change of STATE, a release at package scope; a write that faults is dropped (R307). -/
def State.status (s orig : State) (i : Instance) (k : State → State) : State :=
  match i.statusAddr, s.dev.tentOf i with
  | some a, some t =>
    (s.inName t.agent fun u => u.released 3).writeK t.agent orig a (bytes8 i.statusWord) (fun u _ => k u) k
  | _, _ => k s

/-! ### The end of an instance -/

/-- Whether a task of the instance still runs. -/
def Device.running (d : Device) (n : Nat) : Bool := d.tasks.any fun t => t.inst == n && t.spec.isNone

/-- A trace entry of a kind (Table 17-4). -/
def traceEntry (op sub node clus sem count pri : Nat) (arg : Word) : TraceEntry :=
  arg ++ BitVec.ofNat 64 (op + sub * 2 ^ 4 + node * 2 ^ 8 + clus * 2 ^ 24 + sem * 2 ^ 32 + count * 2 ^ 40 + pri * 2 ^ 48)

/-- A field of a trace entry. -/
def teField (e : TraceEntry) (lo n : Nat) : Nat := e.toNat / 2 ^ lo % 2 ^ n

/-- A decision of an instance that is recorded joins the lane of a die (R393, R394). -/
def State.record (s : State) (inst die : Nat) (e : TraceEntry) : State :=
  match s.dev.instance_ inst with
  | none => s
  | some i => match i.replay with
    | some r => if r.recording then s.setInst { i with replay := some { r with entries := r.entries ++ [(die, e)] } } else s
    | none => s

/-- The bytes of a trace: its header and its lanes (R394). -/
def Trace.size (t : Trace) : Nat := t.lanes.foldl (fun n l => n + 16 * l.2.length) 64

/-- Traces evicted, the least recently used first, until `need` bytes are free in a silo of `cap` bytes (R393). -/
def evictTraces : Nat → Nat → Nat → List Trace → List Trace
  | 0, _, _, ts => ts
  | fuel + 1, cap, need, ts =>
    if ts.foldl (fun n t => n + t.size) need ≤ cap then ts
    else match (ts.map (·.lastUse)).min? with
      | some m => evictTraces fuel cap need (ts.filter fun t => !(t.lastUse == m))
      | none => ts

/-- The recorder stores the trace of an instance that ended done in the silo of the tent's home die (R13, R393): every guard
stood, and no lane is too long. -/
def State.storeTrace (s : State) (i : Instance) : State :=
  match i.replay with
  | some r =>
    if !r.recording || r.failed then s
    else
      let lanes := i.dies.map fun d => (d, (r.entries.filter fun e => e.1 == d).map (·.2) ++ [traceEntry 0 0 0 0 0 0 0 0])
      let t : Trace := { tid := i.tid, hash := r.hash, refined := 0, lanes := lanes, lastUse := s.dev.serial }
      let cap := (s.dev.die (s.dev.server i.tid).1).win.silo.toNat * 2 ^ 20
      if lanes.any (fun l => 65536 < l.2.length) || cap < t.size then s
      else
        let home (x : Trace) : Bool := (s.dev.server x.tid).1 == (s.dev.server i.tid).1
        let kept := evictTraces s.dev.silo.length cap t.size
          (s.dev.silo.filter fun x => home x && !(x.tid == t.tid && x.hash == t.hash))
        s.setDev { s.dev with silo := (s.dev.silo.filter fun x => !home x) ++ kept ++ [t], serial := s.dev.serial + 1 }
  | none => s

/-- The trace that an instance replays has been used just now (R393). -/
def Device.useTrace (d : Device) (i : Instance) : Device :=
  match i.replay with
  | some r =>
    if !r.replaying then d
    else { d with silo := d.silo.map fun t => if t.tid == i.tid && t.hash == r.hash then { t with lastUse := d.serial } else t
                  serial := d.serial + 1 }
  | none => d

/-- TRACE_REFINE after a replay that ended whole (R398): the refinement the model makes keeps every lane as it is, so only
the count of refinements and the use of the trace change; of any other replay the use alone (R393). -/
def State.refineTrace (s : State) (i : Instance) : State :=
  match i.replay with
  | some r =>
    if r.replaying && !r.failed then
      s.setDev { s.dev with
        silo := s.dev.silo.map fun t => if t.tid == i.tid && t.hash == r.hash then
          { t with refined := t.refined + 1, lastUse := s.dev.serial } else t
        serial := s.dev.serial + 1 }
    else s.setDev (s.dev.useTrace i)
  | none => s

/-- The rings of an instance destroyed (R313) and the instance forgotten: its handle is free again (R307). -/
def Device.forget (d : Device) (i : Instance) : Device :=
  let d1 := i.rings.foldl Device.freePersist d
  let d2 := d1.unmap fun o => o == .instance_ i.num
  { d2 with instances := d2.instances.filter fun x => !(x.num == i.num) }

/-- INSTEND when it is due (R306, R307): a failed instance once its running tasks have ended, any other once every
top-level node has; the status word is written last and the trace of a recording is stored. -/
def State.tryEnd (s orig : State) (n : Nat) : State :=
  match s.dev.instance_ n with
  | none => s
  | some i =>
    let srv := s.dev.server i.tid
    let finish (st : BitVec 4) (s : State) : State :=
      let j := { i with state := st }
      let d := s.dev.journal srv.1 srv.2 6 i.tid i.num [st.toNat]
      (s.setDev d).status orig j fun u => u.setDev (u.dev.forget j)
    if i.code != 0 then (if s.dev.running n then s else finish 4 (s.setDev (s.dev.useTrace i)))
    else if i.levelEnded none then finish 2 ((s.storeTrace i).refineTrace i)
    else s

/-- An instance fails at a node with a code of Table 12-3: no node of it starts any more (R306); the first failure
stands. -/
def State.failInst (s orig : State) (n node code : Nat) : State :=
  match s.dev.instance_ n with
  | none => s
  | some i =>
    let j := if i.code = 0 then { i with code := BitVec.ofNat 8 code, node := BitVec.ofNat 16 node } else i
    (s.setInst j).tryEnd orig n

/-! ### The end of a sheaf -/

/-- Every strand's unpublished records handed to its die (R338), when the strands leave. -/
def State.keepRecords (s : State) (p : Strand → Bool) : State :=
  (s.cur :: s.others).foldl (fun t k =>
    if p k && k.published < k.faults.length then
      let x := t.dev.die k.id.die.toNat
      t.setDev (t.dev.setDie k.id.die.toNat { x with trapWait := x.trapWait ++ k.faults.drop k.published })
    else t) s

/-- The place a name stands for (`State.placeOf`). -/
def State.locOfName (s : State) (p : Nat × Nat) : Loc :=
  if p.1 = 0 then .phys p.2
  else
    let n := p.1 - 1
    let die := n / 8 / 65536
    let stag := n / 8 % 65536
    if s.cur.resident && s.cur.named die stag (n % 8) then .own (p.2 / 2 ^ 24) (p.2 % 2 ^ 24)
    else .peer die stag (n % 8) (p.2 / 2 ^ 24) (p.2 % 2 ^ 24)

/-- A strand's BARWAIT withdrawn from the object's WAITERS (R232, R345). -/
def State.withdrawOf (s : State) (k : Strand) : State :=
  match k.acc.barwait with
  | some w =>
    let loc := s.locOfName w.loc
    let x := s.barAt loc
    if w.counted then s.setBar loc (x.setWaiters (x.waiters - 1)) else s
  | none => s

/-- The BARWAITs of the strands that leave are withdrawn. -/
def State.withdrawAll (s : State) (p : Strand → Bool) : State :=
  (s.cur :: s.others).foldl (fun t k => if p k then t.withdrawOf k else t) s

/-- Grants whose target sheaf ends are revoked: each entry's generation advances (R405). -/
def Device.revokeSheaf (d : Device) (die stag : Nat) : Device :=
  let x := d.die die
  d.setDie die { x with grants := x.grants.map fun g =>
    if g.live && g.spec.stag.toNat == stag then { g with live := false, gen := g.gen + 1 } else g }

/-- NTF words that name a strand of the sheaf become 0 (R318). -/
def Device.disarm (d : Device) (die stag : Nat) : Device :=
  let names (w : Nat) : Bool :=
    (w % 4 == 1 || w % 4 == 2) && w / 2 ^ 16 % 2 ^ 16 == stag && w / 2 ^ 40 % 2 ^ 8 == d.pkg.toNat && w / 2 ^ 48 % 8 == die
  { d with mem := (d.tents.flatMap (·.mailboxes)).foldl (fun (m : Memory) h =>
      if names (m.nat (h.toNat + 0x38) 8) then m.put (h.toNat + 0x38) (natLe 8 0) else m) d.mem }

/-- The sheaf that consumes what a sheaf produces (R33). -/
def Device.consumerOf (d : Device) (h : Sheaf) : Option Sheaf :=
  d.sheaves.find? fun c => c.task == h.task && c.x == h.x && c.y == h.y && c.z == h.z && c.stage == h.stage + 1

/-- The address space of a task: the system context's for a system task (R332). -/
def Device.asidOf (d : Device) (t : Task) : Nat := if t.sys then 0 else ((d.tent t.tid).map (·.asid)).getD 0

/-- The end-of-stream record of a sheaf sent into its outbound link (R34): the machine after it and the status, 7 where it
must wait. -/
def State.sendEos (s : State) (t : Task) (h c : Sheaf) : State × Nat :=
  let u := s.enter { die := h.die, tid := t.tid, asid := s.dev.asidOf t, sys := t.sys }
  let r := u.hwEnqueue (.peer c.die c.stag.toNat 0 1 0x6FFC0) (recordHeader 0 0xFFFE 0 (BitVec.ofNat 8 t.tid)) []
  (r.1.leave, r.2)

/-- Whether the end of a sheaf waits for a page that moves, a full undo log or a held path (R364, R366, R417). -/
def State.eosHeldUp (s : State) (h : Sheaf) : Bool :=
  match s.dev.task h.task, s.dev.consumerOf h with
  | some t, some c => (s.sendEos t h c).2 == 7
  | _, _ => false

/-- END_OF_STREAM: the record published into the sheaf's outbound link, or held until a pop makes room (R34). -/
def State.endOfStream (s : State) (t : Task) (h : Sheaf) : State :=
  match s.dev.consumerOf h with
  | none => s
  | some c =>
    let loc : Loc := if s.cur.named c.die c.stag.toNat 0 && s.cur.resident then .own 1 0x6FFC0
                     else .peer c.die c.stag.toNat 0 1 0x6FFC0
    let r := s.sendEos t h c
    if r.2 = 0 then r.1
    else s.setDev { s.dev with eosWait := s.dev.eosWait ++ [(s.placeOf loc, BitVec.ofNat 8 t.tid)] }

/-- The stage links of a sheaf whose other sheaf, of the same stage group, has ended too are destroyed (R34), with the spill areas of the ended sheaf
(R192) and an end-of-stream record that its link had no room for. -/
def Device.dropSheafPages (d : Device) (h : Sheaf) : Device :=
  let stag := h.stag.toNat
  let group (x : Sheaf) : Bool := x.die == h.die && x.task == h.task && x.x == h.x && x.y == h.y && x.z == h.z && x.stag != h.stag
  (d.dropEos fun a b => a == h.die && b == stag).unmap fun o => match o with
    | .sheaf a b => a == h.die && b == stag
    | .link a p c => a == h.die && (p == stag || c == stag) &&
        !(d.sheaves.any fun x => group x && (x.stag.toNat == p || x.stag.toNat == c))
    | _ => false

/-- The speculation whose run has ended waits for its claim (R402). -/
def Device.specEnded (d : Device) (n : Nat) : Device :=
  { d with specs := d.specs.map fun p => if p.num == n then { p with ended := true } else p }

/-- SHEAF_END (R25, R382): grants revoked, mailboxes disarmed, the end of stream sent, the cores free, the completion in
its slot's FIFO, and the task ended with its last sheaf (R31). -/
def State.sheafEnd (s : State) (h : Sheaf) : State :=
  match s.dev.task h.task with
  | none => s
  | some t =>
    let mine (k : Strand) : Bool := k.resident && k.id.die.toNat == h.die && k.id.stag == h.stag
    let s1 := s.endOfStream t h
    let d1 := (((s1.dev.revokeSheaf h.die h.stag.toNat).disarm h.die h.stag.toNat).dropSheafPages h)
    let s2 := (s1.setDev { d1 with sheaves := d1.sheaves.filter fun x => !(x.die == h.die && x.stag == h.stag) }).vacateIf mine
    let t1 := { t with ended := t.ended + 1 }
    let s3 := s2.setTask t1
    match t.spec with
    | some n => if t1.ended = t1.total then s3.setDev (s3.dev.specEnded n) else s3
    | none =>
      let srv := s3.dev.server t.tid
      let x := s3.dev.die srv.1
      let v := x.slot srv.2
      s3.setDev (s3.dev.setDie srv.1 (x.setSlot srv.2 { v with fifo := v.fifo ++ [t.num] }))

/-- Whether a sheaf's completion finds room in its FIFO (R382). -/
def Device.fifoRoom (d : Device) (tid : Nat) : Bool :=
  let srv := d.server tid
  ((d.die srv.1).slot srv.2).fifo.length < 1024

/-- A task that has ended forgotten, with the pages of its argument block. -/
def Device.dropTask (d : Device) (n : Nat) : Device :=
  { d with tasks := d.tasks.filter fun x => !(x.num == n) }.unmap fun o => o == MapOwner.task n

/-! ### The end of a task by the supervisor -/

/-- Units of a task leave every ready structure and every dispatcher. -/
def Device.dropUnits (d : Device) (task : Nat) : Device :=
  (upto 8).foldl (fun (e : Device) n =>
    let x := e.die n
    let cut (us : List DispUnit) : List DispUnit := us.filter fun u => !(u.task == task)
    e.setDie n { x with ready := cut x.ready, slot0 := { x.slot0 with held := cut x.slot0.held }
                        slot1 := { x.slot1 with held := cut x.slot1.held } }) d

/-- END of a task (R339): its strands leave, what belongs to them is released, and its instance fails with code 10 at its
node (R306). -/
def State.endTask (s orig : State) (n : Nat) : State :=
  match s.dev.task n with
  | none => s
  | some t =>
    let mine (k : Strand) : Bool := k.resident && k.id.task == n && k.spec.isNone
    let s1 := ((s.keepRecords mine).withdrawAll mine).vacateIf mine
    let hs := s1.dev.sheaves.filter fun h => h.task == n
    let d1 := hs.foldl (fun (d : Device) h =>
      let e := ((d.revokeSheaf h.die h.stag.toNat).disarm h.die h.stag.toNat)
      let f := { e with sheaves := e.sheaves.filter fun x => !(x.die == h.die && x.stag == h.stag) }
      f.dropSheafPages h) s1.dev
    let d2 := (d1.dropUnits n).unmap fun o => o == .task n
    let d3 := { d2 with tasks := d2.tasks.filter fun x => !(x.num == n), images := d2.images.filter fun k => !(k.id.task == n) }
    let s2 := s1.setDev d3
    match s2.dev.instance_ t.inst with
    | none => s2
    | some i =>
      let waiting (r : ReplayState) : ReplayState := { r with pending := r.pending.filter fun u => !(u.task == n) }
      let j := { i with replay := i.replay.map waiting }
      let ended := match i.node? t.node with
        | some x => s2.setInst (j.setNode t.node { x with phase := .ended })
        | none => s2
      ended.failInst orig t.inst t.node 10

end Sys2Proof.Machine
end

