-- ==== Sys2Proof/Machine/Place.lean ====
section
/-!
DEFINITION. Placing units (17 R380, R387 to R390; 02 R19 to R26, R33, R35, R47): free cores, the start of a strand with
its spill areas (R20, R192), sheaf rings and stage links (R312, R314), saving a unit (15 R344, R345) and resuming it.
-/
namespace Sys2Proof.Machine

/-! ### The ready structure -/

/-- A counter of a level. -/
def levelCount (v : Vector Nat 12) (p : Nat) : Nat := vget v p 0

/-- A unit enters the ready structure of a die (R387). -/
def Device.enqueue (d : Device) (die : Nat) (u : DispUnit) : Device :=
  let x := d.die die
  let n := levelCount x.enq u.level
  let v : DispUnit := { u with stamp := x.stamp, bank := n % 16, popmark := levelCount x.pops u.level }
  d.setDie die { x with ready := x.ready ++ [v], stamp := x.stamp + 1, enq := x.enq.setIfInBounds u.level (n + 1) }

/-- The unit with the oldest stamp. -/
def oldest (us : List DispUnit) : Option DispUnit :=
  us.foldl (fun b u => match b with
    | some v => if u.stamp < v.stamp then some u else b
    | none => some u) none

/-- The dispatch generator (R388). -/
def genNext (seed : BitVec 32) : BitVec 32 :=
  let a := seed ^^^ (seed <<< 13)
  let b := a ^^^ (a >>> 17)
  b ^^^ (b <<< 5)

/-- The unit a dispatcher takes and the die after it (R388), none when nothing is ready. -/
def Die.take (x : Die) : Option (DispUnit × Die) :=
  match (x.ready.map (·.level)).max? with
  | none => none
  | some p =>
    let us := x.ready.filter fun u => u.level == p
    match oldest us with
    | none => none
    | some o =>
      let aged := 4096 ≤ levelCount x.pops p - o.popmark
      let g := genNext x.win.dgen
      let i := g.toNat % 16
      let j := if g.toNat / 16 % 16 = i then Nat.xor i 1 else g.toNat / 16 % 16
      let u := if aged then o else (oldest (us.filter fun u => u.bank == i || u.bank == j)).getD o
      let w := if aged then x.win else { x.win with dgen := g }
      some (u, { x with ready := x.ready.filter fun v => !(v.stamp == u.stamp), win := w
                        pops := x.pops.setIfInBounds p (levelCount x.pops p + 1) })

/-! ### Free cores -/

/-- Whether a core can take a strand: it holds none (or a speculative one, when `take`) and hosts no region (R19, R401,
R412). -/
def State.coreFree (s : State) (take : Bool) (core : Nat) : Bool :=
  !s.dev.isHost core &&
    !((s.cur :: s.others).any fun k => k.resident && k.id.coreNum.toNat == core && !(take && k.spec.isSome))

/-- The free cores of the clusters of some dies as (die, cores); which cluster comes first the spec leaves open
(R29, assumption log 3). -/
def State.clusters (s : State) (take : Bool) (dies : List Nat) : List (Nat × List Nat) :=
  let r := Config.freeIndex s.fresh % 8
  dies.flatMap fun d => (upto 8).map fun c =>
    let n := (c + r) % 8
    (d, ((upto 8).map fun k => 64 * d + 8 * n + k).filter (s.coreFree take))

/-- Clusters for the sheaves of one group: one die, a cluster of its own for each; the cores each gets and what is left
(R23, R35). DESIGN CHOICE (assumption log 66): the dies are tried in list order, clusters with the most free cores come
first, and the strands of a sheaf take the lowest-numbered free cores of their cluster in ascending index. -/
def pickGroup (free : List (Nat × List Nat)) (n strands : Nat) : List Nat → Option (Nat × List (List Nat) × List (Nat × List Nat))
  | [] => none
  | d :: ds =>
    let mine := sortBy (fun a b => b.2.length ≤ a.2.length) (free.filter fun c => c.1 == d && strands ≤ c.2.length)
    if mine.length < n then pickGroup free n strands ds
    else
      let got := (mine.take n).map fun c => c.2.take strands
      let taken := got.flatten
      some (d, got, free.map fun c => (c.1, c.2.filter fun k => !taken.contains k))

/-- Every group of a unit given its cores, or none of them (R47, R380). -/
def pickAll (dies : List Nat) (strands : Nat) : List (List (Nat × Nat × Nat × Nat)) → List (Nat × List Nat) →
    Option (List ((Nat × Nat × Nat × Nat) × Nat × List Nat))
  | [], _ => some []
  | g :: gs, free =>
    match pickGroup free g.length strands dies with
    | none => none
    | some (d, got, rest) => match pickAll dies strands gs rest with
      | none => none
      | some more => some ((g.zip got).map (fun p => (p.1, d, p.2)) ++ more)

/-- The stage groups of a unit, by grid position. -/
def DispUnit.groups (u : DispUnit) : List (List (Nat × Nat × Nat × Nat)) :=
  let key (p : Nat × Nat × Nat × Nat) : Nat × Nat × Nat := (p.1, p.2.1, p.2.2.1)
  ((u.sheaves.map key).eraseDups).map fun k => u.sheaves.filter fun p => key p == k

/-- The sheaf of a position of a task. -/
def Device.sheafAt (d : Device) (task : Nat) (p : Nat × Nat × Nat × Nat) : Option Sheaf :=
  d.sheaves.find? fun h => h.task == task && h.x == p.1 && h.y == p.2.1 && h.z == p.2.2.1 && h.stage == p.2.2.2

/-- The sheaves of a saved unit. -/
def Device.savedSheaves (d : Device) (u : DispUnit) : List Sheaf := u.sheaves.filterMap (d.sheafAt u.task)

/-- The dies where a unit of a die's structure may be placed: those its sheaves were saved on (R43), its task's when it is
admitted co-resident, else that die. -/
def Device.placesOf (d : Device) (die : Nat) (t : Task) (u : DispUnit) : List Nat :=
  if u.saved then ((d.savedSheaves u).map (·.die)).eraseDups else if t.cor then t.dies else [die]

/-- Whether a unit of a die's structure may take a core: one of the clusters its RUN entry names there (R395). -/
def DispUnit.allows (u : DispUnit) (die core : Nat) : Bool :=
  u.clus = 0 || core / 64 != die || u.clus.testBit (core / 8 % 8)

/-- Whether a unit can use a cluster, given by its die and its free cores (R390). -/
def Device.canUse (d : Device) (die : Nat) (u : DispUnit) (c : Nat × List Nat) : Bool :=
  match d.task u.task with
  | some t => (d.placesOf die t u).contains c.1 && t.strands ≤ (c.2.filter (u.allows die)).length
  | none => false

/-- The clusters left to a unit while the units `first` are held: those that none of them can use, which are reserved for
them (R390). -/
def State.clustersFor (s : State) (die : Nat) (first : List DispUnit) (take : Bool) (dies : List Nat) : List (Nat × List Nat) :=
  (s.clusters take dies).map fun c => if first.any fun v => s.dev.canUse die v c then (c.1, []) else c

/-- The cores of a unit: on its die, or on the dies of the task, the first that fits, when it is admitted co-resident
(assumption log 66). -/
def State.coresFor (s : State) (take : Bool) (t : Task) (die : Nat) (u : DispUnit) (first : List DispUnit) :
    Option (List ((Nat × Nat × Nat × Nat) × Nat × List Nat)) :=
  let dies := s.dev.placesOf die t u
  pickAll dies t.strands u.groups
    ((s.clustersFor die first take dies).map fun c => (c.1, c.2.filter (u.allows die)))

/-! ### Starting a strand -/

/-- A strand put on its core, which keeps what is its own. -/
def State.putStrand (s : State) (k : Strand) : State :=
  let on (o : Strand) : Bool := o.id.coreNum == k.id.coreNum
  let keep (o : Strand) : Strand := { k with ctxSt := o.ctxSt, snapshot := o.snapshot, table := o.table }
  if on s.cur then { s with cur := keep s.cur }
  else if s.others.any on then { s with others := updFirst on keep s.others }
  else { s with others := s.others ++ [keep Strand.blank] }

/-- The object of a task. -/
def Device.objectOf (d : Device) (t : Task) : Option CodeObj :=
  d.objects.find? fun o => o.asid == d.asidOf t && o.base == t.obj

/-- A stream at its entry block, ended where there is none (R20). -/
def Stream.start (o : CodeObj) (i : Nat) (args : List Word) (argBlock : Word) : Stream :=
  let e := vget o.entries i 0xFFFFFFFF
  let pc := o.base + e.setWidth 64
  let regs : Vector Word 32 := Vector.ofFn fun r =>
    if r.val = 1 then argBlock else if 2 ≤ r.val && r.val ≤ 13 then args.getD (r.val - 2) 0 else 0
  if e = 0xFFFFFFFF then { Stream.blank with regs := regs }
  else { Stream.blank with regs := regs, pc := pc, hdr := pc, run := .running }

/-- The streams of the strand that runs a portable-form section; native entry blocks are not run (R181, assumption log
20). -/
def Strand.startPortable (k : Strand) (o : CodeObj) (wpf : List Byte) (first : Bool) : Strand :=
  let idle (x : Stream) : Stream := { x with run := .ended }
  let x : Stream := { k.exe with pc := o.base, hdr := o.base - 4, bodyEnd := o.base + BitVec.ofNat 64 (4 * recNat wpf 8 4)
                                 atHeader := true, run := if first then .running else .ended }
  { k with ctl := idle k.ctl, acc := idle k.acc, exe := x
           portable := if first then some { base := o.base, wpf := wpf, elem := 0, wrote := [] } else none }

/-- The sheaf rings' blocks in the granary of strand 0 (R312). -/
def Strand.sheafRings (k : Strand) (o : CodeObj) : Strand :=
  (attrRings o.attr).foldl (fun k r =>
    let rcb := newRcb (BitVec.ofNat 64 (3 * 2 ^ 56 + r.l)) r.cap r.scope
      (ownWord k.id.pkg k.id.die.toNat k.id.stag.toNat k.id.six.toNat) 0
    { k with gr := k.gr.put r.g rcb.bytes }) k

/-- STRAND_START: the state of R20 on a core. -/
def newStrand (d : Device) (t : Task) (o : CodeObj) (h : Sheaf) (six core : Nat) (ringin ringout : Word) : Strand :=
  let asid := d.asidOf t
  let id : Ident :=
    { pkg := d.pkg, die := BitVec.ofNat 3 (core / 64), clus := BitVec.ofNat 3 (core / 8), core := BitVec.ofNat 3 core
      stag := h.stag, six := BitVec.ofNat 3 six, scntM1 := BitVec.ofNat 3 (t.strands - 1), cor := t.cor
      gx := BitVec.ofNat 16 h.x, gy := BitVec.ofNat 16 h.y, gz := BitVec.ofNat 16 h.z, xm1 := BitVec.ofNat 16 (t.gx - 1)
      ym1 := BitVec.ofNat 16 (t.gy - 1), zm1 := BitVec.ofNat 16 (t.gz - 1), stg := BitVec.ofNat 3 h.stage
      nstgM1 := BitVec.ofNat 3 (t.stages - 1), ringin := ringin, ringout := ringout
      tid := if t.sys then 0 else BitVec.ofNat 8 t.tid, asid := BitVec.ofNat 16 asid, pri := BitVec.ofNat 4 t.pri, sys := t.sys
      task := t.num }
  let k : Strand := { Strand.blank with
    id := id, resident := true, spillReady := false, spec := t.spec, ctl := Stream.start o 0 t.args t.argBlock
    acc := Stream.start o 1 t.args t.argBlock, exe := Stream.start o 2 t.args t.argBlock }
  let k1 := if six = 0 then k.sheafRings o else k
  let wpf := attrWpf o.attr
  if wpf.isEmpty then k1 else k1.startPortable o wpf (h.x == 0 && h.y == 0 && h.z == 0 && h.stage == 0 && six == 0)

/-- The agent of a strand's own context. -/
def Strand.agent (k : Strand) : Agent := { die := k.id.die.toNat, tid := k.id.tid.toNat, asid := k.id.asid.toNat, sys := k.id.sys }

/-- SPILL_AREA_COMMIT: the three areas of 3,840 bytes in one new unit of the die's stacked DRAM, or the strand frozen at
its start with a quota trap (R192); a speculative run maps its areas without a charge (R402). -/
def State.commitSpill (s : State) (k : Strand) : State × Strand :=
  let t := s.enter k.agent
  let owner := MapOwner.sheaf k.id.die.toNat k.id.stag.toNat
  let done (u : State) (charged : Bool) : State × Strand :=
    let r := u.mapNew 1 attrSpill owner charged []
    let at_ (n : Nat) : Word := r.2 + BitVec.ofNat 64 (3840 * n)
    (r.1.leave, { k with spillReady := true, ctl := { k.ctl with rsbase := at_ 0 }, acc := { k.acc with rsbase := at_ 1 }
                         exe := { k.exe with rsbase := at_ 2 } })
  if k.spec.isSome then done t false
  else match t.chargeStk 1 with
    | .inl u => done u true
    | .inr aux =>
      let r := { s with cur := k }.faultRec 0x06 0 false 0 (if k.ctl.run == RunState.running then k.ctl.pc else 0) 0 aux
      (s, { k with frozen := true, faults := k.faults ++ [r] })

/-- A strand started: its spill areas, then its core. -/
def State.startStrand (s : State) (k : Strand) : State :=
  let r := s.commitSpill k
  r.1.putStrand r.2

/-! ### Sheaves, stage links, groups -/

/-- A free tag of a die in ascending order modulo 65,536 (R26). -/
def Device.freshTag (d : Device) (die : Nat) : Option (BitVec 16) :=
  let x := d.die die
  let held := (d.sheaves.filter fun h => h.die == die).map (·.stag)
  ((upto 65536).find? fun k => !held.contains (x.nextStag + BitVec.ofNat 16 k)).map fun k => x.nextStag + BitVec.ofNat 16 k

/-- The number a placement takes: one more than every placement before it (R390). -/
def Device.nextPlace (d : Device) : Nat := d.sheaves.foldl (fun n h => max n (h.placed + 1)) 0

/-- The sheaves of a unit created, each with its tag (R26); none when a die has no free tag. -/
def Device.makeSheaves (d : Device) (t : Task) : List ((Nat × Nat × Nat × Nat) × Nat × List Nat) → Option (Device × List Sheaf)
  | [] => some (d, [])
  | (p, die, cores) :: rest =>
    match d.freshTag die with
    | none => none
    | some tag =>
      let h : Sheaf := { die := die, stag := tag, task := t.num, x := p.1, y := p.2.1, z := p.2.2.1, stage := p.2.2.2
                         cores := cores, endedStrands := 0, saved := false, stopping := false, placed := d.nextPlace }
      let e := d.setDie die { d.die die with nextStag := tag + 1 }
      match ({ e with sheaves := e.sheaves ++ [h] }).makeSheaves t rest with
      | none => none
      | some (f, hs) => some (f, h :: hs)

/-- A stage link (R33, R314): the buffer in the die's stacked DRAM, charged to the tent, and the handle that maps the block
at 0x6_FFC0 of strand 0 of the consumer; none where the charge does not fit. -/
def State.makeLink (s : State) (t : Task) (o : CodeObj) (producer consumer : Sheaf) : Option (State × Word × Word) :=
  let u := s.enter { die := consumer.die, tid := t.tid, asid := s.dev.asidOf t, sys := t.sys }
  let cap := attrLcap o.attr
  let units := (cap + 65535) / 65536
  let owner := MapOwner.link consumer.die producer.stag.toNat consumer.stag.toNat
  let charged := match t.spec with
    | some _ => Sum.inl u
    | none => u.chargeStk units
  match charged with
  | .inr _ => none
  | .inl v =>
    let r := v.mapNew units attrData owner t.spec.isNone []
    let q := r.1.mapKey (s.dev.granaryKey (consumer.cores.getD 0 0) 0x6FFC0) owner
    some (q.1.leave, r.2, q.2)

/-- The links of a unit: for each consumer its ((die, tag), buffer, handle); a tag names a sheaf only with its die (R26). -/
def State.makeLinks (s : State) (t : Task) (o : CodeObj) : List Sheaf → Option (State × List ((Nat × BitVec 16) × Word × Word))
  | [] => some (s, [])
  | h :: hs =>
    match s.dev.consumerOf h with
    | none => s.makeLinks t o hs
    | some c => match s.makeLink t o h c with
      | none => none
      | some (u, buf, handle) => match u.makeLinks t o hs with
        | none => none
        | some (v, ls) => some (v, ((c.die, c.stag), buf, handle) :: ls)

/-- The strands of a sheaf started, with the stage link's block in strand 0 of a consumer (R20, R238, R314). -/
def State.startSheaf (s : State) (t : Task) (o : CodeObj) (links : List ((Nat × BitVec 16) × Word × Word)) (h : Sheaf) : State :=
  let link := links.find? fun l => l.1 == (h.die, h.stag)
  let ringin := (link.map (·.2.2)).getD 0
  let ringout := match s.dev.consumerOf h with
    | some c => ((links.find? fun l => l.1 == (c.die, c.stag)).map (·.2.2)).getD 0
    | none => 0
  (((upto h.cores.length).zip h.cores).foldl (fun u p =>
    let k := newStrand u.dev t o h p.1 p.2 ringin ringout
    let k1 := match link with
      | some l => if p.1 = 0 then
          { k with gr := k.gr.put 0x6FFC0 (newRcb l.2.1 (attrLcap o.attr) 2 (ownWord k.id.pkg h.die h.stag.toNat 0) 0).bytes } else k
      | none => k
    u.startStrand k1) s)

/-- Speculations that stand on the cores a unit needs are discarded (R401, R404). -/
def State.evictSpecs (s : State) (cores : List Nat) : State :=
  ((s.cur :: s.others).filterMap fun k => if k.resident && cores.contains k.id.coreNum.toNat then k.spec else none).foldl
    (fun t n => t.dropSpec n Window.bumpDoth) s

/-- What a placement comes to: the machine after it, a unit that must wait, or a quota that fails its instance (code 9,
R306). -/
inductive Placed where
  | ok (s : State)
  | wait
  | quota

/-- The cores of a unit, without disturbing speculations if that will do. -/
def State.findCores (s : State) (t : Task) (die : Nat) (u : DispUnit) (first : List DispUnit) :
    Option (List ((Nat × Nat × Nat × Nat) × Nat × List Nat)) :=
  (s.coresFor false t die u first).or (if t.spec.isSome then none else s.coresFor true t die u first)

/-- A new unit placed whole (R380): its sheaves, their stage links and their strands. -/
def State.placeNew (s : State) (t : Task) (o : CodeObj) (got : List ((Nat × Nat × Nat × Nat) × Nat × List Nat)) : Placed :=
  let s1 := s.evictSpecs (got.flatMap fun g => g.2.2)
  match s1.dev.makeSheaves t got with
  | none => .wait
  | some (d, hs) => match (s1.setDev d).drew.makeLinks t o hs with
    | none => .quota
    | some (s2, links) => .ok (hs.foldl (fun v h => v.startSheaf t o links h) s2)

/-! ### Saved units -/

/-- The strands of a sheaf. -/
def State.strandsOf (s : State) (h : Sheaf) : List Strand :=
  (s.cur :: s.others).filter fun k => k.resident && k.id.die.toNat == h.die && k.id.stag == h.stag

/-- A saved strand on its new core: nothing changes but its place and a priority lowered since (R39); the record of a
frozen one is published again (R44, R349). -/
def Strand.moveTo (k : Strand) (core pri : Nat) : Strand :=
  { k with id := { k.id with clus := BitVec.ofNat 3 (core / 8), core := BitVec.ofNat 3 core, pri := BitVec.ofNat 4 pri }
           resident := true, parked := false, published := 0, imageAt := [] }

/-- The first queue of a strand whose descriptor a store has left at odds with itself (R335), as an image offset. -/
def Strand.badQueue (k : Strand) : Option Nat :=
  ((upto 13).findSome? fun q => ((descBad q (vget k.queues q Queue.none).desc.toNat).min?).map fun i => 0x45FC0 + 8 * q + i).or
    (gleanOff k.gleanOcc k.gleanHead).head?

/-- A resumed strand, frozen with a record of cause 0x01 where a queue of it is at odds with itself (R335, R349; assumption
log 68). -/
def State.failBad (s : State) (k : Strand) : Strand :=
  match k.badQueue with
  | some off => { k with frozen := true
                         faults := k.faults ++ [{ s with cur := k }.faultRec 0x01 6 false 0 0 0 (BitVec.ofNat 64 off)] }
  | none => k

/-- The block of a stage link follows its consumer to a new core (R24, R314). -/
def Device.moveLink (d : Device) (die : Nat) (stag : BitVec 16) (core : Nat) : Device :=
  { d with maps := d.maps.map fun m => match m.owner with
      | .link a _ c => if a == die && c == stag.toNat && m.key % 2 ^ 52 / 2 ^ 40 == 0xFFF then
          { m with key := d.granaryKey core 0x60000 } else m
      | _ => m }

/-- The cores of a saved sheaf some of whose strands cfg.ctxop has restored, or that was saved in part: those strands
stay where they are, and the rest take free cores of the same cluster in ascending index (R43, R348); none without such a
strand or without room. -/
def State.coresBeside (s : State) (take : Bool) (h : Sheaf) : Option (List Nat) :=
  let on := s.strandsOf h
  let at_ (n : Nat) : Option Nat := (on.find? fun k => k.id.six.toNat == n).map fun k => k.id.coreNum.toNat
  let base := (on.head?.map fun k => k.id.coreNum.toNat / 8 * 8).getD 0
  let free := ((upto 8).map fun k => base + k).filter (s.coreFree take)
  let missing := (upto h.cores.length).filter fun n => (at_ n).isNone
  if on.isEmpty || free.length < missing.length then none
  else some ((upto h.cores.length).map fun n => (at_ n).getD (((missing.zip free).find? fun p => p.1 == n).map (·.2) |>.getD 0))

/-- The strands of a saved sheaf resume together on one cluster of their die (R43, R335); a queue left at odds with itself
while its strand was saved fails the strand's resumption, which then stands frozen with the record (R349); those
restored onto cores start there (R348). -/
def State.resumeSheaf (s : State) (die : Nat) (h : Sheaf) (cores : List Nat) : State :=
  let imgs := s.dev.images.filter fun k => k.id.die.toNat == die && k.id.stag == h.stag
  let pri (k : Strand) : Nat := ((s.dev.task k.id.task).map (·.pri)).getD k.id.pri.toNat
  let s1 := imgs.foldl (fun u k => u.putStrand (s.failBad (k.moveTo (cores.getD k.id.six.toNat 0) (pri k)))) s
  let unpark (k : Strand) : Strand :=
    if k.resident && k.id.die.toNat == die && k.id.stag == h.stag then { k with parked := false } else k
  let d := { s1.dev with
    images := s1.dev.images.filter fun k => !(k.id.die.toNat == die && k.id.stag == h.stag)
    sheaves := s1.dev.sheaves.map fun (x : Sheaf) => if x.die == die && x.stag == h.stag then
      { x with saved := false, stopping := false, cores := cores, placed := s1.dev.nextPlace } else x }
  { s1 with cur := unpark s1.cur, others := s1.others.map unpark, dev := d.moveLink die h.stag (cores.getD 0 0) }

/-- A saved unit resumed whole. -/
def State.placeSaved (s : State) (got : List (Sheaf × Nat × List Nat)) : State :=
  got.foldl (fun u g => u.resumeSheaf g.2.1 g.1 g.2.2) (s.evictSpecs (got.flatMap fun g => g.2.2))

/-- The cores of a saved unit: each sheaf on a cluster of its own die (R43). -/
def State.coresSaved (s : State) (take : Bool) (t : Task) (die : Nat) (u : DispUnit) (first : List DispUnit) :
    Option (List (Sheaf × Nat × List Nat)) :=
  let hs := s.dev.savedSheaves u
  let beside := hs.filter fun h => !(s.strandsOf h).isEmpty
  let kept := beside.map fun h => (s.coresBeside take h).map fun cs => (h, h.die, cs)
  let taken := (kept.filterMap fun o => o.map fun g => g.2.2).flatten
  let find (d : Nat) : Option (List (Sheaf × Nat × List Nat)) :=
    let sub := { u with sheaves := u.sheaves.filter fun p => match s.dev.sheafAt u.task p with
      | some h => h.die == d && (s.strandsOf h).isEmpty
      | none => false }
    let free := (s.clustersFor die first take [d]).map fun c => (c.1, c.2.filter fun k => !taken.contains k)
    (pickAll [d] t.strands sub.groups free).map fun got =>
      got.filterMap fun g => (s.dev.sheafAt u.task g.1).map fun h => (h, g.2.1, g.2.2)
  if kept.any Option.isNone then none
  else ((hs.map (·.die)).eraseDups).foldl (fun acc d => match acc, find d with
    | some a, some b => some (a ++ b)
    | _, _ => none) (some (kept.filterMap id))

/-- A unit placed on a die, or on the dies of its task (R380, R390), on clusters that none of the held units `first` can
use. -/
def State.placeUnit (s : State) (die : Nat) (u : DispUnit) (first : List DispUnit := []) : Placed :=
  match s.dev.task u.task with
  | none => .ok s
  | some t =>
    if u.saved then
      match (s.coresSaved false t die u first).or (s.coresSaved true t die u first) with
      | none => .wait
      | some got => .ok (s.drew.placeSaved got)
    else match s.dev.objectOf t with
      | none => .ok s
      | some o => match s.findCores t die u first with
        | none => .wait
        | some got => s.placeNew t o got

/-! ### Dispatch -/

/-- Whether a die may dispatch: open after boot (R436), no seal that has stopped dispatch (R414), no rollback or FAIL. -/
def Device.dispatchOpen (d : Device) (die : Nat) : Bool :=
  d.man.isOpen && !d.failed && !d.sealing && die < 8 && d.dies.toList.all fun x => x.rph == 0

/-- Whether a speculative unit may not be disturbed: a real unit takes precedence (R401). -/
def DispUnit.before (a b : DispUnit) : Bool := b.level < a.level || (a.level == b.level && a.stamp < b.stamp)

/-- The units the dispatchers of a die hold, in level order and then stamp order (R390). -/
def Die.heldUnits (x : Die) : List DispUnit := sortBy (fun a b => !b.before a) (x.slot0.held ++ x.slot1.held)

/-- A held unit leaves its dispatcher. -/
def Device.unhold (d : Device) (die : Nat) (u : DispUnit) : Device :=
  let x := d.die die
  let cut (us : List DispUnit) : List DispUnit := us.filter fun v => !(v.stamp == u.stamp)
  d.setDie die { x with slot0 := { x.slot0 with held := cut x.slot0.held }, slot1 := { x.slot1 with held := cut x.slot1.held } }

/-- The RUN entry of a unit placed on a die (Table 17-4): its node, the clusters it took there, its level. -/
def State.recordRun (s : State) (t : Task) (die : Nat) (u : DispUnit) : State :=
  let cores := (u.sheaves.filterMap (s.dev.sheafAt t.num)).flatMap fun h => if h.die == die then h.cores else []
  let clus := ((cores.map fun c => c / 8 % 8).eraseDups).foldl (fun m c => m + 2 ^ c) 0
  if u.saved then s else s.record t.inst die (traceEntry 2 0 t.node clus 0 0 u.level 0)

/-- The body of the DISPATCH record of one sheaf: task, node, position, stage, die and cluster (Table 17-1). -/
def Device.dispatchBody (d : Device) (task : Nat) (p : Nat × Nat × Nat × Nat) : List Nat :=
  let core := ((d.sheafAt task p).bind fun h => h.cores.head?).getD 0
  [task, ((d.task task).map (·.node)).getD 0, p.1, p.2.1, p.2.2.1, p.2.2.2, core / 64, core / 8 % 8]

/-- The record and the effect of a placement that took place; a quota fails the instance (R306, R381). DESIGN CHOICE (assumption
log 93): sheaves of the failing task that already run are ended with it. -/
def State.placedAs (s orig : State) (die slot : Nat) (u : DispUnit) (p : Placed) : Option State :=
  let t := s.dev.task u.task
  match p with
  | .wait => none
  | .ok v =>
    let w := match t with
      | some k => v.recordRun k die u
      | none => v
    some (w.setDev (u.sheaves.foldl (fun (d : Device) p =>
      d.journal die slot 3 ((t.map (·.tid)).getD 0) ((t.map (·.inst)).getD 0) (d.dispatchBody u.task p)) w.dev))
  | .quota => some (match t with
    | some k => (s.failInst orig k.inst k.node 9).endTask orig u.task
    | none => s)

/-- The held units that come before a unit in level order and then stamp order (R390). -/
def Die.heldBefore (x : Die) (u : DispUnit) : List DispUnit := x.heldUnits.filter fun v => v.before u

/-- Whether a unit of the ready structure is taken before any held one: some cluster that a unit of the highest ready level can
use is one that no held unit of its level or a higher one can use (R390). -/
def State.readyFirst (s : State) (die : Nat) : Bool :=
  let x := s.dev.die die
  let top := ((x.ready.map (·.level)).max?).getD 0
  (x.ready.filter fun u => u.level == top).any fun u =>
    let dies := match s.dev.task u.task with
      | some t => s.dev.placesOf die t u
      | none => []
    (s.clusters false dies).any fun c => s.dev.canUse die u c && x.heldUnits.all fun v => v.level < top || !s.dev.canUse die v c

/-- CLUSTER_HANDOUT: the first held unit of the die that can be placed is placed; a cluster that an earlier one can use
stays reserved for it, and a ready unit of a strictly higher level comes first where it may (R390). -/
def State.handOut (s orig : State) (die slot : Nat) : Option State :=
  if !s.dev.dispatchOpen die || s.readyFirst die then none
  else (s.dev.die die).heldUnits.findSome? fun u =>
    let v := s.setDev (s.dev.unhold die u)
    v.placedAs orig die slot u (v.placeUnit die u ((s.dev.die die).heldBefore u))

/-- A unit taken from the ready structure is placed, or held (R383, R388, R390). -/
def State.takeUnit (s orig : State) (die slot : Nat) : State :=
  match (s.dev.die die).take with
  | none => s
  | some (u, x) =>
    let v := s.setDev (s.dev.setDie die x)
    match v.placedAs orig die slot u (v.placeUnit die u ((v.dev.die die).heldUnits.filter fun h => u.level ≤ h.level)) with
    | some w => w
    | none =>
      let y := v.dev.die die
      let sl := y.slot slot
      v.setDev (v.dev.setDie die (y.setSlot slot { sl with held := sl.held ++ [u] }))

/-- R388 to R390: DISPATCH: a held unit that can be placed goes first, but for a unit of a strictly higher level than
every held unit that can use a cluster it can use. -/
def execDispatch (die slot : Nat) (s : State) : Res :=
  if !s.dev.dispatchOpen die || 8 ≤ die then .next s
  else match s.handOut s die slot with
    | some t => .next t
    | none => .next (s.takeUnit s die slot)

/-! ### Saving a unit -/

/-- Whether the copy jobs of a strand let it be saved: all have retired, or a fault of one holds the rest of a frozen strand,
which starts at step 3, with no access under way (R294, R344). -/
def Strand.copiesDone (k : Strand) : Bool :=
  k.jobs.cpq.isEmpty || (k.frozen && !k.hung && (k.jobs.cpq.any fun c => c.phase == .faulted) &&
    k.jobs.cpq.all fun c => c.tags.isEmpty && (c.phase != .running || cardHeld k.jobs.cpq c))

/-- Whether a strand has reached step 5 of Table 15-13: its copy jobs retired; no remote write under way to it, its accesses
performed, the store that waits first among them, and no granary-port job between its first access and its end. A ring
operation that a full undo log stalls with its claim made is saved with it (R417). -/
def State.savable (s : State) (k : Strand) : Bool :=
  k.copiesDone && k.jobs.fills.isEmpty && (k.acc.claim.isNone || k.acc.stall == 7) &&
    !((k.qstreams.head?).any QStream.plain) &&
    (k.acc.reply.isNone && k.qstreams.all fun q => q.replies.isEmpty) &&
    (k.jobs.thq.all fun c => c.phase != .finished && (c.isMul || !(c.phase == .running && (c.started || !c.claims.isEmpty)))) &&
    !((s.dev.die k.id.die.toNat).requests.any fun r => r.core == k.id.coreNum.toNat % 64 && r.stag == k.id.stag && r.six == k.id.six) &&
    !((s.cur :: s.others).any fun o => o.jobs.cpq.any fun c => (c.phase == .running || !c.tags.isEmpty) &&
      c.target == some (k.id.die.toNat, k.id.stag.toNat, k.id.six.toNat))

/-- The state a strand is saved in (R344, R345): a BARWAIT ends, a running thresher job is queued again at its checkpoint,
and a FILLING buffer is EMPTY. A stream stalled there keeps its kind and the resident cycles it has counted, which the
cycles spent saved do not add to (R45, R74; DEDUCED, assumption log 83). -/
def Strand.stopped (k : Strand) : Strand :=
  let ld := if k.acc.barwait.isSome then k.ld - 1 else k.ld
  { k with acc := { k.acc with barwait := none }, ld := ld
           pbst := k.pbst.map fun x => if x = 1 then 0 else x
           jobs := { k.jobs with thq := k.jobs.thq.map fun c => if c.phase == .running then { c with phase := .queued } else c } }

/-- A SEALW of a strand whose seal has not committed is at a boundary with nothing performed (R416). -/
def State.dropSealw (s : State) (k : Strand) : State × Strand :=
  let mine (q : SealwReq) : Bool := q.isOf k && !q.committed
  if s.dev.sealw.any mine then (s.setDev { s.dev with sealw := s.dev.sealw.filter fun q => !mine q }, { k with ld := k.ld - 1 })
  else (s, k)

/-- The sheaves saved with a sheaf: its stage group, or its task when it is co-resident (R43). -/
def Device.unitOf (d : Device) (t : Task) (h : Sheaf) : List Sheaf :=
  d.sheaves.filter fun x => x.task == h.task && (t.cor || (x.x == h.x && x.y == h.y && x.z == h.z))

/-- A unit's sheaves marked saved and the unit ready again at its level, so that the scheduler can start it (R348,
R387). -/
def Device.queueSaved (d : Device) (t : Task) (hs : List Sheaf) : Device :=
  let tags := hs.map fun h => (h.die, h.stag)
  let e : Device := { d with
    sheaves := d.sheaves.map fun (h : Sheaf) => if tags.contains (h.die, h.stag) then { h with saved := true, stopping := false } else h }
  let u : DispUnit := { task := t.num, sheaves := hs.map fun h => (h.x, h.y, h.z, h.stage), level := t.pri, stamp := 0, popmark := 0
                        bank := 0, saved := true, clus := 0 }
  e.enqueue ((hs.head?.map (·.die)).getD 0) u

/-- A unit saved (R344): every strand's image kept, its cores free, and the unit ready again; `keep` leaves a SEALW of the
unit in progress (R416). The image stands among the device's images as the record its bytes are of (assumption log 65). -/
def State.saveUnit (s : State) (t : Task) (hs : List Sheaf) (keep : Bool) : State :=
  let ks := hs.flatMap s.strandsOf
  let s1 := s.withdrawAll fun k => ks.any fun o => o.id.coreNum == k.id.coreNum
  let r := ks.foldl (fun (acc : State × List Strand) k =>
    let q := if keep then (acc.1, k) else acc.1.dropSealw k
    (q.1, acc.2 ++ [q.2.stopped])) (s1, [])
  let s2 := r.1.vacateIf fun k => k.resident && ks.any fun o => o.id.coreNum == k.id.coreNum
  s2.setDev ({ s2.dev with images := s2.dev.images ++ r.2 }.queueSaved t hs)

/-- STEP 1 of Table 15-13 for a unit: the control streams of its strands issue no further job, KLD, PUBLISH or LAUNCH. -/
def State.stopUnit (s : State) (hs : List Sheaf) : State :=
  s.setDev { s.dev with sheaves := s.dev.sheaves.map fun (x : Sheaf) =>
    if (hs.map fun h => (h.die, h.stag)).contains (x.die, x.stag) then { x with stopping := true } else x }

/-- The unit of a strand, with its task: none of it speculative or saved. -/
def State.unitOfStrand (s : State) (k : Strand) : Option (Task × List Sheaf) :=
  if !k.resident || k.spec.isSome then none
  else match s.dev.task k.id.task, s.dev.sheaf k.id.die.toNat k.id.stag.toNat with
    | some t, some h => if (s.dev.unitOf t h).all fun x => !x.saved then some (t, s.dev.unitOf t h) else none
    | _, _ => none

/-- Whether a unit of die `die` and level `lvl` and its task `v` could use the cluster of a sheaf, which its RUN entry allows,
once the strands of lower levels had left it (R42, R395). -/
def State.wouldFit (s : State) (lvl die : Nat) (u : DispUnit) (v : Task) (h : Sheaf) : Bool :=
  let base := h.cores.getD 0 0 / 8 * 8
  let yields (core : Nat) : Bool :=
    u.allows die core && (s.coreFree true core ||
      (s.cur :: s.others).any fun k => k.resident && k.id.coreNum.toNat == core && k.id.pri.toNat < lvl)
  v.strands ≤ (((upto 8).map fun k => base + k).filter yields).length

/-- Whether a held unit of a level needs the cluster of one of some sheaves: it may go to their die, cannot be placed as
things stand, and would fit (R42, R390). -/
def State.needs (s : State) (lvl : Nat) (hs : List Sheaf) : Bool :=
  (upto 8).any fun n => (s.dev.die n).heldUnits.any fun u =>
    u.level == lvl &&
    (match s.dev.task u.task with
     | some v => hs.any fun h => (s.dev.placesOf n v u).contains h.die && s.wouldFit lvl n u v h
     | none => false) &&
    match s.placeUnit n u ((s.dev.die n).heldBefore u) with
    | .wait => true
    | _ => false

/-- The latest placement of some sheaves. -/
def lastPlaced (hs : List Sheaf) : Nat := hs.foldl (fun n h => max n h.placed) 0

/-- Whether no other running unit that the held work needs comes before this one: those of the lowest level first, and
among them the most recently placed (R390). -/
def State.firstToYield (s : State) (lvl : Nat) (t : Task) (hs : List Sheaf) : Bool :=
  s.dev.sheaves.all fun x =>
    x.saved || x.stopping || hs.contains x ||
    match s.dev.task x.task with
    | some o =>
      o.spec.isSome || lvl ≤ o.pri || t.pri < o.pri || (t.pri == o.pri && x.placed ≤ lastPlaced hs) ||
        !s.needs lvl (s.dev.unitOf o x)
    | none => true

/-- Whether a unit may be pre-empted at a level (R42, R390): work of a strictly higher level, a system operation of level 10 or
11 among it, that is held and needs its cluster, a trap of it that the supervisor handles, or the suspension of
its tent, which the move names as level 12 (assumption log 67). -/
def State.mayPreempt (s : State) (lvl : Nat) (t : Task) (hs : List Sheaf) : Bool :=
  lvl == 12 || ((hs.flatMap s.strandsOf).any fun k => k.frozen) ||
    (t.pri < lvl && s.needs lvl hs && s.firstToYield lvl t hs)

/-- R42, R344: PREEMPTION of the current strand's unit at a level; once a unit is asked to stop it is saved as soon as
every strand has reached step 5 of Table 15-13. -/
def execPreemption (lvl : Nat) (s : State) : Res :=
  match s.unitOfStrand s.cur with
  | some (t, hs) =>
    if !(hs.any fun h => h.stopping) && !s.mayPreempt lvl t hs then .next s
    else if (hs.flatMap s.strandsOf).all s.savable then .next (s.saveUnit t hs false)
    else .next (s.stopUnit hs)
  | none => .next s

end Sys2Proof.Machine
end

