-- ==== Sys2Proof/Machine/Accept.lean ====
section
/-!
DEFINITION. What acceptance checks and keeps of an instance (12 R300 to R307): the descriptor's header, nodes, edges,
ranges and guards, grids and fits (02 R28, R35, R47), kernels (R312), portable-form sections (07 R177 to R179), instance
rings (R313), and the shape record (17 R392).
-/
namespace Sys2Proof.Machine

/-! ### Portable-form sections -/

/-- A stream specifier of a portable-form section (R178): its dimensions are raw counts and byte strides. -/
structure WpfStream where
  base : Nat
  fmt : BitVec 4
  write : Bool
  dims : List (Nat × Int)
  deriving DecidableEq, Repr

/-- Streams of a section. -/
def wpfNs (w : List Byte) : Nat := recNat w 6 1

/-- Stream specifier i of a section. -/
def wpfStream (w : List Byte) (i : Nat) : WpfStream :=
  let o := 16 + 48 * i
  { base := recNat w o 1, fmt := BitVec.ofNat 4 (recNat w (o + 1) 1), write := recNat w (o + 2) 1 == 1
    dims := (upto 4).map fun l => (recNat w (o + 8 + 8 * l) 4, (BitVec.ofNat 32 (recNat w (o + 12 + 8 * l) 4)).toInt) }

/-- The specifiers of a section. -/
def wpfStreams (w : List Byte) : List WpfStream := (upto (wpfNs w)).map (wpfStream w)

/-- The body of a section. -/
def wpfBody (w : List Byte) : List Byte := w.drop (16 + 48 * wpfNs w)

/-- A count, written or taken from an argument word (R178). -/
def wpfCount (args : List Word) (c : Nat) : Nat := if c < 2 ^ 31 then c else (args.getD (c % 256) 0).toNat

/-- The elements of a stream: the product of its counts (R178). -/
def WpfStream.count (x : WpfStream) (args : List Word) : Nat := x.dims.foldl (fun n d => n * wpfCount args d.1) 1

/-- Whether a specifier breaks R178; the argument words that it names must exist. -/
def wpfStreamBad (w : List Byte) (args : List Word) (i : Nat) : Bool :=
  let o := 16 + 48 * i
  let nd := recNat w (o + 3) 1
  let x := wpfStream w i
  args.length ≤ x.base || formatWidth x.fmt < 8 || 15 < recNat w (o + 1) 1 || 1 < recNat w (o + 2) 1 ||
    !(1 ≤ nd && nd ≤ 4) || recNat w (o + 4) 4 != 0 || recNat w (o + 40) 8 != 0 ||
    ((upto 4).zip x.dims).any fun d =>
      let c := d.2.1
      if nd ≤ d.1 then c != 1 || d.2.2 != 0
      else if c < 2 ^ 31 then c == 0
      else c / 256 != 2 ^ 23 || args.length ≤ c % 256

/-- The vector fields that an instruction of a body reads and writes, and its predicate fields; none for one that may
not stand in a body (R179). -/
def wpfFields (f : Framed) : Option (List Nat × List Nat × List Nat) :=
  let w := f.word
  let func := (bits w 28 4).toNat
  let vb := (bits w 22 6).toNat
  let va := (bits w 16 6).toNat
  let vd := (bits w 10 6).toNat
  let lit := f.lit.getD 0
  let xop := (lit.extractLsb' 11 5).toNat
  let onto (acc : Bool) (rs : List Nat) : Option (List Nat × List Nat × List Nat) :=
    some (if acc then vd :: rs else rs, [vd], [])
  match major w with
  | 16 =>
    if func < 8 then onto false [va, vb]
    else if func == 8 && xop ≤ 17 then onto (xop == 17) (if 13 ≤ xop && xop ≤ 16 then [va] else [va, vb])
    else if func == 9 && (xop ≤ 12 || (17 ≤ xop && xop ≤ 25)) then onto (xop == 17) [va]
    else none
  | 17 =>
    if func < 8 then onto (func == 5 || func == 6) [va, vb]
    else if func == 8 && xop ≤ 15 then
      onto (xop == 5 || xop == 6 || xop == 15) (if 8 ≤ xop && xop ≤ 14 then [va] else [va, vb])
    else if func == 9 && (xop ≤ 7 || xop == 15) then onto (xop == 5 || xop == 6 || xop == 15) [va]
    else none
  | 18 => if func == 8 && xop ≤ 5 then onto (xop == 5) [va, vb] else none
  | 19 => if func == 8 && xop == 0 then onto false [va] else none
  | 20 => some ([(bits w 17 6).toNat, (bits w 23 6).toNat], [], [(bits w 10 7).toNat])
  | 21 =>
    if func == 0 then onto false [va]
    else if func == 8 && xop == 0 then some ([va, vb], [vd], [(lit.extractLsb' 16 7).toNat])
    else none
  | 24 =>
    let pd := (bits w 7 7).toNat
    let pa := (bits w 14 7).toNat
    let pb := (bits w 21 7).toNat
    if func ≤ 2 then some ([], [], [pd, pa, pb])
    else if func == 3 then some ([], [], [pd, pa])
    else if func == 6 then some ([], [], [pa])
    else none
  | _ => none

/-- Whether the encoding of an instruction of a body is legal (R170): the decoder's for the vector majors, and for PRED the
fields of R267 and R268. -/
def wpfLegal (f : Framed) : Bool :=
  let w := f.word
  let ok (i : Option Instr) : Bool := i.any wellFormed
  match major w with
  | 16 => ok (decodeVint w f.lit)
  | 17 => ok (decodeVfp w f.lit)
  | 18 => ok (decodeVhalf w f.lit)
  | 19 => ok (decodeVcvt w f.lit)
  | 20 => ok (decodeVcmp w f.lit)
  | 21 => ok (decodeVperm w f.lit)
  | 24 => f.lit.isNone && match (bits w 28 4).toNat with
    | 3 => bits w 21 7 == 0#7
    | 6 => bits w 21 7 == 0#7 && bits w 11 3 == 0#3 && bits w 7 3 != 0#3
    | _ => true
  | _ => false

/-- Whether an instruction may stand in the body of a section (R179): one that decodes, with its vector fields on streams of
the right direction or on plain registers, and its predicates among p0 to p31. -/
def wpfInstrOk (xs : List WpfStream) (f : Framed) : Bool :=
  wpfLegal f && match wpfFields f with
  | none => false
  | some (rs, ws, ps) =>
    let slot (wr : Bool) (n : Nat) : Bool := match xs[n]? with
      | some x => x.write == wr
      | none => 16 ≤ n
    (rs.all (slot false)) && (ws.all (slot true)) && ps.all fun p => p < 32

/-- Whether a section breaks R177 to R179 under the argument words of its task. -/
def wpfBad (w : List Byte) (args : List Word) : Bool :=
  let ns := wpfNs w
  let n := recNat w 8 4
  let xs := wpfStreams w
  let body := wpfBody w
  let code := walkBody 0 (body.length + 1) 0 none body
  recNat w 0 4 != 0x31465057 || recNat w 4 2 != 1 || !(1 ≤ ns && ns ≤ 16) || recNat w 7 1 != 0 ||
    !(1 ≤ n && n ≤ 1024) || recNat w 12 4 != 0 || body.length != 4 * n || (upto ns).any (wpfStreamBad w args) ||
    (xs.any fun x => x.count args != ((xs.head?).map fun y => y.count args).getD 0) || code.2.isSome ||
    code.1.foldl (fun m f => m + if f.lit.isSome then 8 else 4) 0 != 4 * n || !code.1.all (wpfInstrOk xs)

/-! ### Header -/

/-- A failed check: its code of Table 12-3 and the node at fault; a header, range, edge or guard names none, 0xFFFF (DESIGN
CHOICE, unsafe, assumption log 98). -/
abbrev Bad := Nat × Nat

/-- The check reported: the lowest code, and of its failures the lowest node. -/
def firstBad (bs : List Bad) : Option Bad :=
  bs.foldl (fun b x => match b with
    | some y => if x.1 < y.1 || (x.1 == y.1 && x.2 < y.2) then some x else some y
    | none => some x) none

/-- A failed check, if it failed. -/
def badIf (c : Bool) (code node : Nat) : List Bad := if c then [(code, node)] else []

/-- The header's own checks (Table 12-1, R300). -/
def headerBad (h : BitVec 512) (desc : Word) (nargs : Nat) : List Bad :=
  let f := hdrField h
  badIf (f 0 4 != 0x48505247 || f 4 2 != 1 || 1 < f 0x0B 1 || 9 < f 0x0C 1 || f 0x1C 36 != 0) 1 0xFFFF ++
    badIf (!(1 ≤ f 6 2 && f 6 2 ≤ 1024) || 4096 < f 8 2 || 16 < f 0x0A 1 || desc.toNat % 64 != 0 || f 0x10 4 % 64 != 0 ||
      f 0x14 4 % 4 != 0 || f 0x18 4 % 16 != 0 || (f 0x0E 1 != 0xFF && nargs ≤ f 0x0E 1)) 2 0xFFFF

/-! ### Nodes -/

/-- The bytes that a node of a kind may use, as (offset, length) (R301, Table 12-2). -/
def nodeNamed (kind cases : Nat) : List (Nat × Nat) :=
  (0, 3) :: match kind with
    | 0 => [(8, 24)]
    | 1 => [(8, 3)]
    | 2 => [(8, 1), (0x10, 8)]
    | 3 => [(8, 1), (0x0C, 4), (0x10, 4)]
    | 4 => [(8, 2), (0x10, 4 * cases)]
    | 5 => [(8, 2)]
    | _ => [(8, 2), (0x0C, 7)]

/-- The fields that hold an index of an argument word. -/
def nodeWords (kind : Nat) : List Nat :=
  match kind with
  | 1 => [8, 9, 10]
  | 2 | 3 | 4 => [8]
  | 5 => [9]
  | 6 => [8, 9]
  | _ => []

/-- A grid extent, written or taken from an argument word (Table 12-2). -/
def extentOf (args : List Word) (g : Nat) : Nat := if g < 2 ^ 31 then g else (args.getD (g % 256) 0).toNat % 2 ^ 32

/-- The grid of a kernel node. -/
def NodeState.grid (x : NodeState) (args : List Word) : Nat × Nat × Nat :=
  (extentOf args (x.field 0x10 4), extentOf args (x.field 0x14 4), extentOf args (x.field 0x18 4))

/-- The argument words of a kernel node's task. -/
def NodeState.taskArgs (x : NodeState) (args : List Word) : List Word := (args.drop (x.field 0x1C 2)).take (x.field 0x1E 2)

/-- FORMAT and STRUCTURE checks of one node (R301, R302). -/
def nodeBad (args : List Word) (nn n : Nat) (x : NodeState) : List Bad :=
  let kind := x.field 0 1
  let named := nodeNamed kind (min (x.field 9 1) 12)
  let zeros := (upto 64).all fun b => x.field b 1 == 0 || named.any fun r => r.1 ≤ b && b < r.1 + r.2
  let pri := x.field 2 1
  let words := nodeWords kind
  let extents := if kind = 0 then [x.field 0x10 4, x.field 0x14 4, x.field 0x18 4] else []
  if 6 < kind then [(1, n)]
  else
    badIf (!zeros || 1 < x.field 1 1 || (9 < pri && pri != 0xFF) || (kind == 5 && 1 < x.field 8 1) ||
        (kind == 3 && x.field 0x0C 4 == 0) || (kind == 1 && 2 ^ 40 < (args.getD (x.field 10 1) 0).toNat) ||
        extents.any fun g => 2 ^ 31 ≤ g && g % 2 ^ 31 / 256 != 0) 1 n ++
      badIf ((words.any fun o => args.length ≤ x.field o 1) || (extents.any fun g => 2 ^ 31 ≤ g && args.length ≤ g % 256) ||
        (kind == 4 && !(1 ≤ x.field 9 1 && x.field 9 1 ≤ 12)) ||
        (kind == 0 && !(1 ≤ x.field 0x1E 2 && x.field 0x1E 2 ≤ 256)) ||
        x.ranges.any fun r => (r.2 == 0 && kind != 2) || (r.2 != 0 && (r.1 ≤ n || nn < r.1 + r.2))) 2 n ++
      badIf (extents.any fun g => (g < 2 ^ 31 || g % 256 < args.length) &&
        !(1 ≤ extentOf args g && extentOf args g ≤ 65536)) 3 n

/-- Whether two ranges are disjoint or nested (R302). -/
def rangesFit (a b : Nat × Nat) : Bool :=
  a.2 == 0 || b.2 == 0 || a.1 + a.2 ≤ b.1 || b.1 + b.2 ≤ a.1 || (a.1 ≤ b.1 && b.1 + b.2 ≤ a.1 + a.2) ||
    (b.1 ≤ a.1 && a.1 + a.2 ≤ b.1 + b.2)

/-- The nodes of a list that stand on a cycle of edges or behind one. -/
def peelEdges (edges : List (Nat × Nat)) : Nat → List Nat → List Nat
  | 0, ns => ns
  | fuel + 1, ns =>
    let kept := ns.filter fun n => edges.any fun e => e.2 == n && ns.contains e.1
    if kept.length = ns.length then ns else peelEdges edges fuel kept

/-- Checks of ranges, edges and guards among each other (R302, R303). -/
def shapeBad (nodes : List NodeState) (edges guards : List (Nat × Nat)) (nargs : Nat) : List Bad :=
  let nn := nodes.length
  let rs := (nodes.flatMap NodeState.ranges).eraseDups
  badIf ((rs.any fun a => rs.any fun b => !rangesFit a b) ||
      ((upto nn).any fun n => 8 < (rs.filter fun r => inRange r n).length) ||
      (edges.any fun e => nn ≤ e.1 || nn ≤ e.2 || e.1 == e.2 || levelOf nodes e.1 != levelOf nodes e.2) ||
      !(peelEdges edges nn (upto nn)).isEmpty ||
      guards.any fun g => nargs ≤ g.1 || nn ≤ g.2 || (levelOf nodes g.2).isSome) 2 0xFFFF

/-! ### Kernels and fits -/

/-- The code object a kernel node of a tent names, none where KOBJ names none of the tent or system code (R306). -/
def Device.kernelOf (d : Device) (t : Tent) (x : NodeState) : Option CodeObj :=
  d.objects.find? fun o => o.asid == t.asid && o.base.toNat == x.field 8 8 && !o.sys

/-- The cores of a die that hold no persistent region, by cluster, as how many strand groups of a size each takes. -/
def Device.clusterFits (d : Device) (die strands : Nat) : List Nat :=
  (upto 8).map fun c => ((upto 8).filter fun k => !d.isHost (64 * die + 8 * c + k)).length / strands

/-- The most stage groups that fit an otherwise idle die at once (R35, R47). -/
def groupsFit (fits : List Nat) (stages : Nat) : Nat :=
  ((upto 65).filter fun g => g * stages ≤ fits.foldl (fun n f => n + min f g) 0).foldl max 0

/-- The checks of a kernel node (R306, R312, codes 4 to 7). -/
def Device.kernelBad (d : Device) (t : Tent) (dies : List Nat) (args : List Word) (n : Nat) (x : NodeState) : List Bad :=
  if x.field 0 1 != 0 then []
  else match d.kernelOf t x with
    | none => [(7, n)]
    | some o =>
      let r := o.attr
      let wpf := attrWpf r
      let rings := attrRings r
      let g := x.grid args
      let fit (die : Nat) : Nat := groupsFit (d.clusterFits die (attrScnt r)) (attrNstg r)
      badIf (!wpf.isEmpty && wpfBad wpf (x.taskArgs args)) 6 n ++
        badIf ((o.entries.toList.all fun e => e == 0xFFFFFFFF) && wpf.isEmpty ||
          args.length < x.field 0x1C 2 + x.field 0x1E 2 ||
          rings.any fun q => q.g % 64 != 0 || 0x70000 < q.g + 64 || q.l % 64 != 0 || 0x200000 < q.l + q.cap) 7 n ++
        badIf (1 < attrNstg r && dies.all fun die => fit die == 0) 4 n ++
        badIf (x.field 1 1 == 1 && dies.foldl (fun m die => m + fit die) 0 < g.1 * g.2.1 * g.2.2) 5 n

/-- Every check that the copies allow (R306). -/
def Device.graphBad (d : Device) (t : Tent) (i : Instance) : Option Bad :=
  let pairs := (upto i.nodes.length).zip i.nodes
  firstBad ((pairs.flatMap fun p => nodeBad i.args i.nodes.length p.1 p.2) ++
    shapeBad i.nodes i.edges i.guards i.args.length ++
    pairs.flatMap fun p => d.kernelBad t i.dies i.args p.1 p.2)

/-! ### Instance rings -/

/-- One instance ring created (R313): the block in a persistent region of a die the graph may use, the buffer in the
die's stacked DRAM, the handle in its argument word; the code that rejects the instance where the buffer passes LIMIT (9)
or it or the handle does not translate (8); `wait` where no granary host has room or a page moves. -/
inductive RingMade where
  | ok (s : State) (i : Instance)
  | bad (code : Nat)
  | wait

/-- An instance ring created. -/
def State.makeRing (s : State) (t : Tent) (i : Instance) (r : GraphRing) : RingMade :=
  let n := Config.freeIndex s.fresh
  let dies := i.dies
  match (upto dies.length).findSome? fun k =>
      let die := dies.getD ((k + n) % dies.length) 0
      (s.allocPersist die 64 t.tid).map fun p => (die, p) with
  | none => .wait
  | some (die, s1, key) =>
    let u := s1.drew.enter { t.agent with die := die }
    let units := (r.cap.toNat + 65535) / 65536
    match u.chargeStk units with
    | .inr _ => .bad 9
    | .inl v =>
      let owner := MapOwner.instance_ i.num
      let b := v.mapNew units attrData owner true []
      let h := b.1.mapKey key owner
      let rcb := newRcb b.2 r.cap.toNat r.scope.toNat (ownWord s.dev.pkg die 0 0) 0
      let w := h.1.leave
      match h.1.check .store 1 false b.2 r.cap.toNat, h.1.check .atomic 64 true h.2 64 with
      | .ok _, .ok _ => .ok (w.setDev { w.dev with mem := w.dev.mem.blit key rcb.bytes })
          { i with args := i.args.set r.arg.toNat h.2, rings := i.rings ++ [key] }
      | .fault _ _, _ => .bad 8
      | _, .fault _ _ => .bad 8
      | _, _ => .wait

/-- The instance rings of a graph created. -/
def State.makeRings (s : State) (t : Tent) (i : Instance) : List GraphRing → RingMade
  | [] => .ok s i
  | r :: rs => match s.makeRing t i r with
    | .ok u j => u.makeRings t j rs
    | e => e

/-! ### Replay at acceptance -/

/-- The bytes of a header or a node record. -/
def recBytes (r : BitVec 512) (off n : Nat) : List Byte := natLe n (hdrField r off n)

/-- The shape record (Table 17-3). -/
def Device.shapeRecord (d : Device) (t : Tent) (i : Instance) (vals : List Word) : List Byte :=
  let h := i.header
  natLe 4 1 ++ recBytes h 6 2 ++ recBytes h 8 2 ++ recBytes h 0x0A 1 ++ recBytes h 0x0F 1 ++ [0, 0] ++
    (i.nodes.flatMap fun x =>
      recBytes x.record 0 2 ++ List.replicate 6 0 ++
        if x.field 0 1 = 0 then
          let g := x.grid i.args
          natLe 8 (((d.kernelOf t x).map fun o => o.digest.toNat % 2 ^ 64).getD 0) ++ natLe 4 g.1 ++ natLe 4 g.2.1 ++
            natLe 4 g.2.2 ++ List.replicate 4 0
        else recBytes x.record 8 24) ++
    (i.edges.flatMap fun e => natLe 2 e.1 ++ natLe 2 e.2) ++
    ((i.guards.zip vals).flatMap fun g => natLe 1 g.1.1 ++ [0] ++ natLe 2 g.1.2 ++ List.replicate 4 0 ++ bytes8 g.2)

/-- Whether a core is in service: a granary host is not (R412). -/
def Device.inService (d : Device) (core : Nat) : Bool := !d.isHost core

/-- Whether a die is in service: some core of it is. -/
def Device.dieInService (d : Device) (die : Nat) : Bool := (upto 64).any fun k => d.inService (64 * die + k)

/-- The health check of a work entry of a die's lane: every core of its clusters is in service; an allocation's quota is
checked where it is made (R313, R395). -/
def Device.healthy (d : Device) (die : Nat) (e : TraceEntry) : Bool :=
  (upto 8).all fun c => !(teField e 24 8).testBit c || (upto 8).all fun k => d.inService (64 * die + 8 * c + k)

/-- Whether a trace entry is a work entry (R394). -/
def isWork (e : TraceEntry) : Bool := teField e 0 4 == 1 || teField e 0 4 == 2 || teField e 0 4 == 3

/-- Whether the first work entry of every lane of a trace passes its health check (R397). -/
def Device.healthyStart (d : Device) (t : Trace) : Bool :=
  t.lanes.all fun l => ((l.2.find? isWork).map (d.healthy l.1)).getD true

/-- The ALLOC entries of an instance's rings (R394): the die, and an entry with the ring's place in ARG [33:0] and its
capacity in 64-byte units above (assumption log 77). -/
def allocEntries (keys : List Nat) (rs : List GraphRing) : List (Nat × TraceEntry) :=
  (keys.zip rs).map fun p => (p.1 / 2 ^ 52 % 8, traceEntry 1 0 0 0 0 0 0 (BitVec.ofNat 64 (p.1 % 2 ^ 34 + p.2.cap.toNat / 64 * 2 ^ 34)))

/-- The replay state of an instance accepted with REPLAY = 1 (R392, R393): it replays the trace of its shape, or is
recorded where the silo holds none whose gang is in service; a first work entry that fails its health check gives a
dynamic run (R397). -/
def Device.replayOf (d : Device) (t : Tent) (i : Instance) (vals : List Word) (allocs : List (Nat × TraceEntry)) : ReplayState :=
  let hash := BitVec.ofNat 128 (leNat ((shake256 (d.shapeRecord t i vals)).take 16))
  let found := if i.dies.all d.dieInService then d.silo.find? fun x => x.tid == t.tid && x.hash == hash else none
  { hash := hash, trace := found, guards := vals, recording := found.isNone, replaying := found.any d.healthyStart
    entries := if found.isNone then allocs else [], places := [], sems := []
    stopping := false, stopped := [], failed := false, pending := [] }

/-- Words that firmware reads for a tent, one after another; `bad` where one cannot be read. -/
def State.readWords (s orig : State) (g : Agent) (bad : State → State) (k : State → List Word → State) : List Word → State
  | [] => k s []
  | a :: as => s.readK g orig a 8 bad fun u b =>
      u.readWords orig g bad (fun v ws => k v (BitVec.ofNat 64 (leNat b) :: ws)) as

/-! ### History and prediction -/

/-- The kernel identifier of an instance (R399): the node record's first 32 bytes of an instance of one speculable kernel
node without REPLAY, else 0. -/
def Device.kernelId (d : Device) (t : Tent) (i : Instance) : BitVec 256 :=
  match i.nodes with
  | [x] =>
    if x.field 0 1 = 0 && hdrField i.header 0x0B 1 % 2 = 0 && ((d.kernelOf t x).map fun o => attrSpec o.attr).getD false then
      BitVec.ofNat 256 (hdrField x.record 0 32)
    else 0
  | _ => 0

/-- The history with an accepted launch as its newest entry (R399). -/
def Tent.remember (t : Tent) (q : Nat) (e : HistEntry) : Tent :=
  { t with hist := insertKey t.hist q ((e :: lookupD [] t.hist q).take 4) }

/-- The node record of a kernel identifier. -/
def kernelNode (k : BitVec 256) : NodeState := { record := k.setWidth 512, phase := .idle, passes := 0, range := (0, 0) }

/-- Whether instance word f is named don't-care (R320, R400). -/
def dontCare (o : CodeObj) (x : NodeState) (f : Nat) : Bool :=
  let a := x.field 0x1C 2
  a ≤ f && f < a + 64 && (attrDcmask o.attr).testBit (f - a)

/-- The regions of a kernel's footprint under its task's argument words, read regions 0 to 3 and write regions 4 and 5
(R298). -/
def footOf (o : CodeObj) (args : List Word) : List (Option (Word × Word)) :=
  (upto 6).map fun i => (attrFoot o.attr i).map fun e => (args.getD e.1 0, args.getD e.2 0)

/-- The priority a node's task runs at: its own or the header's, capped by the tent's ceiling (R39, R308). -/
def cappedPri (t : Tent) (header : BitVec 512) (x : NodeState) : Nat :=
  min t.ceiling.toNat (if x.field 2 1 = 0xFF then hdrField header 0x0C 1 else x.field 2 1)

/-- The outcome of the claim test at acceptance (R402). -/
inductive ClaimTest where
  | none
  | mismatch (n : Nat)
  | stale (n : Nat)
  | pass

/-- The claim test of an accepted launch, but for the limit and a staleness that its claim decides (R402). -/
def Device.claimTest (d : Device) (t : Tent) (q : Nat) (i : Instance) : ClaimTest :=
  match d.specs.find? fun p => p.tid == t.tid && p.queue == q with
  | Option.none => .none
  | some p =>
    let x := kernelNode p.kernel
    let same := match d.kernelOf t x with
      | Option.none => false
      | some o =>
        d.kernelId t i == p.kernel && p.args.length == i.args.length &&
          ((upto i.args.length).all fun f => dontCare o x f || i.arg f == p.args.getD f 0) &&
          p.pri == cappedPri t i.header x && footOf o (x.taskArgs i.args) == footOf o (x.taskArgs p.args)
    if !same then .mismatch p.num else if p.stale then .stale p.num else .pass

/-- A counter of discards on a mismatch. -/
def Window.bumpDmis (w : Window) : Window := { w with dmis := w.dmis + 1 }
/-- A counter of discards on a stale read set. -/
def Window.bumpDrs (w : Window) : Window := { w with drs := w.drs + 1 }

/-! ### Acceptance -/

/-- A status write prepared (R307): the unit committed, `bad` where the word cannot be written or passes LIMIT. -/
def State.prepareStatus (s orig : State) (g : Agent) (i : Instance) (bad k : State → State) : State :=
  if hdrField i.header 0x0E 1 = 0xFF then k s
  else match i.statusAddr with
    | none => bad s
    | some a =>
      if a.toNat / 2 ^ 56 != 0 then bad s
      else
        let t := s.enter g
        match t.check .store 8 false a 8 with
        | .fault _ _ => bad s
        | .wait => orig
        | .ok ps => match t.commitAll a 1 ps with
          | .fault _ _ _ _ => bad s
          | .full => orig
          | .done u => k u.leave

/-- An instance rejected whole: its status word says so where it can be written, and what it had allocated is freed
(R306, R307). -/
def State.reject (s orig : State) (i : Instance) (b : Bad) (k : State → State) : State :=
  let j := { i with state := 3, code := BitVec.ofNat 8 b.1, node := BitVec.ofNat 16 b.2 }
  (s.setDev (s.dev.forget j)).status orig j k

/-- The claim test of an accepted instance acted on (R402, R404). -/
def State.tryClaim (s : State) (t : Tent) (q : Nat) (i : Instance) : State :=
  match s.dev.claimTest t q i with
  | .none => s
  | .mismatch n => s.dropSpec n Window.bumpDmis
  | .stale n => s.dropSpec n Window.bumpDrs
  | .pass => s.setInst { i with claiming := true }

/-- An instance enters (R306, R307, R399): its launch joins the history, the claim test is made and STATE 0 written. -/
def State.accepted (s orig : State) (t : Tent) (q : Nat) (i : Instance) (k : State → State) : State :=
  let e : HistEntry :=
    { kernel := s.dev.kernelId t i, args := i.args, pri := ((i.nodes.head?).map (cappedPri t i.header)).getD 0, dies := i.dies
      spent := false }
  let u := s.dev.useTrace i
  let d := { u with instances := s.dev.instances ++ [i]
                    tents := s.dev.tents.map fun x => if x.tid == t.tid then x.remember q e else x }
  ((s.setDev d).tryClaim t q i).status orig i k

/-- ACCEPT (R306, R381): the arrays read, every check made, rings created, guards read, and the instance entered; arrays
that cannot be read reject it with code 8 (R207). The words checked are the caller's: the handles of its instance rings are
written into theirs afterwards (DESIGN CHOICE, unsafe, assumption log 99). -/
def State.accept (s orig : State) (t : Tent) (q : Nat) (desc handle : Word) (header : BitVec 512) (args : List Word)
    (k : State → State) : State :=
  let srv := s.dev.server t.tid
  let num := s.dev.serial
  let i : Instance :=
    { num := num, tid := t.tid, queue := q, handle := handle, state := 0, code := 0, node := 0xFFFF, loopcap := false
      header := header, edges := [], guards := [], nodes := [], args := args, rin := s.dev.rin, replay := none, rings := []
      claiming := false }
  let d := { s.dev with serial := num + 1 }
  let s1 := s.setDev (d.journal srv.1 srv.2 1 t.tid num (q :: wordsLe 2 handle.toNat))
  let g := t.agent
  match firstBad (headerBad header desc args.length) with
  | some b => s1.reject orig i b k
  | none =>
    let f := hdrField header
    let at_ (o : Nat) : Word := desc + BitVec.ofNat 64 o
    let unread (u : State) : State := u.reject orig i (8, 0xFFFF) k
    s1.readK g orig (at_ (f 0x10 4)) (64 * f 6 2) unread fun s2 nb =>
    s2.readK g orig (at_ (f 0x14 4)) (4 * f 8 2) unread fun s3 eb =>
    s3.readK g orig (at_ (f 0x18 4)) (16 * f 0x0A 1) unread fun s4 gb =>
      let node (n : Nat) : NodeState :=
        { record := BitVec.ofNat 512 (recNat nb (64 * n) 64), phase := .idle, passes := 0, range := (0, 0) }
      let guardZero := (upto (f 0x0A 1)).all fun n => recNat gb (16 * n + 1) 1 == 0 && recNat gb (16 * n + 4) 12 == 0
      let j := { i with
        nodes := (upto (f 6 2)).map node
        edges := (upto (f 8 2)).map fun n => (recNat eb (4 * n) 2, recNat eb (4 * n + 2) 2)
        guards := (upto (f 0x0A 1)).map fun n => (recNat gb (16 * n) 1, recNat gb (16 * n + 2) 2) }
      let rings := t.graphRings.filter fun r => r.desc == desc
      match firstBad (badIf (!guardZero) 1 0xFFFF ++ badIf (rings.any fun r => args.length ≤ r.arg.toNat) 2 0xFFFF ++
          (s4.dev.graphBad t j).toList) with
      | some b => s4.reject orig j b k
      | none =>
        s4.prepareStatus orig g j k fun s5 =>
          match s5.makeRings t j rings with
          | .wait => orig
          | .bad c => s5.reject orig j (c, 0xFFFF) k
          | .ok s6 m =>
            if f 0x0B 1 % 2 = 0 then s6.accepted orig t q m k
            else s6.readWords orig g (fun u => u.reject orig m (8, 0xFFFF) k)
              (fun u vals => u.accepted orig t q { m with replay := some (u.dev.replayOf t m vals (allocEntries m.rings rings)) } k)
              (m.guards.map fun x => m.arg x.1)

end Sys2Proof.Machine
end

