-- ==== Sys2Proof/Machine/Graph.lean ====
section
/-!
DEFINITION. The dispatcher's work on launch queues and nodes: KICKCLR with acceptance (12 R304 to R307, 17 R391), the
start, test and end of nodes (R302, R308 to R310), replay's lanes and checks (17 R394, R395), completions and snapshots
(R381, R382), a dispatcher's failure (R384, R385), and the launch doorbell (12 R305).
-/
namespace Sys2Proof.Machine

/-! ### When the scheduler acts -/

/-- Whether the dispatchers read queues and process ends: booted (R436), no rollback or FAIL, no seal past BARRIER
(R414). -/
def Device.reading (d : Device) : Bool :=
  d.man.isOpen && !d.failed && d.dies.toList.all fun x => x.rph == 0 && x.sph.toNat ≤ 1

/-- Whether new work may start: no seal either (R414). -/
def Device.starting (d : Device) : Bool := d.reading && !d.sealing

/-- The remote line caches of a tent on every die written back and dropped: what a task boundary performs at the widest
scope (R31), and what orders a read of the scheduler after it (R308). -/
def State.boundary (s : State) (g : Agent) : State :=
  (upto 8).foldl (fun u die => u.inName { g with die := die } fun v => v.acquired 3) s

/-- Whether a tent's dirty lines of every die can be written back now, as a task boundary needs (R31, R366, R417). -/
def State.boundaryClear (s : State) (g : Agent) : Bool := (upto 8).all fun die => (s.enter { g with die := die }).flushable 3

/-! ### Replay lanes -/

/-- The first die of the gang, whose lane holds the checks. -/
def Instance.lead (i : Instance) : Nat := i.dies.headD 0

/-- The trace an instance replays, as it stood at its acceptance (R398). -/
def Device.traceOf (_d : Device) (i : Instance) : Option Trace :=
  i.replay.bind fun r => if r.replaying && !r.failed then r.trace else none

/-- A lane of a trace. -/
def Trace.lane (t : Trace) (die : Nat) : List TraceEntry := lookupD [] t.lanes die

/-- The entry a lane of a replay stands at. -/
def Device.laneEntry (d : Device) (i : Instance) (die : Nat) : Option TraceEntry :=
  match d.traceOf i, i.replay with
  | some t, some r => (t.lane die)[lookupD 0 r.places die]?
  | _, _ => none

/-- How often a lane up to its place has signalled or waited for a semaphore. -/
def laneCount (es : List TraceEntry) (op sem : Nat) : Nat :=
  es.foldl (fun n e => if teField e 0 4 = op && teField e 32 8 = sem then n + (if op = 5 then teField e 40 8 else 1) else n) 0

/-- Signals of a semaphore that every lane has sent so far. -/
def Trace.sent (t : Trace) (r : ReplayState) (sem : Nat) : Nat :=
  t.lanes.foldl (fun n l => n + laneCount (l.2.take (lookupD 0 r.places l.1)) 4 sem) 0

/-- A lane gone one entry further. -/
def ReplayState.advance (r : ReplayState) (die : Nat) : ReplayState :=
  { r with places := insertKey r.places die (lookupD 0 r.places die + 1) }

/-- A replay fails at a check: the finding die stops, and the rest of the gang is told (R396); a recording that fails a
check stores nothing (R393). -/
def ReplayState.fail (r : ReplayState) (die : Nat) : ReplayState :=
  if r.replaying then { r with failed := true, stopping := true, stopped := [die] } else { r with failed := true }

/-- The replay state of an instance changed. -/
def State.setReplay (s : State) (i : Instance) (r : ReplayState) : State := s.setInst { i with replay := some r }

/-- One step of a lane that needs no other event: a RUN hands a waiting unit of its node and its clusters to the die, a
COPY whose node has moved its bytes, a SIGNAL whose node has ended, a WAIT whose signals have come, an ALLOC, a guard
check (made at the node ends, R321). A RUN or a COPY first has its health check, which may end the replay (R395). None
where the lane stands. -/
def State.laneStep (s : State) (inst die : Nat) : Option State :=
  match s.dev.instance_ inst with
  | none => none
  | some i => match s.dev.traceOf i, i.replay, s.dev.laneEntry i die with
    | some t, some r, some e =>
      let n := teField e 8 10
      let go := some (s.setReplay i (r.advance die))
      let phase := (i.node? n).map (·.phase)
      match teField e 0 4 with
      | 1 => go
      | 2 => match r.pending.find? fun u => ((s.dev.task u.task).map (·.node)) == some n with
        | none => none
        | some u =>
          if !s.dev.healthy die e then some (s.setReplay i (r.fail die))
          else
            let r1 := { r with pending := r.pending.filter fun v => !(v.stamp == u.stamp && v.task == u.task) }
            let s1 := s.setReplay i (r1.advance die)
            some (s1.setDev (s1.dev.enqueue die { u with clus := teField e 24 8 }))
      | 3 =>
        if phase == some .done || phase == some .ended then go
        else if !s.dev.healthy die e then some (s.setReplay i (r.fail die))
        else none
      | 4 => if phase == some .ended then go else none
      | 5 =>
        let sem := teField e 32 8
        let done := laneCount ((t.lane die).take (lookupD 0 r.places die)) 5 sem
        if done + teField e 40 8 ≤ lookupD 0 r.sems (die, sem) then go else none
      | 6 => if teField e 4 4 = 0 then go else none
      | _ => none
    | _, _, _ => none

/-- A lane run as far as it goes. -/
def State.runLane (s : State) (inst die : Nat) : Nat → State
  | 0 => s
  | fuel + 1 => match s.laneStep inst die with
    | some t => t.runLane inst die fuel
    | none => s

/-- Every lane of a replaying instance run as far as it goes (R395). -/
def State.runLanes (s : State) (inst : Nat) : State :=
  match s.dev.instance_ inst with
  | none => s
  | some i => match s.dev.traceOf i with
    | none => s
    | some _ => i.dies.foldl (fun u die => u.runLane inst die 65537) s

/-- Whether a replaying instance lets a node act now: a control node's check or a copy's entry must be the one its lane
stands at (R394, R395); nothing starts between a stop and the hand-over (R396). -/
def Device.replayLets (d : Device) (i : Instance) (n : Nat) (op : Nat) : Bool :=
  match i.replay with
  | none => true
  | some r =>
    if r.stopping then false
    else match d.traceOf i with
      | none => true
      | some _ => i.dies.any fun die => match d.laneEntry i die with
        | some e => teField e 0 4 == op && teField e 8 10 == n && (op != 6 || teField e 4 4 == 1)
        | none => false

/-- The lane entry of a control outcome passed, or the replay failed by another outcome; a recording takes it down
(R321, R394). -/
def State.outcome (s : State) (inst node v : Nat) : State :=
  match s.dev.instance_ inst with
  | none => s
  | some i =>
    let s1 := s.record inst i.lead (traceEntry 6 1 node 0 0 0 0 (BitVec.ofNat 64 v))
    match s.dev.traceOf i, i.replay, s.dev.laneEntry i i.lead with
    | some _, some r, some e =>
      if teField e 64 64 = v then s.setReplay i (r.advance i.lead) else s.setReplay i (r.fail i.lead)
    | _, _, _ => s1

/-! ### Nodes -/

/-- Whether every node with an edge into a node has ended (R308). -/
def Instance.ready (i : Instance) (n : Nat) : Bool :=
  i.edges.all fun e => e.2 != n || match i.node? e.1 with
    | some x => x.phase == .ended
    | none => true

/-- The phase of a node changed, with the range it has selected. -/
def State.setPhase (s : State) (inst node : Nat) (f : NodeState → NodeState) : State :=
  match s.dev.instance_ inst with
  | none => s
  | some i => match i.node? node with
    | some x => s.setInst (i.setNode node (f x))
    | none => s

/-- A control node selects a range, whose nodes may then run (R309); an empty one ends it at once. -/
def State.select (s : State) (inst node : Nat) (r : Nat × Nat) : State :=
  match s.dev.instance_ inst with
  | none => s
  | some i =>
    if r.2 = 0 then s.setPhase inst node fun x => { x with phase := .done }
    else (s.setInst (i.resetRange r)).setPhase inst node fun x => { x with phase := .running, range := r }

/-- One evaluation of a loop (R309). -/
def State.loopStep (s orig : State) (t : Tent) (i : Instance) (node : Nat) (x : NodeState) : State :=
  if x.passes < x.field 0x0C 4 then
    s.readK t.agent orig (i.arg (x.field 8 1)) 8 (fun u => u.failInst orig i.num node 8) fun u b =>
      if leNat b = 0 then (u.outcome i.num node 0).setPhase i.num node fun y => { y with phase := .done }
      else ((u.outcome i.num node 1).select i.num node (x.field 0x10 2, x.field 0x12 2)).setPhase i.num node
        fun y => { y with passes := x.passes + 1 }
  else
    let j := { i with loopcap := true }
    (s.setInst j).setPhase i.num node fun y => { y with phase := .done }

/-- The word of a conditional or a switch read, and its range selected (R309). -/
def State.choose (s orig : State) (t : Tent) (i : Instance) (node : Nat) (x : NodeState) : State :=
  s.readK t.agent orig (i.arg (x.field 8 1)) 8 (fun u => u.failInst orig i.num node 8) fun u b =>
    let w := leNat b
    let c := if x.field 0 1 = 2 then (if w = 0 then 1 else 0) else min w (x.field 9 1 - 1)
    (u.outcome i.num node (if x.field 0 1 = 2 then 1 - c else c)).select i.num node (x.ranges.getD c (0, 0))

/-- The chunks of a copy node, each at most 64 KiB, from `done` bytes on (R310). -/
def State.copyChunks (s orig : State) (g : Agent) (src dst : Word) (len : Nat) (bad : State → Nat → State) (k : State → State) :
    Nat → Nat → State
  | 0, _ => k s
  | fuel + 1, done =>
    if len ≤ done then k s
    else
      let n := min 65536 (len - done)
      let at_ (a : Word) : Word := a + BitVec.ofNat 64 done
      s.readK g orig (at_ src) n (fun u => bad u 8) fun u b =>
        u.writeK g orig (at_ dst) b bad fun v => v.copyChunks orig g src dst len bad k fuel (done + n)

/-- A copy node run whole, on the first die the graph may use; which cluster's engines move the bytes the spec leaves open
(R310, R394, assumption log 3). -/
def State.copyNode (s orig : State) (t : Tent) (i : Instance) (node : Nat) (x : NodeState) : State :=
  let arg (o : Nat) : Word := i.arg (x.field o 1)
  let len := (arg 10).toNat
  let s1 := (s.record i.num i.lead (traceEntry 3 0 node (2 ^ (Config.freeIndex s.fresh % 8)) 0 0 0 0)).drew
  s1.copyChunks orig { t.agent with die := i.lead } (arg 8) (arg 9) len (fun u c => u.failInst orig i.num node c)
    (fun u => (u.setPhase i.num node fun y => { y with phase := .done }).runLanes i.num) (len / 65536 + 1) 0

/-! ### Event and mailbox-send nodes -/

/-- The block a handle names for firmware: `k` with its place, `bad` where the handle names none that the tent may use; a
page that moves makes the whole event wait (`orig`, R364). -/
def State.ringK (s : State) (g : Agent) (orig : State) (h : Word) (bad : State → State) (k : State → Loc → State) : State :=
  match (s.enter g).check .atomic 64 true h 64 with
  | .ok (p :: _) => k s p.hit.loc
  | .wait => orig
  | _ => bad s

/-- `k` is told whether a ring holds a published record from counter `c` on that is not a skip (R310). -/
def State.ringReady (s : State) (g : Agent) (orig : State) (r : Rcb) (bad : State → State) (k : State → Bool → State) :
    Nat → Nat → State
  | 0, _ => k s false
  | fuel + 1, c =>
    if r.tail ≤ c then k s false
    else s.readK g orig (r.addr c) 8 bad fun u b =>
      let h : Word := BitVec.ofNat 64 (leNat b)
      if descType h == 0xFFFF then u.ringReady g orig r bad k fuel (c + recordSize (descLen h)) else k u true

/-- An event node tested (R310): an acquire at package scope. DESIGN CHOICE (assumption log 94): one whose ring's block is
malformed goes on waiting. -/
def State.testEvent (s orig : State) (t : Tent) (i : Instance) (node : Nat) (x : NodeState) : State :=
  let s1 := s.inName t.agent fun u => u.acquired 3
  let a := i.arg (x.field 9 1)
  let done (u : State) : State := u.setPhase i.num node fun y => { y with phase := .done }
  let failed (u : State) : State := u.failInst orig i.num node 8
  if x.field 8 1 = 1 then
    s1.readK t.agent orig a 8 failed fun u b => if leNat b = 0 then u else done u
  else s1.ringK t.agent orig a failed fun u loc =>
    let r := (u.enter t.agent).rcbAt loc
    if r.bad then u else u.ringReady t.agent orig r failed (fun v ready => if ready then done v else v) 3 r.head

/-- A mailbox-send node tried (R310, R244): MSEND with the tent's identity. -/
def State.trySend (s orig : State) (t : Tent) (i : Instance) (node : Nat) (x : NodeState) : State :=
  let len := x.field 0x0C 4
  let ty := BitVec.ofNat 16 (x.field 0x10 2)
  let desc := recordHeader len ty (BitVec.ofNat 8 (x.field 0x12 1)) 0
  let failed (c : Nat) (u : State) : State := u.failInst orig i.num node c
  s.ringK t.agent orig (i.arg (x.field 8 1)) (failed 8) fun s loc =>
    let u := s.enter t.agent
    let r := u.rcbAt loc
    if r.bad || !u.insideRing r || !r.mbx || BitVec.ofNat 8 t.tid != r.ptid || r.refuses desc then failed 11 s
    else if r.full (r.roomAt r.resv len) then s
    else s.readK t.agent orig (i.arg (x.field 9 1)) len (failed 8) fun v payload =>
      let w := v.enter t.agent
      let q := w.hwEnqueue loc (w.headerOf desc) payload
      match q.2 with
      | 0 =>
        let y := q.1
        let z := if r.uin then
          y.setDev { y.dev with notices := y.dev.notices ++ [(y.keyOf loc, payload.take 16384)] } else y
        z.leave.setPhase i.num node fun m => { m with phase := .done }
      | 5 => failed 8 v
      | 7 => orig
      | _ => v

/-- A waiting event or mailbox-send node tested (R310). -/
def State.testNode (s orig : State) (inst node : Nat) : State :=
  match s.dev.instance_ inst with
  | none => s
  | some i => match i.node? node, s.dev.tentOf i with
    | some x, some t =>
      if x.phase != .waiting || i.code != 0 then s
      else if x.field 0 1 = 5 then s.testEvent orig t i node x
      else if x.field 0 1 = 6 then s.trySend orig t i node x
      else s
    | _, _ => s

/-- Every waiting node of a tent tested at a kick (R310, R391); a test that has to wait leaves the kick of the queue pending. -/
def State.retest (s : State) (tid q : Nat) : State :=
  let ps := (s.dev.instances.filter fun i => i.tid == tid).flatMap fun i =>
    ((upto i.nodes.length).filter fun n => ((i.node? n).map (·.phase)) == some NodePhase.waiting).map fun n => (i.num, n)
  ps.foldl (fun u p => u.testNode (u.setDev (u.dev.kick tid q)) p.1 p.2) s

/-! ### Kernel nodes -/

/-- The positions of a grid with its stages, as units (R32, R380): the whole task when it is co-resident, else one stage
group for each position. -/
def unitSheaves (cor : Bool) (gx gy gz stages : Nat) : List (List (Nat × Nat × Nat × Nat)) :=
  let group (x y z : Nat) : List (Nat × Nat × Nat × Nat) := (upto stages).map fun g => (x, y, z, g)
  let all := (upto gz).flatMap fun z => (upto gy).flatMap fun y => (upto gx).map fun x => group x y z
  if cor then [all.flatten] else all

/-- A task made from a kernel node, with its argument block mapped read-only (R20, R21, R28, R308). -/
def State.newTask (s : State) (t : Tent) (inst node : Nat) (x : NodeState) (o : CodeObj) (args : List Word) (pri : Nat)
    (dies : List Nat) (spec : Option Nat) : State × Task :=
  let num := s.dev.serial
  let words := x.taskArgs args
  let u := (s.setDev { s.dev with serial := num + 1 }).enter t.agent
  let b := u.mapNew 1 attrReadOnly (.task num) false (words.flatMap bytes8)
  let g := x.grid args
  let k : Task :=
    { num := num, inst := inst, node := node, tid := t.tid, sys := false, obj := o.base, gx := g.1, gy := g.2.1, gz := g.2.2
      strands := attrScnt o.attr, stages := attrNstg o.attr, cor := x.field 1 1 == 1, pri := pri, spec := spec, args := words
      argBlock := b.2, total := g.1 * g.2.1 * g.2.2 * attrNstg o.attr, ended := 0, failed := false, dies := dies }
  let v := b.1.leave
  (v.setDev { v.dev with tasks := v.dev.tasks ++ [k] }, k)

/-- The units of a task. -/
def Task.units (k : Task) : List DispUnit :=
  let gs := unitSheaves k.cor k.gx k.gy k.gz k.stages
  ((upto gs.length).zip gs).map fun g =>
    { task := k.num, sheaves := g.2, level := k.pri, stamp := g.1, popmark := 0, bank := 0, saved := false, clus := 0 }

/-- Scheduler firmware's launch of a system task: one sheaf of each stage of the system object at `obj`, in the system
context at a level, on a die (R331, R332; assumption log 79). -/
def State.launchSystem (s : State) (die : Nat) (obj : Word) (args : List Word) (level : Nat) : State :=
  match s.dev.objects.find? fun o => o.asid == 0 && o.base == obj && o.sys with
  | none => s
  | some o =>
    if !s.dev.starting || 8 ≤ die || 11 < level then s
    else
      let num := s.dev.serial
      let b := ((s.setDev { s.dev with serial := num + 1 }).enter (Agent.system die)).mapNew 1 attrReadOnly (.task num) false
        (args.flatMap bytes8)
      let k : Task :=
        { num := num, inst := num, node := 0, tid := 0, sys := true, obj := obj, gx := 1, gy := 1, gz := 1
          strands := attrScnt o.attr, stages := attrNstg o.attr, cor := false, pri := level, spec := none, args := args
          argBlock := b.2, total := attrNstg o.attr, ended := 0, failed := false, dies := [die] }
      let v := b.1.leave
      k.units.foldl (fun u x => u.setDev (u.dev.enqueue die x)) (v.setDev { v.dev with tasks := v.dev.tasks ++ [k] }).drew

/-- A kernel node started: its task's units go to the ready structures of the dies the graph may use, which share the
home dispatcher leaves open (R29, R379, assumption log 3); under a replay they wait for their RUN entries (R395). -/
def State.startKernel (s orig : State) (t : Tent) (i : Instance) (node : Nat) (x : NodeState) : State :=
  match s.dev.kernelOf t x with
  | none => s.failInst orig i.num node 7
  | some o =>
    let r := s.newTask t i.num node x o i.args (cappedPri t i.header x) i.dies none
    let s1 := r.1.setPhase i.num node fun y => { y with phase := .running }
    let us := r.2.units
    match s1.dev.instance_ i.num with
    | none => s1
    | some j => match s1.dev.traceOf j, j.replay with
      | some _, some p => (s1.setReplay j { p with pending := p.pending ++ us }).runLanes i.num
      | _, _ =>
        let n := i.dies.length
        let first := Config.freeIndex s1.fresh
        (us.foldl (fun u k => u.setDev (u.dev.enqueue (i.dies.getD ((first + k.stamp) % n) 0) k)) s1).drew

/-- Whether a node can start now (R308). -/
def Device.canStart (d : Device) (i : Instance) (node : Nat) (x : NodeState) : Bool :=
  d.starting && i.code == 0 && !i.claiming && x.phase == .idle && i.entered node && i.ready node &&
    (match x.field 0 1 with
     | 1 => d.replayLets i node 3
     | 2 | 3 | 4 => d.replayLets i node 6
     | _ => match i.replay with
       | some r => !r.stopping
       | none => true)

/-- The effect of a node's start by its kind (R308 to R310). -/
def State.startNode (s orig : State) (t : Tent) (i : Instance) (node : Nat) (x : NodeState) : State :=
  match x.field 0 1 with
  | 0 => s.startKernel orig t i node x
  | 1 => s.copyNode orig t i node x
  | 3 =>
    let y := { x with phase := .running, passes := 0, range := (0, 0) }
    let j := i.setNode node y
    (s.setInst j).loopStep orig t j node y
  | 2 | 4 => (s.setPhase i.num node fun y => { y with phase := .running }).choose orig t i node x
  | _ => (s.setPhase i.num node fun y => { y with phase := .waiting }).testNode orig i.num node

/-- Guards checked by reading their words again (R321): a recording takes the checks down; then `k`, the replay or the
recording failed where one differs or cannot be read. -/
def State.checkGuards (s orig : State) (t : Tent) (i : Instance) (gs : List (Nat × Word)) (k : State → State) : State :=
  let failed (u : State) : State :=
    k (match i.replay with
       | some r => u.setReplay i (r.fail i.lead)
       | none => u)
  s.readWords orig t.agent failed (fun u vals =>
      if vals == gs.map (·.2) then
        k (gs.foldl (fun v g => v.record i.num i.lead (traceEntry 6 0 g.1 0 0 0 0 g.2)) u)
      else failed u)
    (gs.map fun g => i.arg ((i.guards.getD g.1 (0, 0)).1))

/-- The guards of an instance under replay or recording that satisfy `p`, with their recorded values. -/
def Instance.guardsWith (i : Instance) (p : Nat × Nat → Bool) : List (Nat × Word) :=
  match i.replay with
  | none => []
  | some r =>
    if !(r.recording || r.replaying) || r.failed then []
    else (((upto i.guards.length).zip i.guards).zip r.guards).filterMap fun g => if p g.1.2 then some (g.1.1, g.2) else none

/-- A node started whose guards stand, the first of its instance with STATE 1 (R307, R308). -/
def State.begin (s orig : State) (t : Tent) (inst node : Nat) (x : NodeState) : State :=
  match s.dev.instance_ inst with
  | none => s
  | some i =>
    let srv := s.dev.server i.tid
    let s1 := (s.setDev (s.dev.journal srv.1 srv.2 2 i.tid i.num [node])).boundary t.agent
    if i.replay.any fun r => r.stopping then s
    else if i.state = 0 then
      let j := { i with state := 1 }
      (s1.setInst j).status orig j fun u => u.startNode orig t j node x
    else s1.startNode orig t i node x

/-- R308 to R310: NODESTART: the guards that hold from a node's start are checked first (R303, R308). -/
def execNodestart (inst node : Nat) (s : State) : Res :=
  match s.dev.instance_ inst with
  | none => .next s
  | some i => match i.node? node, s.dev.tentOf i with
    | some x, some t =>
      if !s.dev.canStart i node x || !s.boundaryClear t.agent then .next s
      else .next (s.checkGuards s t i (i.guardsWith fun g => g.2 == node) fun u => u.begin s t inst node x)
    | _, _ => .next s

/-- R309: LOOP_PASS: the previous pass of a loop has ended, and its word is read again. -/
def execLoopPass (inst node : Nat) (s : State) : Res :=
  match s.dev.instance_ inst with
  | none => .next s
  | some i => match i.node? node, s.dev.tentOf i with
    | some x, some t =>
      if x.field 0 1 = 3 && x.phase == .running && s.dev.starting && s.boundaryClear t.agent && i.code == 0 && x.range.2 != 0 && i.levelEnded (some x.range) &&
          (x.field 0x0C 4 ≤ x.passes || s.dev.replayLets i node 6) then
        .next ((s.boundary t.agent).loopStep s t i node x)
      else .next s
    | _, _ => .next s

/-- Whether a launch queue of a tent has been kicked and not yet served (R304, R391). -/
def Device.kicked (d : Device) (tid : Nat) : Bool := (d.die (d.server tid).1).kicks.any fun b => b / 8 == tid

/-- R310: EVENT_NODE_TEST: a waiting event or mailbox-send node is tested at a kick of its tent. -/
def execEventNodeTest (inst node : Nat) (s : State) : Res :=
  if s.dev.reading && (s.dev.instance_ inst).any fun i => s.dev.kicked i.tid then .next (s.testNode s inst node) else .next s

/-! ### The end of a node -/

/-- The task of a kernel node. -/
def Device.taskOf (d : Device) (inst node : Nat) : Option Task :=
  d.tasks.find? fun t => t.inst == inst && t.node == node && t.spec.isNone

/-- Whether a node's end is due (R302, R31): its task's sheaves have ended and their completions are processed (R382), its
selected range has ended, or it is done. -/
def Device.nodeDue (d : Device) (i : Instance) (node : Nat) (x : NodeState) : Bool :=
  match x.field 0 1 with
  | 0 => x.phase == .running && match d.taskOf i.num node with
    | some t =>
      let srv := d.server i.tid
      t.ended == t.total && !(((d.die srv.1).slot srv.2).fifo.contains t.num)
    | none => false
  | 2 | 4 => x.phase == .done || (x.phase == .running && x.range.2 != 0 && i.levelEnded (some x.range))
  | _ => x.phase == .done

/-- The guards that a node's end checks: those whose FROM node has started (R321). -/
def Instance.liveGuards (i : Instance) : List (Nat × Word) :=
  i.guardsWith fun g => ((i.node? g.2).map (·.phase)).getD .idle != NodePhase.idle

/-- REPLAY_CHECK (R321, R395): every live guard read again at a node's end; then `k`. -/
def State.guardCheck (s orig : State) (t : Tent) (i : Instance) (k : State → State) : State :=
  s.checkGuards orig t i i.liveGuards k

/-- The SIGNAL that announces a node's end to the gang and the WAITs for it, in a recording (R394, R395). -/
def State.recordEnd (s : State) (i : Instance) (node : Nat) : State :=
  let sem := match i.replay with
    | some r => (r.entries.filter fun e => teField e.2 0 4 = 4).length % 256
    | none => 0
  let s1 := s.record i.num i.lead (traceEntry 4 0 node 0 sem 0 0 0)
  (i.dies.drop 1).foldl (fun u die => u.record i.num die (traceEntry 5 0 node 0 sem 1 0 0)) s1

/-- The end of a node (R31, R302): the task boundary's accesses performed, the checks of replay made, its task forgotten,
and the instance ended when this was its last (R307). -/
def State.endNode (s orig : State) (t : Tent) (i : Instance) (node : Nat) : State :=
  let srv := s.dev.server i.tid
  let s1 := (s.setDev (s.dev.journal srv.1 srv.2 5 i.tid i.num [node])).boundary t.agent
  s1.guardCheck orig t i fun u =>
    let u1 := match u.dev.instance_ i.num with
      | some j => u.recordEnd j node
      | none => u
    let v := u1.setPhase i.num node fun y => { y with phase := .ended }
    let w := match v.dev.taskOf i.num node with
      | some k => v.setDev (v.dev.dropTask k.num)
      | none => v
    (w.runLanes i.num).tryEnd orig i.num

/-- R302, R31: NODEEND. -/
def execNodeend (inst node : Nat) (s : State) : Res :=
  match s.dev.instance_ inst with
  | none => .next s
  | some i => match i.node? node, s.dev.tentOf i with
    | some x, some t =>
      if s.dev.reading && s.dev.nodeDue i node x && s.boundaryClear t.agent then .next (s.endNode s t i node) else .next s
    | _, _ => .next s

/-- R382: COMPLETE: the oldest completion of a slot's FIFO is processed. -/
def execComplete (die slot : Nat) (s : State) : Res :=
  let x := s.dev.die die
  let v := x.slot slot
  match v.fifo with
  | [] => .next s
  | n :: rest =>
    if !s.dev.reading || 8 ≤ die then .next s
    else
      let t := s.dev.task n
      let d := s.dev.setDie die (x.setSlot slot { v with fifo := rest })
      let e := d.journal die slot 4 ((t.map (·.tid)).getD 0) ((t.map (·.inst)).getD 0) [n]
      .next (s.setDev (if t.any fun k => k.sys && k.ended == k.total then e.dropTask n else e))

/-- A list in a snapshot: its length, then its items. -/
def listWords {α : Type} (xs : List α) (f : α → List Nat) : List Nat := xs.length :: xs.flatMap f

/-- A unit in a snapshot. -/
def DispUnit.words (u : DispUnit) : List Nat :=
  [u.task, u.level, u.stamp, u.popmark, u.bank, if u.saved then 1 else 0, u.clus] ++
    listWords u.sheaves fun p => [p.1, p.2.1, p.2.2.1, p.2.2.2]

/-- A launch record in a snapshot. -/
def LaunchRec.words (r : LaunchRec) : List Nat :=
  wordsLe 2 r.desc.toNat ++ wordsLe 16 r.header.toNat ++ wordsLe 2 r.handle.toNat ++ listWords r.args fun a => wordsLe 2 a.toNat

/-- The number of a node's phase in a snapshot. -/
def NodePhase.num : NodePhase → Nat
  | .idle => 0
  | .waiting => 1
  | .running => 2
  | .done => 3
  | .ended => 4

/-- A node in a snapshot. -/
def NodeState.words (x : NodeState) : List Nat := wordsLe 16 x.record.toNat ++ [x.phase.num, x.passes, x.range.1, x.range.2]

/-- What replay holds of an instance in a snapshot; the trace is named by its key. -/
def ReplayState.words (r : ReplayState) : List Nat :=
  let flag (b : Bool) : Nat := if b then 1 else 0
  wordsLe 4 r.hash.toNat ++ [flag r.trace.isSome, flag r.recording, flag r.replaying, flag r.stopping, flag r.failed] ++
    listWords r.guards (fun g => wordsLe 2 g.toNat) ++ listWords r.entries (fun e => e.1 :: wordsLe 4 e.2.toNat) ++
    listWords r.places (fun p => [p.1, p.2]) ++ listWords r.sems (fun p => [p.1.1, p.1.2, p.2]) ++ listWords r.stopped (fun n => [n]) ++
    listWords r.pending DispUnit.words

/-- One instance in a snapshot. -/
def Instance.words (i : Instance) : List Nat :=
  [i.num, i.tid, i.queue] ++ wordsLe 2 i.handle.toNat ++
    [i.state.toNat, i.code.toNat, i.node.toNat, if i.loopcap then 1 else 0, i.rin.toNat, if i.claiming then 1 else 0] ++
    wordsLe 16 i.header.toNat ++ listWords i.edges (fun e => [e.1, e.2]) ++ listWords i.guards (fun g => [g.1, g.2]) ++
    listWords i.nodes NodeState.words ++ listWords i.args (fun a => wordsLe 2 a.toNat) ++ listWords i.rings (wordsLe 2) ++
    listWords i.replay.toList ReplayState.words

/-- The whole state of a slot as the 4-byte words its snapshot holds: the last kick served, the completions, the units it holds,
and the queue, instance and node state of its tents (R381, R384). -/
def Device.slotWords (d : Device) (die slot : Nat) : List Nat :=
  let v := (d.die die).slot slot
  let mine (tid : Nat) : Bool := d.server tid == (die, slot % 2)
  [v.lastKick] ++ listWords v.fifo (fun n => [n]) ++ listWords v.held DispUnit.words ++
    listWords (d.tents.filter fun t => mine t.tid) (fun t => t.tid :: listWords t.devq LaunchRec.words) ++
    listWords (d.instances.filter fun i => mine i.tid) Instance.words

/-- R381: SNAP: past half full, the slot's whole state is written as a run of SNAP records, each with its place in the run and
the run's length, and what is older is freed. -/
def execSnap (die slot : Nat) (s : State) : Res :=
  let x := s.dev.die die
  let v := x.slot slot
  if v.journal.length * 2 < journalCap || 8 ≤ die || s.dev.failed then .next s
  else
    let ws := s.dev.slotWords die slot
    let n := (ws.length + 8) / 9
    let d := s.dev.setDie die (x.setSlot slot { v with journal := [] })
    .next (s.setDev ((upto n).foldl (fun e k => e.journal die slot 8 0 0 ([k, n] ++ (ws.drop (9 * k)).take 9)) d))

/-! ### Launch queues -/

/-- The pending-kick bit a slot serves next: ascending from the bit after the last one served, with wrap (R391). -/
def Die.nextKick (x : Die) (slot : Nat) : Option Nat :=
  let mine := x.kicks.filter fun b => b / 8 % 2 == slot % 2
  ((mine.filter fun b => (x.slot slot).lastKick < b).min?).or mine.min?

/-- The device launch queue's records accepted in order (R304, R306, R207). -/
def State.acceptDevice (s orig : State) (tid : Nat) (k : State → State) : List LaunchRec → State
  | [] => k s
  | r :: rs => match s.dev.tent tid with
    | none => k s
    | some t => s.accept orig t 0 r.desc r.handle r.header r.args fun u => u.acceptDevice orig tid k rs

/-- A launch record of a launch ring: the header and the argument words read, then accepted (R306). -/
def State.acceptRing (s orig : State) (t : Tent) (q : Nat) (desc args : Word) (k : State → State) : State :=
  s.readK t.agent orig desc 64 k fun u hb =>
    let header : BitVec 512 := BitVec.ofNat 512 (leNat hb)
    let n := hdrField header 0x0D 1 + 1
    let go (v : State) (ws : List Word) : State :=
      let h := v.freshHandle (v.dev.liveHandles t.tid)
      v.drew.accept orig t q desc h header ws k
    if args = 0 then go u (List.replicate n 0)
    else u.readK t.agent orig args (8 * n) k fun v b => go v (wordsOf n b)

/-- A launch ring read until it is empty (R304, R391): every record read is removed, and those of another TYPE or LEN
are discarded. -/
def State.readRing (s orig : State) (tid q key : Nat) (k : State → State) : Nat → State
  | 0 => k s
  | fuel + 1 =>
    let r := s.rcbAt (.phys key)
    match s.dev.tent tid with
    | none => k s
    | some t =>
      if r.bad || r.tail ≤ r.head then k s
      else
        let put (u : State) (head : Nat) : State := u.setRcb (.phys key) { u.rcbAt (.phys key) with head := head }
        s.readK t.agent orig (r.addr r.head) 8 (fun u => k (put u r.tail)) fun u hb =>
          let h : Word := BitVec.ofNat 64 (leNat hb)
          let v := put u (r.head + recordSize (descLen h))
          let next (w : State) : State := w.readRing orig tid q key k fuel
          if descType h == 1 && descLen h == 16 then
            v.readK t.agent orig (r.addr r.head + 8) 16 next fun w b =>
              w.acceptRing orig t q (BitVec.ofNat 64 (recNat b 0 8)) (BitVec.ofNat 64 (recNat b 8 8)) next
          else next v

/-- R391: KICKCLR: one pending-kick bit of the slot's tents is cleared, its queue is read until it is empty, and the
tent's waiting nodes are tested again (R310). -/
def execKickclr (die slot : Nat) (s : State) : Res :=
  let x := s.dev.die die
  match x.nextKick slot with
  | none => .next s
  | some b =>
    if !s.dev.reading || 8 ≤ die then .next s
    else
      let tid := b / 8
      let q := b % 8
      let v := x.slot slot
      let y := ({ x with kicks := x.kicks.filter fun c => c != b }).setSlot slot { v with lastKick := b }
      let s1 := s.setDev ((s.dev.setDie die y).journal die slot 7 tid 0 [b])
      match s1.dev.tent tid with
      | none => .next s1
      | some t =>
        let s2 := s1.inName t.agent fun u => u.acquired 3
        let finish (u : State) : State := u.retest tid q
        if q = 0 then
          .next ((s2.setDev (s2.dev.setTent { t with devq := [] })).acceptDevice s tid finish t.devq)
        else match (t.rings.find? fun r => r.1 == q) with
          | none => .next (finish s2)
          | some r =>
            let c := s2.rcbAt (.phys r.2.toNat)
            .next (s2.readRing s tid q r.2.toNat finish ((c.tail - c.head) / 8 + 1))

/-! ### The launch doorbell -/

/-- The doorbell copy of an external master (R305). -/
def bellOf : Master → Option Nat
  | .firmware => none
  | .host0 => some 0
  | .host4 => some 1
  | .mgmt => some 2

/-- Whether a master is frozen (R441, Table 20-4). -/
def Manage.frozen (m : Manage) (x : Master) : Bool :=
  match bellOf x with
  | some b => m.frz.getLsbD b
  | none => false

/-- A doorbell after reset (Table 12-9). -/
def Doorbell.blank : Doorbell := { desc := 0, args := 0, busy := false, st := 0, ask := 0 }

/-- A doorbell of a die changed. -/
def State.setBell (s : State) (die b : Nat) (f : Doorbell → Doorbell) : State :=
  let x := s.dev.die die
  s.setDev (s.dev.setDie die { x with bells := x.bells.setIfInBounds b (f (vget x.bells b Doorbell.blank)) })

/-- The ring status of a publication through a doorbell, with the machine after it, or 7 where it must wait (R305): the block
at the handle the queue was registered under, and then the record, are checked under the tent's translation. -/
def State.ringBell (s : State) (die : Nat) (bell : Doorbell) : State × Nat :=
  let tid := bell.ask.toNat % 256
  let q := bell.ask.toNat / 256
  let found := if q = 0 then none else (s.dev.tent tid).bind fun t => (t.handles.find? fun r => r.1 == q).map fun r => (t, r.2)
  match found with
  | none => (s, 4)
  | some (t, h) =>
    let u := s.enter { t.agent with die := die }
    match u.check .atomic 64 true h 64 with
    | .ok (p :: _) =>
      let r := u.hwEnqueue p.hit.loc (recordHeader 16 1 0 (BitVec.ofNat 8 tid)) (bytes8 bell.desc ++ bytes8 bell.args)
      (r.1.leave, r.2)
    | .wait => (s, 7)
    | _ => (s, 5)

/-- A publication under way through a doorbell made, with its status in ST; while it must wait, or a seal or a rollback
holds stores, BUSY stays 1 (R305, R414). -/
def State.tryBell (s : State) (die b : Nat) : State :=
  let bell := vget (s.dev.die die).bells b Doorbell.blank
  if !bell.busy || !s.dev.storing then s
  else
    let r := s.ringBell die bell
    if r.2 = 7 then s else r.1.setBell die b fun x => { x with busy := false, st := BitVec.ofNat 3 r.2 }

/-- A write of HLCTL by an external master that is not frozen (R305): with GO = 1, while BUSY is 0, one launch record is
published. -/
def State.goBell (s : State) (m : Master) (die : Nat) (w : Word) : State :=
  match bellOf m with
  | none => s
  | some b =>
    if s.dev.man.frozen m || !w.getLsbD 11 || (vget (s.dev.die die).bells b Doorbell.blank).busy || 8 ≤ die then s
    else (s.setBell die b fun x => { x with busy := true, ask := w.extractLsb' 0 11 }).tryBell die b

/-- R305: HLCTL_GO. -/
def execHlctlGo (m : Master) (die : Nat) (w : Word) (s : State) : Res := .next (s.goBell m die w)

/-! ### A dispatcher's failure -/

/-- A take-over by the standby (R384): the slot's taken units return to their banks with their stamps, its completions and
the die's kick bitmap are held, and the standby serves the slot from what the journal's two copies commit. -/
def Die.takeOver (x : Die) (slot : Nat) (good : JournalRec → Bool) : Die :=
  let v := x.slot slot
  let w := x.win
  ({ x with ready := x.ready ++ v.held
            win := { w with sb := v.core, sbv := false, tko := if w.tko = 0xFFFF then w.tko else w.tko + 1 } }).setSlot slot
    { v.rebuilt good with held := [], core := w.sb }

/-- R384, R385: DISPATCHER_FAILURE: an uncorrectable error halts the core of an active dispatcher. Without a standby it is
an error of the domain, which rolls back, and the remaining core serves both slots; the last core's failure ends in FAIL,
and so does one that finds both copies of a journal record in error (R420). -/
def execDispatcherFailure (die slot : Nat) (s : State) : Res :=
  let x := s.dev.die die
  if 8 ≤ die || s.dev.failed then .next s
  else if s.dev.lost then .next s.enterFail
  else if x.win.sbv then .next (s.setDev (s.dev.setDie die (x.takeOver slot (s.dev.committedRec die slot))))
  else if x.slot0.core == x.slot1.core then .next s.enterFail
  else
    let t := s.rollback [] []
    let y := t.dev.die die
    let failed := (y.slot slot).core
    let rest := (y.slot (slot + 1)).core
    let z := y.setSlot slot { y.slot slot with core := rest }
    .next (t.setDev (t.dev.setDie die { z with win := { z.win with sb := failed } }))

end Sys2Proof.Machine
end

