-- ==== Sys2Proof/Machine/Boot.lean ====
section
/-!
DEFINITION. Signed images and their keys (20 R434, R435), the device identity (R437), the keys of the rack-ring links (R439) and
the steps of the boot cores (R436).
-/
namespace Sys2Proof.Machine

/-! ### Signed images -/

/-- The header of an image and its payload (R434). -/
def imageHeader (image : List Byte) : List Byte := image.take 256
/-- The payload, as many bytes as LEN says. -/
def imagePayload (image : List Byte) : List Byte := (image.drop 256).take (recNat image 0x10 8)
/-- GEN of an image (Table 20-1). -/
def imageGen (image : List Byte) : Nat := recNat image 8 4
/-- DIGEST of an image. -/
def imageDigest (image : List Byte) : List Byte := (image.drop 0x20).take 64

/-- The root key: the one whose SHAKE256 digest the boot ROM holds (R435). -/
def rootKeys : List (List Byte) := [Config.rootKey].filter fun k => shakeLanes 8 k == Config.rootKeyDigest

/-- The keys that may sign an image of a KIND (R435): the root key the manifest; the root key or the manifest's firmware keys the
firmware and the expansion tables; the manifest's code keys a Thirok object. -/
def signers (kind : Nat) : List (List Byte) :=
  match kind with
  | 1 | 2 => rootKeys ++ Config.firmwareKeys (imagePayload (Config.bootImage 3))
  | 3 => rootKeys
  | 4 => Config.codeKeys (imagePayload (Config.bootImage 3))
  | _ => []

/-- KEYID of a public key (Table 20-1). -/
def keyId (key : List Byte) : List Byte := (shake256 key).take 8

/-- A signed image of a KIND is valid (R434): MAGIC, KIND, VER, PART and the reserved bytes as Table 20-1 has them, LEN bytes of
payload, DIGEST over header and payload, and SIG over DIGEST made by the key that KEYID names, one that may sign this KIND
(R435). -/
def imageValid (kind : Nat) (header payload : List Byte) : Bool :=
  recNat header 0 4 == 0x47534B4F && recNat header 4 2 == kind && recNat header 6 2 == 1 && recNat header 0xC 4 == 0x940 &&
    recNat header 0x10 8 == payload.length && header.length == 256 && ((header.drop 0xD2).take 46).all (· == 0) &&
    imageDigest header == shakeLanes 8 (header.take 0x20 ++ payload) &&
    (signers kind).any fun k =>
      keyId k == (header.drop 0x18).take 8 && Config.ed448Verifies k (imageDigest header) ((header.drop 0x60).take 114)

/-- Whether the image of a KIND in the boot store is valid. -/
def bootImageValid (kind : Nat) : Bool := imageValid kind (imageHeader (Config.bootImage kind)) (imagePayload (Config.bootImage kind))

/-- Whether a tent may load a Thirok object (R435): a signed one, which opens with the header of R434, when its signature
verifies; an unsigned one when the tent's UNSIGNED attribute is 1. -/
def Tent.mayLoad (t : Tent) (object : List Byte) : Bool :=
  if recNat object 0 4 = 0x47534B4F && recNat object 4 2 = 4 then imageValid 4 (imageHeader object) (imagePayload object) else t.unsigned

/-! ### Identity and link keys -/

/-- The device public key (R437), 57 bytes. -/
def devicePublicKey : List Byte := (Config.ed448Public Config.deviceSeed).take 57

/-- The device ID: the first 16 bytes of SHAKE256 of the device public key (R437). -/
def deviceId : BitVec 128 := BitVec.ofNat 128 (leNat ((shake256 devicePublicKey).take 16))

/-- The shared secret of one agreement on a link (R439): X448 of the key derived from the device key and the other end's. -/
def linkSecret (link agreement : Nat) : List Byte :=
  Config.x448Shared (Config.x448Private Config.deviceSeed link agreement) (Config.x448Peer link agreement)

/-- What SHAKE256 derives from a shared secret for a slot: 32 bytes of key, then 4 of salt. DESIGN CHOICE (assumption log 102):
the slot's number follows the secret as one byte. -/
def slotSecret (link slot agreement : Nat) : List Byte := shakeLanes 5 (linkSecret link agreement ++ natLe 1 slot)

/-- The key of a slot of a link (R439). -/
def linkKey (link slot agreement : Nat) : BitVec 256 := BitVec.ofNat 256 (leNat ((slotSecret link slot agreement).take 32))
/-- The salt of a slot of a link (R439). -/
def linkSalt (link slot agreement : Nat) : BitVec 32 := BitVec.ofNat 32 (leNat (((slotSecret link slot agreement).drop 32).take 4))

/-- A rack-ring link as bring-up leaves it (R439, R377): keys and salts in both slots, every counter 0, slot 0 in use. -/
def Link.fresh (n draw : Nat) : Link :=
  { keys := #v[linkKey n 0 draw, linkKey n 1 draw], salts := #v[linkSalt n 0 draw, linkSalt n 1 draw]
    installed := #v[true, true], ctr := Vector.replicate 2 0, txSlot := 0, nextSeq := 0, retry := [], inFlight := []
    rxNext := 0, rxSlot := 0, fails := 0, discarding := false, rotate := false, up := true }

/-! ### The boot steps -/

/-- REASON of a failed boot step (Table 20-2). -/
def bootReasonOf (step : Nat) : BitVec 4 :=
  match step with
  | 1 => 1
  | 2 => 2
  | 3 => 3
  | 4 => 1
  | 5 => 1
  | 6 => 4
  | _ => 5

/-- Whether a boot step succeeds on a die (Table 20-2): the hardware's part, and the check of the image that steps 1, 4 and 5
read. -/
def bootStepOk (die step : Nat) : Bool :=
  Config.bootStepPasses die step && match step with
    | 1 => bootImageValid 3
    | 4 => bootImageValid 1
    | 5 => bootImageValid 2
    | _ => true

/-- The bases and sizes of a die's carve-outs, as the manifest sets them (R13, R386, R425). -/
def Window.carve (w : Window) (die : Nat) : Window :=
  { w with
    jrnl := Config.manifestJournalA die &&& 0x000FFFFFFFFF0000, jrnlb := Config.manifestJournalB die &&& 0x000FFFFFFFFF0000
    ckbase := Config.manifestCheckpoint die &&& 0x000FFFFFFFFF0000, ckSize := Config.manifestCheckpointMiB die
    undoCap := Config.manifestUndoCap die % 2 ^ 32, silo := Config.manifestSiloMiB die, biv := Config.manifestBivouacMiB die
    undoBase := (Config.manifestUndo die).toNat, siloBase := (Config.manifestSilo die).toNat
    bivBase := (Config.manifestBivouac die).toNat }

/-- What a boot step leaves in a die's window: step 3 the yield map, the carve-outs and the thermal thresholds, step 5 the boot
table's GEN and DIGEST. -/
def Window.booted (die : Nat) (w : Window) (step : Nat) : Window :=
  let v := { w with bootStep := BitVec.ofNat 3 step }
  match step with
  | 3 => { v.carve die with warn := Config.thermWarn die, crit := Config.thermCrit die, yieldMap := Config.yieldMap die }
  | 5 => { v with xtGen := BitVec.ofNat 32 (imageGen (Config.bootImage 2))
                  xtDigest := BitVec.ofNat 512 (leNat (imageDigest (Config.bootImage 2))) }
  | _ => v

/-- The boot core of a die runs its steps in order until one fails (R436). -/
def bootWindow (die : Nat) (w : Window) : List Nat → Window
  | [] => w
  | n :: ns => if bootStepOk die n then bootWindow die (w.booted die n) ns else { w with bootReason := bootReasonOf n }

/-- The boot cores of all dies take their steps (R436): where a die passes step 6 its carve-outs are zeroed; once every die has,
RIN is 0, every tag 0xFF and PKG set; and once all have completed step 7, the directions and the links of the rack ring are set
(R365, R439) and dispatch is open. IDENT is what step 2 derives (R437). -/
def State.boot (s : State) : State :=
  let d := s.dev
  let dies := d.dies.mapIdx fun i x => { x with win := bootWindow i x.win [1, 2, 3, 4, 5, 6, 7] }
  let past (n : Nat) : Bool := dies.toList.all fun x => n ≤ x.win.bootStep.toNat
  let e := { d with dies := dies, pkg := Config.packageNumber }
  let zeroed (c : Host.Cell) : Bool :=
    e.carved (c.1 / 64) && 6 ≤ (e.die (linePeer (c.1 / 64) % 8)).win.bootStep.toNat
  let linked := past 7 && 1 < Config.domainPackages.length
  State.drew (s.setDev { e with
    mem := d.mem.filter fun c => !zeroed c
    pkg := if past 6 then e.pkg else d.pkg
    rin := if past 6 then 0 else d.rin
    tags := if past 6 then [] else d.tags
    baseTag := if past 6 then 0xFF else d.baseTag
    routes := if linked then Config.domainPackages.map fun p => (p, Config.rackRoute p) else d.routes
    links := if linked then [Link.fresh 0 s.fresh, Link.fresh 1 s.fresh] else d.links
    man := { d.man with ident := deviceId, isOpen := past 7 } })

end Sys2Proof.Machine
end

