-- ==== Sys2Proof/Machine/Traps.lean ====
section
/-!
DEFINITION. The ends of strands (02 R22), the hang record's capture (03 R74, 15 R336), the delivery of fault records and
the supervisor's answers (15 R338, R339), saving and restoring images through cfg.ctxop (R348, R349), the decode
expansion table (R351), and CFGW (08 R200).
-/
namespace Sys2Proof.Machine

/-- R170: what does not decode, or may not stand where it does, raises an illegal encoding precisely. -/
def execIllegalEncoding (s : State) : Res := .next s.raiseIllegal

/-! ### The end of a strand -/

/-- Whether the current strand's end is due (R22). -/
def State.endDue (s : State) : Bool :=
  let k := s.cur
  let hasEnded (x : Stream) : Bool := x.run == .ended
  k.resident && !k.frozen && !k.ended && !k.parked && k.spillReady && hasEnded k.ctl && hasEnded k.acc && hasEnded k.exe && k.cards.isEmpty &&
    k.qstreams.isEmpty && k.ld = 0 && k.st = 0 && k.deferred.isEmpty

/-- R22: the strand ends: what its queues and tiles hold is discarded; the last strand of a sheaf ends the sheaf, and the
cores that become free go to held units (R25, R31, R34, R390). A sheaf whose completion finds its FIFO full keeps its
cores until an entry is free (R382). -/
def execStrandEnd (s : State) : Res :=
  if !s.endDue then .next s
  else match s.dev.sheaf s.cur.id.die.toNat s.cur.id.stag.toNat with
    | none => .next (s.setCur s.cur.vacate)
    | some h =>
      let last := h.endedStrands + 1 = h.cores.length
      if last && ((s.cur.spec.isNone && !s.dev.fifoRoom s.cur.id.tid.toNat) || s.eosHeldUp h) then .next s
      else
        let k := { s.cur with
          ended := true, queues := Vector.replicate 13 Queue.none, glean := [], gleanOcc := 0, gleanHead := 0
          tiles := s.cur.tiles.map fun t => { t with st := .empty } }
        let h1 := { h with endedStrands := h.endedStrands + 1 }
        let s1 := (s.setCur k).setDev { s.dev with
          sheaves := s.dev.sheaves.map fun x => if x.die == h.die && x.stag == h.stag then h1 else x }
        if last then
          let s2 := s1.sheafEnd h1
          .next ((s2.handOut s h.die (s.cur.id.tid.toNat % 2)).getD s2)
        else .next s1

/-! ### The hang record -/

/-- The stream whose stall has reached the time-out (R74), the first in the order C, A, X. -/
def State.hangDue (s : State) : Option StreamId :=
  if !s.cur.resident || s.cur.frozen then none
  else [StreamId.c, .a, .x].find? fun t =>
    let x := s.cur.stream t
    x.run == .running && x.stall != 0 && 2 ^ s.myDie.win.hangto.toNat ≤ x.stallCycles

/-- The address of the core's block in the hang-record area (R336). -/
def State.hangBlock (s : State) : Word :=
  s.myDie.win.hangbuf + BitVec.ofNat 64 (4096 * (s.cur.id.coreNum.toNat % 64))

/-- R74, R336: HANG_CAPTURE: the record is written, the strand freezes with its jobs held, the hang trap is raised, and
the lantern source fires (R442). A speculative run is discarded instead (R404). -/
def execHangCapture (s : State) : Res :=
  match s.hangDue with
  | none => .next s
  | some t =>
    let s1 := s.unlessSpec (
      let at_ := s.hangBlock
      let trap (u : State) : State :=
        let r := u.faultRec 0x09 t.num false 0 (s.cur.stream t).iaddr 0 at_
        ((u.setCur { u.cur with hung := true }).freeze r).lantern 1
      s.writeK (Agent.system s.cur.id.die.toNat) s at_ s.hangRecord (fun u _ => trap u) trap)
    .next s1

/-! ### Fault records -/

/-- The record the die publishes next: one that waits in the die, else the next of the current strand (R338, R424). -/
def State.nextRecord (s : State) : Option FaultRec :=
  match s.myDie.trapWait with
  | r :: _ => some r
  | [] => if s.cur.resident && s.cur.frozen then s.cur.faults[s.cur.published]? else none

/-- The record published leaves its place. -/
def State.tookRecord (s : State) : State :=
  match s.myDie.trapWait with
  | _ :: rs => s.setMyDie { s.myDie with trapWait := rs }
  | [] => s.setCur { s.cur with published := s.cur.published + 1 }

/-- The end of a rollback that waited at REDISPATCH for the record of its poison, once the die that holds it has tried to
publish it (R424, R428). -/
def State.redispatched (s : State) : State :=
  if s.myDie.rph = 6 then s.setMyDie { s.myDie with rph := 0 } else s

/-- R338: FAULT_RECORD_PUBLISH: a WENQ of the hardware's own identity into the trap ring, TYPE 0xFFF0; while the ring is
full or cfg.traprcb is 0 the record waits, and so it does while no store may be performed (R415). A record that waits for
REDISPATCH is tried before the rollback ends and its work starts (R424, R428). -/
def execFaultRecordPublish (s : State) : Res :=
  match s.nextRecord with
  | none => .next s
  | some r =>
    let h := s.myDie.win.traprcb
    if !s.dev.publishing then .next s
    else if h = 0 then .next s.redispatched
    else
      let u := s.enter (Agent.system s.cur.id.die.toNat)
      match u.ringAt h with
      | none => .next s.redispatched
      | some loc =>
        let w := u.hwEnqueue loc (recordHeader 64 0xFFF0 0 0) r.bytes
        if w.2 = 0 then .next w.1.leave.tookRecord.redispatched else .next s.redispatched

/-! ### The supervisor's answers -/

/-- A strand on some core changed where it is; `p` names it. -/
def State.mapStrand (s : State) (p : Strand → Bool) (f : Strand → Strand) : State :=
  if p s.cur then { s with cur := f s.cur } else { s with others := updFirst p f s.others }

/-- RETURN FROM AN EXCEPTION: a frozen strand resumes (R339): every recorded instruction executes again but a breakpoint,
which is passed (R204); records not yet published wait in the die, and after a hang the stalls are counted afresh. -/
def State.resumeStrand (s : State) (k : Strand) : State :=
  let die := k.id.die.toNat
  let is (o : Strand) : Bool := o.resident && o.id.coreNum == k.id.coreNum
  let s1 := s.keepRecords is
  let fresh (o : Strand) : Strand := if o.hung then { o with ctl := o.ctl.calm, acc := o.acc.calm, exe := o.exe.calm } else o
  match k.badQueue with
  | some off =>
    let r := { s with cur := k }.faultRec 0x01 6 false 0 0 0 (BitVec.ofNat 64 off)
    let x := s.dev.die die
    s.setDev (s.dev.setDie die { x with trapWait := x.trapWait ++ [r] })
  | none =>
    if k.spillReady then s1.mapStrand is fun o => (fresh o).resumeAll
    else
      let q := s1.commitSpill { k with frozen := false, faults := [], published := 0 }
      q.1.mapStrand is fun _ => q.2

/-- The frozen strand of a tag and index on the current die (R339). -/
def State.frozenOf (s : State) (stag : BitVec 16) (six : BitVec 3) : Option Strand :=
  (s.cur :: s.others).find? fun k => k.resident && k.frozen && k.named s.cur.id.die.toNat stag.toNat six.toNat

/-- Whether a fault of the strand came from a job, so that RESUME acts as END (R339). -/
def Strand.jobFault (k : Strand) : Bool := k.faults.any fun r => 3 ≤ r.src.toNat && r.src.toNat ≤ 5

/-- cfg.sresume with ACT 00: RESUME (R339). -/
def State.sresume (s : State) (stag : BitVec 16) (six : BitVec 3) : State :=
  match s.frozenOf stag six with
  | none => s
  | some k => if k.jobFault then s.endTask s k.id.task else s.resumeStrand k

/-- cfg.sresume with ACT 01: END (R339). -/
def State.sresumeEnd (s : State) (stag : BitVec 16) (six : BitVec 3) : State :=
  match s.frozenOf stag six with
  | none => s
  | some k => s.endTask s k.id.task

/-- R339: RESUME written to cfg.sresume of the current core's die. -/
def execSresumeResume (stag : BitVec 16) (six : BitVec 3) (s : State) : Res := .next (s.sresume stag six)
/-- R339: END written to cfg.sresume. -/
def execSresumeEnd (stag : BitVec 16) (six : BitVec 3) (s : State) : Res := .next (s.sresumeEnd stag six)

/-! ### Context images -/

/-- The strand of a core, or none. -/
def State.onCore (s : State) (core : Nat) : Option Strand :=
  (s.cur :: s.others).find? fun k => k.resident && k.id.coreNum.toNat == core

/-- cfg.ctxop ST of a core. -/
def State.setCtx (s : State) (core : Nat) (st : BitVec 2) : State :=
  let is (k : Strand) : Bool := k.id.coreNum.toNat == core
  if is s.cur || s.others.any is then s.mapStrand is fun k => { k with ctxSt := st }
  else { s with others := s.others ++ [{ Strand.blank with ctxSt := st, id := { Ident.blank with
          pkg := s.dev.pkg, die := BitVec.ofNat 3 (core / 64), clus := BitVec.ofNat 3 (core / 8), core := BitVec.ofNat 3 core } }] }

/-- The address a write of cfg.ctxop or cfg.xtctl names: bits [55:6]. -/
def addr64 (w : Word) : Word := w &&& 0x00FFFFFFFFFFFFC0

/-- A whole image written in the system context, unit by unit, then `k` with its parts in memory (R346, R348). DESIGN CHOICE
(assumption log 95): where it cannot be written the save has failed. -/
def State.writeImage (s orig : State) (die : Nat) (at_ : Word) (m : Memory) (bad : State)
    (k : State → List (Nat × Nat × Nat) → State) : State :=
  let t := s.enter (Agent.system die)
  match t.check .store 1 false at_ imageSize with
  | .fault _ _ => bad
  | .wait => orig
  | .ok ps => match t.commitAll at_ 1 ps with
    | .fault _ _ _ _ => bad
    | .full => orig
    | .done u =>
      if u.logStall ps || !u.clearToGo ps then orig
      else k (ps.foldl (fun (v : State) p => (v.evictDirect [p]).storePart at_ p (m.bytes p.start p.len)) u).leave
        (ps.map fun p => (p.start, p.hit.key, p.len))

/-- A unit brought to a stop for its strands to be saved one by one (R43, R344): those on cores stand parked, and the unit
is queued for the scheduler to start it (R348). -/
def State.parkUnit (s : State) (u : Option (Task × List Sheaf)) : State :=
  match u with
  | none => s
  | some (t, hs) =>
    let park (k : Strand) : Strand :=
      if k.resident && hs.any (fun h => k.id.die.toNat == h.die && k.id.stag == h.stag) then { k with parked := true } else k
    { s with cur := park s.cur, others := s.others.map park, dev := s.dev.queueSaved t hs }

/-- The strands that must have reached step 5 before one of them is saved: those of its unit (R344). -/
def State.savedWith (s : State) (k : Strand) : List Strand :=
  match s.dev.task k.id.task, s.dev.sheaf k.id.die.toNat k.id.stag.toNat with
  | some t, some h => k :: (s.dev.unitOf t h).flatMap s.strandsOf
  | _, _ => [k]

/-- A save on the core of a strand that has reached step 5 of Table 15-13 (R348): the image is written and the core is
free; the scheduler keeps what an image does not hold (assumption log 65). The rest of the unit stands still from the
first save on. DESIGN CHOICE (assumption log 95): a save on a core whose strand has not reached step 5, or that holds none, is
ignored. -/
def State.ctxSave (s : State) (core : Nat) (w : Word) : State :=
  match s.onCore core with
  | none => s
  | some k =>
    if !(s.savedWith k).all s.savable || k.spec.isSome then s
    else
      let q := (s.withdrawOf k).dropSealw k
      let k1 := q.2.stopped
      let is (o : Strand) : Bool := o.resident && o.id.coreNum == k.id.coreNum
      q.1.writeImage s (core / 64) (addr64 w) (q.1.imageOf k1) (s.setCtx core 3) fun u ps =>
        (((u.setDev { u.dev with images := u.dev.images ++ [{ k1 with imageAt := ps }] }).vacateIf is).parkUnit (s.unitOfStrand k)).setCtx core 2

/-- The identity a restore gives a strand: the scheduler's own, or what the header holds (R346, R348). -/
def State.restoreId (s : State) (core : Nat) (m : Memory) : Ident :=
  let stag := BitVec.ofNat 16 (m.nat 0x18 2)
  let six := BitVec.ofNat 3 (m.nat 0x1A 1)
  let place (i : Ident) : Ident :=
    { i with pkg := s.dev.pkg, die := BitVec.ofNat 3 (core / 64), clus := BitVec.ofNat 3 (core / 8), core := BitVec.ofNat 3 core }
  match s.dev.images.find? fun k => k.id.stag == stag && k.id.six == six && k.id.die.toNat == core / 64 with
  | some k => place k.id
  | none => place { Ident.blank with stag := stag, six := six, scntM1 := BitVec.ofNat 3 (m.nat 0x1B 1), sys := (m.get 6).getLsbD 1 }

/-- The image at an address of the system context. DESIGN CHOICE (assumption log 95): one that cannot be read fails the restore
without a record. -/
def State.readImage (s orig : State) (die : Nat) (at_ : Word) (bad : State) (k : State → Memory → State) : State :=
  s.readK (Agent.system die) orig at_ imageSize (fun _ => bad) fun u bs => k u (listed 0 bs)

/-- The scheduler's own record of a saved strand (assumption log 65). -/
def Device.recordOf (d : Device) (i : Ident) : Option Strand :=
  d.images.find? fun o => o.id.stag == i.stag && o.id.six == i.six && o.id.die == i.die

/-- Whether the strands of an identity's sheaf that stand on cores leave it no core but one of another cluster (R43), or
one of them is that strand itself. -/
def State.misplaced (s : State) (i : Ident) : Bool :=
  (s.cur :: s.others).any fun k => k.resident && k.id.die == i.die && k.id.stag == i.stag && (k.id.clus != i.clus || k.id.six == i.six)

/-- A restore on a core that holds no strand (R348, R349): the whole image is checked first; a failed restore sets ST to 11
and publishes a record with SRC 6, and changes no state of the core. The strand is parked until the scheduler starts it.
Firmware restores the strands of a sheaf onto one cluster (R43): a write that would not is ignored (assumption log 68), and so
is one on a core that holds a strand (DESIGN CHOICE, assumption log 95) or hosts a persistent region (R412). -/
def State.ctxRestore (s : State) (core : Nat) (w : Word) : State :=
  if (s.onCore core).isSome || s.dev.isHost core then s
  else s.readImage s (core / 64) (addr64 w) (s.setCtx core 3) fun u m =>
    match imageFault m with
    | some (c, aux) =>
      let die := core / 64
      let i := u.restoreId core m
      let r := { u with cur := { Strand.blank with id := i } }.faultRec c 6 false 0 0 0 (BitVec.ofNat 64 aux)
      let x := u.dev.die die
      (u.setDev (u.dev.setDie die { x with trapWait := x.trapWait ++ [r] })).setCtx core 3
    | none =>
      let i := u.restoreId core m
      let k := { u with cur := { Strand.blank with id := i } }.strandOf m (u.dev.recordOf i)
      let d := { u.dev with images := u.dev.images.filter fun o => !(o.id.stag == i.stag && o.id.six == i.six && o.id.die == i.die) }
      if u.misplaced i then s else ((u.setDev d).putStrand k).setCtx core 2

/-- R348: a write of cfg.ctxop with OP 0 on a core: save. -/
def execContextSave (core : Nat) (w : Word) (s : State) : Res := .next (s.ctxSave core w)
/-- R348, R349: a write of cfg.ctxop with OP 1 on a core: restore. -/
def execContextRestore (core : Nat) (w : Word) (s : State) : Res := .next (s.ctxRestore core w)

/-! ### The decode expansion table -/

/-- A load of an expansion table (R351): accepted when it is valid, for this part, and not older than the one in force. DESIGN
CHOICE (assumption log 96): the four bytes of the image's GEN are compared whole, of which cfg.xtctl shows the low 8 bits,
and a table that cannot be read is refused. -/
def State.loadTable (s : State) (die : Nat) (w : Word) : State :=
  let g := Agent.system die
  let set (u : State) (st : BitVec 2) (gen : BitVec 32) (dig : BitVec 512) : State :=
    let x := u.dev.die die
    u.setDev (u.dev.setDie die { x with win := { x.win with xtSt := st, xtGen := gen, xtDigest := dig } })
  let old := (s.dev.die die).win.xtGen
  let digest := (s.dev.die die).win.xtDigest
  if (s.dev.die die).win.xtSt = 1 || 8 ≤ die then s
  else
    let at_ := addr64 w
    s.readK g s at_ 256 (fun u => set u 3 old digest) fun u header =>
      u.readK g s (at_ + 256) (recNat header 0x10 8) (fun v => set v 3 old digest) fun v payload =>
        let gen := recNat header 8 4
        if imageValid 2 header payload && old.toNat ≤ gen then
          set v 2 (BitVec.ofNat 32 gen) (BitVec.ofNat 512 (recNat header 0x20 64)) else set v 3 old digest

/-- R351: a write of cfg.xtctl ADDR. -/
def execExpansionTableLoad (die : Nat) (w : Word) (s : State) : Res := .next (s.loadTable die w)

/-- R351: a core switches to the table in force at a boundary; nothing a strand observes changes. -/
def execExpansionTableSwitch (core : Nat) (s : State) : Res :=
  let gen := (s.dev.die (core / 64)).win.xtGen
  .next (s.mapStrand (fun k => k.id.coreNum.toNat == core) fun k => { k with table := gen })

/-! ### CFGW -/

/-- A register of a die's window changed. -/
def State.setWin (s : State) (die : Nat) (f : Window → Window) : State :=
  let x := s.dev.die die
  s.setDev (s.dev.setDie die { x with win := f x.win })

/-- The control block of a die's trap ring is a persistent region (R411): the one that the new handle names, in a granary, in
place of the old one's. -/
def State.keepTrapRing (s : State) (die : Nat) (h : Word) : State :=
  let d := { s.dev with persistPages := s.dev.persistPages.filter fun r => r.2.2 != 256 + die }
  match ((s.enter (Agent.system die)).ringAt h).bind Loc.physKey? with
  | some key => s.setDev (d.keepRegion key (256 + die))
  | none => s.setDev d

/-- A write of a die-held system register (Table 15-2): cfg.hangto, cfg.traprcb, cfg.hangbuf, cfg.sresume, cfg.xtctl,
cfg.migthr. -/
def State.writeDieReg (s : State) (die n : Nat) (w : Word) : State :=
  match n with
  | 1 =>
    let e := w.extractLsb' 0 5
    if 16 ≤ e.toNat then s.setWin die fun x => { x with hangto := e } else s
  | 2 => (s.setWin die fun x => { x with traprcb := w }).keepTrapRing die w
  | 3 => s.setWin die fun x => { x with hangbuf := w &&& ~~~0xFFF }
  | 4 =>
    let g := s.enter { die := die, tid := 0, asid := 0, sys := true }
    match (w.extractLsb' 20 2).toNat with
    | 0 => (g.sresume (w.extractLsb' 0 16) (w.extractLsb' 16 3)).leave
    | 1 => (g.sresumeEnd (w.extractLsb' 0 16) (w.extractLsb' 16 3)).leave
    | _ => s
  | 6 => s.loadTable die w
  | 7 => s.setWin die fun x => { x with migthr := w.extractLsb' 0 16 }
  | _ => s

/-- A write of cfg.ctxop of a core (Table 15-6); one while ST is busy is ignored. -/
def State.writeCtxop (s : State) (core : Nat) (w : Word) : State :=
  if (s.cur :: s.others).any fun k => k.id.coreNum.toNat == core && k.ctxSt == 1 then s
  else if w.getLsbD 2 then s.ctxRestore core w else s.ctxSave core w

/-- A strand's writable register (R200, R202; Tables 3-12, 5-5, 5-9, 15-3); every other field ignores the write. -/
def Strand.writeCfg (k : Strand) (r : BitVec 14) (w : Word) : Strand :=
  match r.toNat with
  | 0x20 => { k with ui := { k.ui with ovf := k.ui.ovf && !w.getLsbD 10, srcs := k.ui.srcs &&& ~~~w.extractLsb' 11 3 } }
  | 0x21 => { k with ui := { k.ui with vec := w &&& 0x00FFFFFFFFFFFFFE } }
  | 0x28 => { k with fflags := w.extractLsb' 0 5 }
  | 0x29 => if (w.extractLsb' 0 8).toNat ≤ 1 then { k with nbv := w.extractLsb' 0 8 } else k
  | 0x2000 => { k with srt := w.getLsbD 0 }
  | _ => k

/-- The effect of a CFGW on everything but the program counter. -/
def State.writeCfg (s : State) (r : BitVec 14) (w : Word) : State :=
  if 0x2000 < r.toNat then
    if r.toNat = 0x2005 then s.writeCtxop s.cur.id.coreNum.toNat w else s.writeDieReg s.cur.id.die.toNat (r.toNat - 0x2000) w
  else s.setCur (s.cur.writeCfg r w)

/-- R200: CFGW, from the control stream; a system register in user mode is a privilege fault. The instruction completes
before a write that resumes, ends or saves strands takes effect. -/
def execCfgw (a : Reg) (r : BitVec 14) (s : State) : Res :=
  s.only .c (.next (
    if isSystemReg r && !s.cur.id.sys then s.raise 0x02 0 0 0
    else (s.complete 4).writeCfg r (s.rd a)))

end Sys2Proof.Machine
end

