-- ==== Sys2Proof/Machine/Manage.lean ====
section
/-!
DEFINITION. The outside of the package (20): boot (R436, R437), ownership of the die control windows and their plain
registers (R440, R441), attestation (R438), the lantern sources a window or a pin fires (R442), the host ports (R443),
heat (R444), and the errors that rings, scrubbers and injection report (R370, R409, R420, R432).
-/
namespace Sys2Proof.Machine

/-! ### Ownership -/

/-- The number of an external master in OWNER, 0 for scheduler firmware, which owns no window (Table 20-4). -/
def masterNum : Master → BitVec 2
  | .firmware => 0
  | .host0 => 1
  | .host4 => 2
  | .mgmt => 3

/-- The package-wide management state replaced. -/
def State.setMan (s : State) (m : Manage) : State := s.setDev { s.dev with man := m }

/-- The bit of FRZ of a master: bit m - 1 (Table 20-4). -/
def frzBit (m : BitVec 2) : BitVec 3 := if m = 0 then 0 else 1#3 <<< (m.toNat - 1)

/-- A window write of a master (R440, R441): firmware and the owner write; a frozen master's write is discarded; any other
master's write is not performed and freezes it. -/
def State.window (s : State) (m : Master) (k : State) : State :=
  let man := s.dev.man
  if masterNum m = 0 then k
  else if man.frozen m then s
  else if man.owner = masterNum m then k
  else s.setMan { man with frz := man.frz ||| frzBit (masterNum m) }

/-- A claim of the windows; one while some master owns them is ignored (R441). -/
def State.claimWindows (s : State) (m : Master) : State :=
  let man := s.dev.man
  if masterNum m = 0 || man.frozen m || man.owner != 0 then s
  else (s.setMan { man with owner := masterNum m }).msix 3

/-- R441: OWNCTL_CLAIM. -/
def execOwnctlClaim (m : Master) (s : State) : Res := .next (s.claimWindows m)

/-- A release of the windows: OWNER takes the successor, whose FRZ bit is cleared (R441); a changed OWNER raises vector 3
(R443). -/
def State.releaseWindows (s : State) (m : Master) (succ : BitVec 2) : State :=
  let man := s.dev.man
  if masterNum m = 0 then s
  else s.window m (
    let t := s.setMan { man with owner := succ, frz := man.frz &&& ~~~frzBit succ }
    if man.owner = succ then t else t.msix 3)

/-- R441: OWNCTL_RELEASE. -/
def execOwnctlRelease (m : Master) (succ : BitVec 2) (s : State) : Res := .next (s.releaseWindows m succ)

/-- Whether a byte of `Device.mem` lies outside the package: host memory behind a host port (Table 16-1), and memory of another
package of the domain. -/
def Device.outside (d : Device) (c : Host.Cell) : Bool :=
  physRegion (c.1 / 2 ^ 52) (c.1 % 2 ^ 52) 1 == some .host || !d.owns (linePeer (c.1 / 64))

/-- The machine after a package reset (R441): every die reboots from step 1 out of the state right after reset. What lies outside
the package stays, with the record of its lines, and so do the vectors raised so far and the moves still to come. -/
def State.packageReset (s : State) : State :=
  let d := s.dev
  let far (l : Nat) : Bool := !d.owns (linePeer l)
  State.boot { State.reset with
    agenda := s.agenda, fresh := s.fresh
    dev := { State.reset.dev with
      mem := d.mem.filter d.outside, poison := d.poison.filter far, restored := d.restored.filter far, away := d.away
      man := { State.reset.dev.man with msix := d.man.msix ++ [3] } } }

/-- The package reset that only the owner may write (R441). -/
def State.resetPackage (s : State) (m : Master) : State := if masterNum m = 0 then s else s.window m s.packageReset

/-- R441, R420: PACKAGE_RESET. -/
def execPackageReset (m : Master) (s : State) : Res := .next (s.resetPackage m)

/-- R441: FRZ_THAW: a W1C write to FRZ. -/
def execFrzThaw (m : Master) (bits : BitVec 3) (s : State) : Res :=
  .next (s.window m (s.setMan { s.dev.man with frz := s.dev.man.frz &&& ~~~bits }))

/-! ### Registers of a window -/

/-- A line of stacked DRAM or LPDDR of this package becomes poisoned; it was not restored so, unless it was (R420, R423). -/
def Device.poisonLine (d : Device) (line : Nat) : Device :=
  if d.poison.contains line then d else { d with poison := line :: d.poison, restored := d.restored.filter fun l => !(l == line) }

/-- Whether a line lies in the DRAM of a die of this package. -/
def Device.dramLine (d : Device) (die line : Nat) : Bool :=
  let peer := d.peerOf die
  linePeer line == peer && match physRegion peer (line * 64 % 2 ^ 52) 64 with
    | some .stacked | some .lpddr => true
    | _ => false

/-- ERRINJ written (Table 19-1): PADDR, and GO = 1 poisons the line it names; a write whose PADDR lies outside the DRAM of the
die is ignored (R427). -/
def State.writeErrinj (s : State) (die : Nat) (w : Word) : State :=
  let a := w &&& 0x000FFFFFFFFFFFC0
  let t := s.setWin die fun x => { x with injPaddr := a }
  let line := (physKey (s.dev.peerOf die) a.toNat) / 64
  if !s.dev.dramLine die line then s else if w.getLsbD 0 then t.setDev (t.dev.poisonLine line) else t

/-- A seal requested in RICTL (R413). -/
def State.askSeal (s : State) : State := if s.dev.failed then s else s.setDev s.dev.requestSeal

/-- A rollback requested in RICTL (R420). -/
def State.askRollback (s : State) : State := if s.dev.failed then s else s.rollback [] []

/-- RICTL written (Table 18-4): SBTO, then SREQ, then RBREQ. -/
def State.writeRictl (s : State) (die : Nat) (w : Word) : State :=
  let e := w.extractLsb' 2 5
  let t := if 16 ≤ e.toNat && e.toNat ≤ 23 then s.setWin die fun x => { x with sbto := e } else s
  let u := if w.getLsbD 0 then t.askSeal else t
  if w.getLsbD 1 then u.askRollback else u

/-- Every speculation of a die discarded (R404). -/
def State.flushSpecs (s : State) (die : Nat) : State :=
  ((s.dev.specs.filter fun p => p.die == die).map (·.num)).foldl (fun t n => t.dropSpec n Window.bumpDoth) s

/-- PREDCTL written (Table 17-2). -/
def State.writePredctl (s : State) (die : Nat) (w : Word) : State :=
  let t := s.setWin die fun x => { x with predEn := w.getLsbD 0 }
  if w.getLsbD 1 then t.flushSpecs die else t

/-- XSHOOT written (R361): a shootdown starts over SCOPE; one while BUSY, or of another SCOPE, is ignored. XSVA is taken as
it stands at the write. -/
def State.writeXshoot (s : State) (die : Nat) (w : Word) : State :=
  let x := (s.dev.die die).win
  if x.xsBusy || 1 < (w.extractLsb' 18 2).toNat then s
  else s.setWin die fun y => { y with xsBusy := true, xsOp := (y.xsva <<< 4) ||| (w &&& 0xFFFFF) }

/-! ### Attestation -/

/-- DIGEST and GEN of a boot image in a report. -/
def reportImage (image : List Byte) : List Byte := imageDigest image ++ natLe 4 (imageGen image)

/-- The fields of an attestation report before its signature (R438), one after another; the expansion table is the one in force
on the die whose window was written (R351; assumption log 14). -/
def State.reportFields (s : State) (die : Nat) (nonce : List Byte) : List Byte :=
  let w := (s.dev.die die).win
  nonce ++ devicePublicKey ++ reportImage (Config.bootImage 3) ++ reportImage (Config.bootImage 1) ++
    natLe 64 w.xtDigest.toNat ++ natLe 4 w.xtGen.toNat ++ natLe 4 s.dev.rin.toNat

/-- A request of ATTCTL over, its report written or not. -/
def State.attested (s : State) (done : Bool) : State :=
  s.setMan { s.dev.man with attBusy := false, attDone := done, attReq := none }

/-- The boot core serves a request (R438): it reads the nonce, writes the signed report over the buffer and sets DONE; while no
store may be performed (R415), or the page moves (R364), the request waits. -/
def State.attest (s : State) : State :=
  match s.dev.man.attReq with
  | none => s
  | some (die, w) =>
    if !s.dev.storing then s
    else
      let g := Agent.system die
      s.readK g s (addr64 w) 32 (fun t => t.attested false) fun t nonce =>
        let fields := t.reportFields die nonce
        let report := (fields ++ Config.ed448Sign Config.deviceSeed (shake256 fields)).take 512
        t.writeK g s (addr64 w) report (fun u _ => u.attested false) fun u => u.attested true

/-- ATTCTL written (R438): a request starts, DONE is cleared; a write while BUSY is ignored. -/
def State.writeAttctl (s : State) (die : Nat) (w : Word) : State :=
  if s.dev.man.attBusy then s
  else (s.setMan { s.dev.man with attBusy := true, attDone := false, attReq := some (die, w) }).attest

/-! ### Writes and reads -/

/-- A field of a written word. -/
def wField (w : Word) (lo n : Nat) : Word := (w >>> lo) &&& BitVec.ofNat 64 (2 ^ n - 1)

/-- LANT written (Table 20-6): ARMED and EN are RW, SRC is W1C, and SWTRIG fires the software source after them; the cycle of a
latch before it is over. -/
def State.writeLant (s : State) (w : Word) : State :=
  let m := s.dev.man
  let t := s.setMan
    { m with armed := w.getLsbD 0, en := w.extractLsb' 1 4, src := m.src &&& ~~~w.extractLsb' 6 4, latching := false }
  if w.getLsbD 5 then t.lantern 0 else t

/-- A register of a window written, each field under its access code (R5; Tables 15-2, 16-3, 17-2, 18-4, 19-1, 20-4,
20-6); every field not named here is read-only or absent. -/
def State.writeWindow (s : State) (die off : Nat) (w : Word) : State :=
  if 0x0800 ≤ off && off < 0x0840 then s.writeDieReg die ((off - 0x0800) / 8) w
  else if 0x4000 ≤ off && off < 0x8000 then
    if off % 0x100 = 0x28 then s.writeCtxop (64 * die + (off - 0x4000) / 0x100) w else s
  else match off with
    | 0x0000 => s.setMan { s.dev.man with frz := s.dev.man.frz &&& ~~~w.extractLsb' 2 3 }
    | 0x0028 => s.writeAttctl die w
    | 0x1010 => s.writeXshoot die w
    | 0x1000 => s.setWin die fun x => { x with astbase := w &&& 0x000FFFFFFFFFE000 }
    | 0x1008 => s.setWin die fun x => { x with xsva := w &&& 0x00FFFFFFFFFF0000 }
    | 0x1020 =>
      let e := w.extractLsb' 0 5
      if 16 ≤ e.toNat then s.setWin die fun x => { x with ftimeout := e } else s
    | 0x1028 => s.setWin die fun x => { x with late := x.late &&& ~~~w.extractLsb' 0 32 }
    | 0x1118 => if w.extractLsb' 0 32 = 0 then s else s.setWin die fun x => { x with dgen := w.extractLsb' 0 32 }
    | 0x1120 => s.writePredctl die w
    | 0x1208 => s.writeRictl die w
    | 0x1230 => s.writeErrinj die w
    | 0x1300 => s.writeLant w
    | _ => s

/-- A master's own copy of a doorbell register (R305). -/
def State.writeBell (s : State) (m : Master) (die off : Nat) (w : Word) : State :=
  match bellOf m with
  | none => s
  | some b =>
    if s.dev.man.frozen m then s
    else match off with
      | 0x1500 => s.setBell die b fun x => { x with desc := w }
      | 0x1508 => s.setBell die b fun x => { x with args := w }
      | 0x1510 => s.goBell m die w
      | _ => s

/-- OWNCTL written (Table 20-4): a claim, a release, a package reset. -/
def State.writeOwnctl (s : State) (m : Master) (w : Word) : State :=
  match (w.extractLsb' 0 2).toNat with
  | 0 => s.window m s
  | 1 => s.claimWindows m
  | 2 => s.releaseWindows m (w.extractLsb' 2 2)
  | _ => s.resetPackage m

/-- The address by which a master reaches an offset of a die's window (R440): scheduler cores their own die's in their own
address space, the host ports all eight in BAR 0, the management port all eight by a 32-bit address of the same layout. -/
def windowAddress (m : Master) (die off : Nat) : Nat :=
  match m with
  | .firmware => 0x020000000000 + off
  | .host0 | .host4 | .mgmt => 0x10000 * die + off

/-- The die and the offset that an address names on a master's route, `own` being the die of a scheduler core (R440). -/
def windowRoute (m : Master) (own a : Nat) : Option (Nat × Nat) :=
  match m with
  | .firmware => if 0x020000000000 ≤ a && a < 0x020000010000 && own < 8 then some (own, a - 0x020000000000) else none
  | .host0 | .host4 | .mgmt => if a < 0x80000 then some (a / 0x10000, a % 0x10000) else none

/-- A write of a master at an address on its route (R440, R441); the doorbell is each master's own (R305). -/
def State.busWrite (s : State) (m : Master) (own a : Nat) (w : Word) : State :=
  match windowRoute m own a with
  | none => s
  | some (die, off) =>
    if 0x1500 ≤ off && off < 0x1520 then s.writeBell m die off w
    else if off = 0x0008 then s.writeOwnctl m w
    else s.window m (s.writeWindow die off w)

/-- R5, R440, R441: REGISTER_WRITE: a write at an offset of a die's window, by the master's route. -/
def execRegisterWrite (m : Master) (die : Nat) (off : BitVec 16) (w : Word) (s : State) : Res :=
  .next (s.busWrite m die (windowAddress m die off.toNat) w)

/-- The word a window read of scheduler firmware or of an unfrozen master returns (R440; Tables 12-9, 15-2, 15-6, 16-3,
17-2, 18-4, 19-1, 20-4, 20-6, 20-7). -/
def State.windowWord (s : State) (m : Master) (die off : Nat) : Word :=
  let d := s.dev
  let x := d.die die
  let w := x.win
  let man := d.man
  let bell := (bellOf m).map fun b => vget x.bells b Doorbell.blank
  let flag (b : Bool) (lo : Nat) : Word := fieldAt (BitVec.ofBool b) lo
  let coreWord (core : Nat) (f : Strand → Word) : Word :=
    (((s.cur :: s.others).find? fun k => k.id.coreNum.toNat == 64 * die + core).map f).getD 0
  if 0x4000 ≤ off && off < 0x8000 then
    if off % 0x100 = 0x28 then coreWord ((off - 0x4000) / 0x100) fun k => fieldAt k.ctxSt 0 else 0
  else if 0xC000 ≤ off && off < 0xE000 then
    coreWord ((off - 0xC000) / 0x80) fun k => k.snapshot.getD ((off - 0xC000) % 0x80 / 8) 0
  else match off with
    | 0x0000 => fieldAt man.owner 0 ||| fieldAt man.frz 2
    | 0x0010 => fieldAt w.bootStep 0 ||| fieldAt w.bootReason 3 ||| flag man.isOpen 7
    | 0x0018 => if 2 ≤ w.bootStep.toNat then man.ident.extractLsb' 0 64 else 0
    | 0x0020 => if 2 ≤ w.bootStep.toNat then man.ident.extractLsb' 64 64 else 0
    | 0x0028 => flag man.attBusy 0 ||| flag man.attDone 1
    | 0x0808 => fieldAt w.hangto 0
    | 0x0810 => w.traprcb
    | 0x0818 => w.hangbuf
    | 0x0830 => w.xtctl
    | 0x0838 => fieldAt w.migthr 0
    | 0x1000 => w.astbase
    | 0x1008 => w.xsva
    | 0x1018 => flag w.xsBusy 0 ||| fieldAt w.xsDone 16
    | 0x1020 => fieldAt w.ftimeout 0
    | 0x1028 => fieldAt w.late 0
    | 0x1100 => fieldAt x.slot0.core 0 ||| fieldAt x.slot1.core 2 ||| fieldAt w.sb 4 ||| flag w.sbv 6 ||| fieldAt w.tko 8
    | 0x1108 => fieldAt w.silo 0 ||| fieldAt w.biv 16
    | 0x1110 => w.jrnl
    | 0x1118 => fieldAt w.dgen 0
    | 0x1120 => flag w.predEn 0
    | 0x1128 => fieldAt w.start 0 ||| fieldAt w.claim 16 ||| fieldAt w.drs 32 ||| fieldAt w.dmis 48
    | 0x1130 => fieldAt w.doth 0
    | 0x1138 => w.jrnlb
    | 0x1200 => fieldAt d.rin 0 ||| fieldAt x.sph 32 ||| fieldAt x.rph 35 ||| flag (d.masterDie die) 38
    | 0x1208 => fieldAt w.sbto 2
    | 0x1210 => fieldAt (BitVec.ofNat 32 x.undo.length) 0 ||| fieldAt (BitVec.ofNat 32 w.undoCap) 32
    | 0x1218 => fieldAt (BitVec.ofNat 13 x.egress.length) 0
    | 0x1220 => fieldAt w.seals 0 ||| fieldAt w.rolls 32 ||| fieldAt w.retired 48
    | 0x1228 => w.ckbase ||| fieldAt w.ckSize 0
    | 0x1230 => w.injPaddr
    | 0x1300 => flag man.armed 0 ||| fieldAt man.en 1 ||| fieldAt man.src 6
    | 0x1400 => fieldAt w.temp 0 ||| fieldAt w.warn 8 ||| fieldAt w.crit 16 ||| flag w.thr 24 ||| fieldAt w.pwr 32
    | 0x1500 => (bell.map (·.desc)).getD 0
    | 0x1508 => (bell.map (·.args)).getD 0
    | 0x1518 => (bell.map fun b => flag b.busy 0 ||| fieldAt b.st 1).getD 0
    | _ => 0

/-- A read of a window by a master: all ones for a frozen one (R441). -/
def State.windowRead (s : State) (m : Master) (die off : Nat) : Word :=
  if s.dev.man.frozen m then -1 else s.windowWord m die off

/-- A read of a master at an address on its route (R440). -/
def State.busRead (s : State) (m : Master) (own a : Nat) : Option Word := (windowRoute m own a).map fun p => s.windowRead m p.1 p.2

/-! ### Boot -/

/-- R436, R437, R439: POWER_UP: the boot cores of all dies take their steps; dispatch opens once every die has completed
step 7. A package in boot stays so until it is reset. -/
def execPowerUp (s : State) : Res :=
  .next (if s.dev.dies.toList.any fun x => x.win.bootStep != 0 || x.win.bootReason != 0 then s else s.boot)

/-- R438: ATTCTL: the register of the window of die 0; REGISTER_WRITE reaches those of the other dies. -/
def execAttctl (m : Master) (w : Word) (s : State) : Res := .next (s.window m (s.writeAttctl 0 w))

/-! ### Lantern sources -/

/-- R442: SWTRIG: a write of 1 to SWTRIG of LANT fires the software source. -/
def execSwtrig (m : Master) (s : State) : Res := .next (s.window m (s.lantern 0))

/-- R442: EXTERNAL_PIN. -/
def execExternalPin (s : State) : Res := .next (s.lantern 3)

/-! ### Heat -/

/-- A die's hottest sensor reads a temperature (R444, Table 20-7): above WARN the die throttles, below it throttling ends, and only
timing changes; at CRIT its cores stop and the domain enters FAIL. PWR takes the estimate of that moment, a free value
(assumption log 3). -/
def State.heat (s : State) (die : Nat) (temp : BitVec 8) : State :=
  if 8 ≤ die then s
  else
    let w := (s.dev.die die).win
    let hot : Bool := w.warn.toNat < temp.toNat || (w.thr && w.warn = temp)
    let t := (s.setWin die fun x => { x with temp := temp, thr := hot, pwr := (Config.freeWord s.fresh).setWidth 16 }).drew
    if w.crit.toNat ≤ temp.toNat && !s.dev.failed then t.enterFail else t

/-- R444: THERMAL_WARN. -/
def execThermalWarn (die : Nat) (temp : BitVec 8) (s : State) : Res := .next (s.heat die temp)

/-- R444: THERMAL_CRIT. -/
def execThermalCrit (die : Nat) (temp : BitVec 8) (s : State) : Res := .next (s.heat die temp)

/-- R444: THERMAL_RECOVERY. -/
def execThermalRecovery (die : Nat) (temp : BitVec 8) (s : State) : Res := .next (s.heat die temp)

/-! ### The host ports -/

/-- R443, R408: HOST_WRITE: a write of the host into the LPDDR of the die of a host port, which CXL.mem exposes, is performed and
logged; it waits while the log is full or a seal or a rollback holds it. -/
def execHostWrite (die : Nat) (pa : Word) (bytes : List Byte) (s : State) : Res :=
  let peer := s.dev.peerOf die
  let key := physKey peer pa.toNat
  let mapped := match physRegion peer pa.toNat bytes.length with
    | some .lpddr => die = 0 || die = 4
    | _ => false
  .next (if !mapped || bytes.isEmpty || !s.dev.storing || s.dev.undoLacks (linesOf key bytes.length) then s
         else s.setDev (s.dev.dramWrite key bytes))

/-- R443: HOST_SNOOP: the device keeps no host line, so it answers with a miss and nothing changes. -/
def execHostSnoop (_die : Nat) (_pa : Word) (s : State) : Res := .next s

/-! ### Errors from outside -/

/-- R370, R377, R420: PACKAGE_RING_LINK_DOWN: the link is down and the domain rolls back. -/
def execPackageRingLinkDown (link : Nat) (s : State) : Res :=
  if s.dev.failed then .next s
  else
    let t := s.rollback [] []
    .next (t.setDev { t.dev with links := ((upto t.dev.links.length).zip t.dev.links).map fun p =>
      if p.1 == link then { p.2 with up := false } else p.2 })

/-- R413: SREQ: a write of 1 to SREQ of RICTL. -/
def execSreq (m : Master) (die : Nat) (s : State) : Res :=
  .next (if 8 ≤ die then s else s.window m s.askSeal)

/-- R420: RBREQ: a write of 1 to RBREQ of RICTL starts a rollback. -/
def execRbreq (m : Master) (die : Nat) (s : State) : Res :=
  .next (if 8 ≤ die then s else s.window m s.askRollback)

/-- R427: ERRINJ (Table 19-1). -/
def execErrinj (m : Master) (die : Nat) (w : Word) (s : State) : Res :=
  .next (if 8 ≤ die then s else s.window m (s.writeErrinj die w))

/-- R409: METADATA_SCRUB: a line whose tag lags by 64 or more intervals takes the tag RIN - 1. -/
def execMetadataScrub (die line : Nat) (s : State) : Res :=
  let d := s.dev
  let lag := (d.rin.setWidth 8 - d.tag line).toNat
  .next (if d.dramLine die line && 64 ≤ lag then s.setDev { d with tags := insertKey d.tags line (d.rin.setWidth 8 - 1) } else s)

/-- R420: PATROL_SCRUB: an uncorrectable error found by the patrol scrubber marks the line poisoned. -/
def execPatrolScrub (die line : Nat) (s : State) : Res :=
  .next (if s.dev.dramLine die line then s.setDev (s.dev.poisonLine line) else s)

end Sys2Proof.Machine
end

