-- ==== Sys2Proof/Machine/Predict.lean ====
section
/-!
DEFINITION. Launch prediction (17 R399 to R404): the prediction from a queue's history, the start of a speculation, its
claim and its flush; and what replay's gang sends (R395, R396): signals, stops and the hand-over.
-/
namespace Sys2Proof.Machine

/-! ### The prediction -/

/-- The word a history predicts at one place: the newest plus the one difference all entries agree on (R400). -/
def predictWord (ws : List Word) : Option Word :=
  match ws with
  | a :: b :: rest =>
    let ds := ((a :: b :: rest).zip (b :: rest)).map fun p => p.1 - p.2
    if ds.all fun x => x == a - b then some (a + (a - b)) else none
  | _ => none

/-- A prediction (R400): the newest launch with its predicted words, none without three agreeing entries. -/
def Device.predict (d : Device) (t : Tent) (q : Nat) : Option (HistEntry × CodeObj) :=
  match lookupD [] t.hist q with
  | e :: es =>
    let x := kernelNode e.kernel
    if es.length < 2 || e.kernel = 0 || es.any (fun p => p.kernel != e.kernel || p.args.length != e.args.length) then none
    else match d.kernelOf t x with
      | none => none
      | some o =>
        let word (f : Nat) : Option Word :=
          if dontCare o x f then some (e.args.getD f 0) else predictWord ((e :: es).map fun p => p.args.getD f 0)
        ((upto e.args.length).mapM word).map fun ws => ({ e with args := ws }, o)
  | [] => none

/-- The lines of the write regions of a launch (R400). -/
def writeLines (o : CodeObj) (args : List Word) : Nat :=
  ((footOf o args).drop 4).foldl (fun n r => match r with
    | some (a, l) => n + (linesOf a.toNat l.toNat).length
    | none => n) 0

/-- The bivouac lines a speculation takes. -/
def Device.specLines (d : Device) (p : Speculation) : Nat :=
  match (d.tent p.tid).bind fun t => d.kernelOf t (kernelNode p.kernel) with
  | some o => writeLines o ((kernelNode p.kernel).taskArgs p.args)
  | none => 0

/-- The bivouac lines in use on a die. -/
def Device.bivUsed (d : Device) (die : Nat) : Nat := (d.specs.filter fun p => p.die == die).foldl (fun n p => n + d.specLines p) 0

/-- Speculations of lower levels discarded, the lowest first, until the bivouac of a die has room (R400, R404); none when it
cannot have it. -/
def State.bivRoom (s : State) (die pri need : Nat) : Nat → Option State
  | 0 => none
  | fuel + 1 =>
    if s.dev.bivUsed die + need ≤ (s.dev.die die).win.biv.toNat * 16384 then some s
    else
      let low := s.dev.specs.filter fun p => p.die == die && p.pri < pri
      match (low.map (·.pri)).min? with
      | none => none
      | some m => match low.find? fun p => p.pri == m with
        | none => none
        | some p => (s.dropSpec p.num Window.bumpDoth).bivRoom die pri need fuel

/-- Whether a whole cluster of a die is idle (R400). -/
def State.idleCluster (s : State) (die : Nat) : Bool :=
  (upto 8).any fun c => (upto 8).all fun k => s.coreFree false (64 * die + 8 * c + k)

/-- Whether nothing at the predicted priority or above is ready or held on a die, of any work where the speculation may stand,
and of the queue's own launches everywhere (R400, R433). -/
def Device.calmFor (d : Device) (t : Tent) (q : Nat) (e : HistEntry) (n : Nat) (there : Bool) : Bool :=
  let x := d.die n
  let own (u : DispUnit) : Bool := ((d.task u.task).bind fun k => d.instance_ k.inst).any fun i => i.tid == t.tid && i.queue == q
  (x.ready ++ x.slot0.held ++ x.slot1.held).all fun u => u.level < e.pri || !(there || own u)

/-- The conditions of a start but for the bivouac's room (R400): one start for the prediction of each acceptance. -/
def State.maySpeculate (s : State) (t : Tent) (q die : Nat) (e : HistEntry) (o : CodeObj) : Bool :=
  let x := s.dev.die die
  !e.spent && die < 8 && (die == t.home || e.dies.contains die) && s.dev.starting && x.win.predEn && (s.dev.die t.home).win.predEn &&
    !(s.dev.instances.any fun i => i.tid == t.tid && i.queue == q && (s.dev.traceOf i).isSome) &&
    ((footOf o ((kernelNode e.kernel).taskArgs e.args)).drop 4).any Option.isSome && s.idleCluster die &&
    (upto 8).all (fun n => s.dev.calmFor t q e n (n == die || n == t.home || e.dies.contains n)) &&
    !(s.dev.specs.any fun p => p.tid == t.tid && p.queue == q)

/-- The prediction made after the newest launch of a queue has been started (R400, assumption log 64). -/
def Tent.spend (t : Tent) (q : Nat) : Tent :=
  match lookupD [] t.hist q with
  | e :: es => { t with hist := insertKey t.hist q ({ e with spent := true } :: es) }
  | [] => t

/-- A speculation started on a die (R401): the predicted task, all of it placed at once (assumption log 30). -/
def State.speculate (s : State) (t : Tent) (q die : Nat) (e : HistEntry) (o : CodeObj) : Option State :=
  let x := kernelNode e.kernel
  let num := s.dev.serial
  let p : Speculation :=
    { num := num, tid := t.tid, queue := q, die := die, pri := e.pri, kernel := e.kernel, args := e.args, writes := []
      written := [], units := [], readSet := [], filter := [], stale := false, ended := false }
  let s1 := s.setDev { s.dev with serial := num + 1, specs := s.dev.specs ++ [p]
                                  tents := s.dev.tents.map fun y => if y.tid == t.tid then y.spend q else y }
  let r := s1.newTask t num 0 x o e.args e.pri [die] (some num)
  let u : DispUnit := { task := r.2.num, sheaves := r.2.units.flatMap (·.sheaves), level := e.pri, stamp := 0, popmark := 0
                        bank := 0, saved := false, clus := 0 }
  if u.sheaves.isEmpty then none
  else match r.1.placeUnit die u with
    | .ok v => some (v.setWin die fun w => { w with start := w.start + 1 })
    | _ => none

/-- R399 to R401: SPECULATION_START: the prediction of a launch queue starts on a die, when every condition holds and its
units find idle cores there. -/
def execSpeculationStart (tid : Nat) (q : Nat) (die : Nat) (s : State) : Res :=
  match s.dev.tent tid with
  | none => .next s
  | some t => match s.dev.predict t q with
    | none => .next s
    | some (e, o) =>
      if !s.maySpeculate t q die e o then .next s
      else match s.bivRoom die e.pri (writeLines o ((kernelNode e.kernel).taskArgs e.args)) (s.dev.specs.length + 1) with
        | none => .next s
        | some v => .next ((v.speculate t q die e o).getD s)

/-! ### The claim -/

/-- The units a claim commits (R402): done, a discard, or a wait for a page that moves. -/
def State.claimUnits (s orig : State) (g : Agent) (discard : State) (k : State → State) : List Nat → State
  | [] => k s
  | u :: us =>
    let t := s.enter g
    let ea : Word := BitVec.ofNat 64 (u * 65536)
    match t.check .store 1 false ea 1 with
    | .fault _ _ => discard
    | .wait => orig
    | .ok ps => match t.commitAll ea 1 ps with
      | .fault _ _ _ _ => discard
      | .full => orig
      | .done v => v.leave.claimUnits orig g discard k us

/-- The bivouac's lines committed to memory as stores (R403, R408). -/
def Device.commitLines (d : Device) (p : Speculation) : Device :=
  let lines := (p.written.map fun a => a / 64).eraseDups
  let d1 := lines.foldl (fun e l => (e.logLine l).monitor l) d
  let whole := lines.filter fun l => (p.written.filter fun a => a / 64 == l).eraseDups.length == 64
  { d1 with mem := d1.mem.scatter (p.written.map fun a => (a, p.writes.get a))
            poison := d1.poison.filter fun l => !whole.contains l
            restored := d1.restored.filter fun l => !whole.contains l }

/-- A counter of claims. -/
def Window.bumpClaim (w : Window) : Window := { w with claim := w.claim + 1 }

/-- A claim that passes (R403): the lines committed, the speculation gone, the node ended at a task boundary, and the
status word written once, with STATE 2. -/
def State.claimed (s orig : State) (p : Speculation) (t : Tent) (i : Instance) : State :=
  let s1 := (s.setDev (s.dev.commitLines p)).dropSpec p.num Window.bumpClaim
  let srv := s1.dev.server i.tid
  let j := { i with state := 2, claiming := false }
  let d := (s1.dev.journal srv.1 srv.2 5 i.tid i.num [0]).journal srv.1 srv.2 6 i.tid i.num [2]
  ((s1.setDev d).boundary t.agent).status orig j fun u => u.setDev (u.dev.forget j)

/-- R402 to R404: CLAIM: once the speculation has ended, staleness and the commit are one step; a stale one, or one whose
units would pass LIMIT, is discarded and the launch runs normally. -/
def execClaim (tid q : Nat) (s : State) : Res :=
  match s.dev.specs.find? (fun p => p.tid == tid && p.queue == q), s.dev.tent tid,
      s.dev.instances.find? fun i => i.tid == tid && i.queue == q && i.claiming with
  | some p, some t, some i =>
    if !p.ended || !s.dev.storing || !s.boundaryClear t.agent then .next s
    else if p.stale then .next (s.dropSpec p.num Window.bumpDrs)
    else if s.dev.undoLacks (p.written.map fun a => a / 64) then .next s
    else .next (s.claimUnits s { t.agent with die := p.die } (s.dropSpec p.num Window.bumpDoth) (fun u => u.claimed s p t i) p.units)
  | _, _, _ => .next s

/-- R404: PREDCTL_FLUSH: FLUSH written to PREDCTL discards every speculation of the die. -/
def execPredctlFlush (m : Master) (die : Nat) (s : State) : Res :=
  .next (s.window m (s.flushSpecs die))

/-! ### Replay's gang -/

/-- R395: TRACE_SIGNAL: a signal that some lane has sent reaches a die, whose lane may go on. -/
def execTraceSignal (inst die : Nat) (sem : BitVec 8) (s : State) : Res :=
  match s.dev.instance_ inst with
  | none => .next s
  | some i => match s.dev.traceOf i, i.replay with
    | some t, some r =>
      let n := lookupD 0 r.sems (die, sem.toNat)
      if !s.dev.reading || r.stopping || !i.dies.contains die || t.sent r sem.toNat ≤ n then .next s
      else .next ((s.setReplay i { r with sems := insertKey r.sems (die, sem.toNat) (n + 1) }).runLanes inst)
    | _, _ => .next s

/-- R396: REPLAY_STOP: the stop reaches a die of the gang, which acknowledges it and starts no more work entries. -/
def execReplayStop (inst die : Nat) (s : State) : Res :=
  match s.dev.instance_ inst with
  | none => .next s
  | some i => match i.replay with
    | some r =>
      if r.stopping && i.dies.contains die && !r.stopped.contains die then
        .next (s.setReplay i { r with stopped := die :: r.stopped })
      else .next s
    | none => .next s

/-- Whether a unit of an instance is under way: ready, held, or with a live sheaf. -/
def Device.unitsUnderWay (d : Device) (inst : Nat) : Bool :=
  let ts := (d.tasks.filter fun t => t.inst == inst).map (·.num)
  (d.sheaves.any fun h => ts.contains h.task) ||
    d.dies.toList.any fun x => (x.ready ++ x.slot0.held ++ x.slot1.held).any fun u => ts.contains u.task

/-- R396: REPLAY_HANDOVER: every die has acknowledged and what was started has ended: the dynamic scheduler takes the rest,
the units that waited for RUN entries included. -/
def execReplayHandover (inst : Nat) (s : State) : Res :=
  match s.dev.instance_ inst with
  | none => .next s
  | some i => match i.replay with
    | some r =>
      if !s.dev.starting || !r.stopping || !(i.dies.all r.stopped.contains) || s.dev.unitsUnderWay inst then .next s
      else
        let s1 := (s.setDev (s.dev.useTrace i)).setReplay i { r with replaying := false, stopping := false, pending := [] }
        let n := i.dies.length
        let first := Config.freeIndex s1.fresh
        .next (r.pending.foldl (fun u k => u.setDev (u.dev.enqueue (i.dies.getD ((first + k.stamp) % n) 0) k)) s1).drew
    | none => .next s

end Sys2Proof.Machine
end

