-- ==== Sys2Proof/Machine/Supervisor.lean ====
section
/-!
DEFINITION. What the supervisor asks of scheduler firmware (02 R37 to R40, 07 R183, 12 R304, R316, 17 R379, R405, 18
R412): tents, rings, grants, ceilings and limits; and the delivery of mailbox notifications (12 R317 to R319).
-/
namespace Sys2Proof.Machine

/-! ### Tents -/

/-- A persistent region's granary pages mapped into the current address space: the TV address of its first byte (R412). -/
def State.mapRegion (s : State) (key bytes : Nat) (owner : MapOwner) : State × Word :=
  let units := (key % 65536 + bytes + 65535) / 65536
  let base := s.newPages units
  let m : Mapping := { asid := s.cur.id.asid.toNat, base := base, units := units, key := key / 65536 * 65536, attrs := attrData
                       owner := owner, charged := false }
  ((s.setDev { s.dev with maps := s.dev.maps ++ [m] }).drew, base + BitVec.ofNat 64 (key % 65536))

/-- The regions a `.persist` declaration asks for, allocated and mapped (R412): what the tent is given, or none where a die
has no room. -/
def State.persistAll (s : State) (g : Agent) : List (Nat × Nat) → Option (State × List (Nat × Nat))
  | [] => some (s, [])
  | (die, size) :: rest =>
    match s.allocPersist die ((size + 63) / 64 * 64) g.tid with
    | none => none
    | some (u, key) =>
      let r := (u.enter g).mapRegion key ((size + 63) / 64 * 64) (.tent g.tid)
      match r.1.leave.persistAll g rest with
      | none => none
      | some (v, ps) => some (v, (r.2.toNat, size) :: ps)

/-- Whether a tent's values are ones R37, R38, R183 and R332 allow. -/
def TentSpecOk (t : TentSpec) : Bool :=
  t.tid < 256 && 1 ≤ t.asid && t.asid < 65536 && t.ceiling.toNat ≤ 9 && t.home < 8 &&
    t.persist.all fun p => p.1 < 8 && 64 ≤ p.2 && p.2 ≤ 458752

/-- R183, R379: TENT_CREATION: the supervisor creates a tent from its tent section; it waits while a region has no
granary host. -/
def execTentCreation (t : TentSpec) (s : State) : Res :=
  if !TentSpecOk t || (s.dev.tent t.tid).isSome then .next s
  else
    let k : Tent :=
      { tid := t.tid, asid := t.asid, ceiling := t.ceiling, home := t.home, unsigned := t.unsigned, usedStk := 0, limStk := t.qstk
        usedLp := 0, limLp := t.qlp, devq := [], rings := [], handles := [], mailboxes := [], hist := [], persist := []
        graphRings := t.graphRings }
    let s1 := s.setDev { s.dev with tents := s.dev.tents ++ [k] }
    match s1.persistAll k.agent t.persist with
    | none => .next s
    | some (u, ps) => .next (u.setDev (u.dev.setTent { k with persist := ps }))

/-- R38, R39: CEILING_LOWERING: tasks above the new ceiling are lowered to it from their next dispatch decision; running
strands go on as they are. -/
def execCeilingLowering (tid : Nat) (c : BitVec 4) (s : State) : Res :=
  match s.dev.tent tid with
  | none => .next s
  | some t =>
    if t.ceiling.toNat ≤ c.toNat then .next s
    else
      let d := s.dev.setTent { t with ceiling := c }
      let above := (d.tasks.filter fun k => k.tid == tid && !k.sys && c.toNat < k.pri).map fun k => k.num
      let lowered (x : Die) (u : DispUnit) : DispUnit :=
        if above.contains u.task then { u with level := c.toNat, popmark := levelCount x.pops c.toNat } else u
      let onDie (x : Die) : Die :=
        { x with ready := x.ready.map (lowered x), slot0 := { x.slot0 with held := x.slot0.held.map (lowered x) }
                 slot1 := { x.slot1 with held := x.slot1.held.map (lowered x) } }
      let onInst (i : Instance) : Instance :=
        let cut (u : DispUnit) : DispUnit := if above.contains u.task then { u with level := c.toNat } else u
        { i with replay := i.replay.map fun r => { r with pending := r.pending.map cut } }
      .next (s.setDev { d with
        tasks := d.tasks.map fun k => if above.contains k.num then { k with pri := c.toNat } else k
        dies := d.dies.map onDie
        instances := d.instances.map onInst })

/-- R41, R103: LIMIT_CHANGE: the supervisor changes LIMIT of a class. -/
def execLimitChange (tid : Nat) (cls : BitVec 1) (v : BitVec 32) (s : State) : Res :=
  match s.dev.tent tid with
  | none => .next s
  | some t => .next (s.setDev (s.dev.setTent (if cls = 0 then { t with limStk := v } else { t with limLp := v })))

/-! ### Rings and mailboxes -/

/-- CTL of a registered ring's block (R234, R316). -/
def ringCtl (r : RingSpec) : Nat :=
  r.scope.toNat + if r.mailbox then 2 ^ 3 + (if r.notify = 0 then 0 else 2 ^ 4) + r.producer.toNat * 2 ^ 8 + r.tid % 256 * 2 ^ 16
                  else 0

/-- NTF of a registered ring (R316, R317): KIND 11 with QN for notify=kick, else 0. -/
def ringNtf (r : RingSpec) : Word :=
  if r.mailbox && r.notify = 3 then 3 + BitVec.ofNat 64 (r.notifyQ.toNat * 2 ^ 6) else 0

/-- Whether a registration's values are ones R234, R304 and R316 allow. -/
def ringSpecOk (t : Tent) (r : RingSpec) : Bool :=
  isCap r.cap.toNat && (r.scope.toNat == 3 || r.scope.toNat == 4) && r.buf.toNat % 64 == 0 && r.buf.toNat / 2 ^ 56 == 0 &&
    r.rcb.toNat % 64 == 0 && r.rcb.toNat / 2 ^ 56 == 0 &&
    if r.mailbox then t.mailboxes.length < 64 else 1 ≤ r.q && r.q ≤ 7 && !(t.rings.any fun x => x.1 == r.q)

/-- The place of a control block that firmware has put into a persistent page of a granary host (R411, R412). -/
def State.blockPlace (s : State) (g : Agent) (rcb : Word) : Option Nat :=
  let t := s.enter g
  match t.check .store 64 true rcb 64 with
  | .ok (p :: _) => match p.hit.loc with
    | .phys key => if key % 2 ^ 52 / 2 ^ 40 == 0xFFF && key / 2 ^ 24 % 16 == 1 && key % 2 ^ 24 < 0x70000 then some key else none
    | _ => none
  | _ => none

/-- Whether a mailbox's handle and buffer are mapped into its producer's tent as well (R316); the notification aside, that is
all a producer needs. -/
def State.producerReaches (s : State) (r : RingSpec) : Bool :=
  !r.mailbox || match s.dev.tent r.producer.toNat, s.dev.tent r.tid with
    | some p, some t =>
      (s.blockPlace p.agent r.rcb).isSome && s.blockPlace p.agent r.rcb == s.blockPlace t.agent r.rcb &&
        match (s.enter p.agent).check .store 1 false r.buf r.cap.toNat, (s.enter t.agent).check .store 1 false r.buf r.cap.toNat with
        | .ok ps, .ok qs => ps.map (fun x => x.hit.key) == qs.map fun x => x.hit.key
        | _, _ => false
    | _, _ => false

/-- R304, R316: RING_REGISTRATION: the whole buffer is committed and counted, or the registration fails; then the block is
set up empty and the tent has the ring. -/
def execRingRegistration (r : RingSpec) (s : State) : Res :=
  match s.dev.tent r.tid with
  | none => .next s
  | some t =>
    if !ringSpecOk t r || !s.producerReaches r || !s.dev.storing then .next s
    else match s.blockPlace t.agent r.rcb with
      | none => .next s
      | some key =>
        let u := s.enter t.agent
        match u.check .store 1 false r.buf r.cap.toNat with
        | .ok ps => match u.commitAll r.buf 1 ps with
          | .fault _ _ _ _ => .next s
          | .full => .next s
          | .done v =>
            let w := v.leave
            let rcb := newRcb r.buf r.cap.toNat (ringCtl r) (ownWord s.dev.pkg (key / 2 ^ 52 % 8) 0 0) (ringNtf r)
            let d := ({ w.dev with mem := w.dev.mem.blit key rcb.bytes }).keepRegion key t.tid
            let named (x : Tent) : Tent :=
              if x.tid != t.tid then x
              else if r.mailbox then { x with mailboxes := x.mailboxes ++ [BitVec.ofNat 64 key] }
              else { x with rings := x.rings ++ [(r.q, BitVec.ofNat 64 key)], handles := x.handles ++ [(r.q, r.rcb)] }
            .next (w.setDev { d with tents := d.tents.map named })
        | _ => .next s

/-- Whether a notice is the first of its mailbox: NTF is read in the order of the publications (R319). -/
def Device.firstNotice (d : Device) (k : Nat) (key : Nat) : Bool := !((d.notices.take k).any fun n => n.1 == key)

/-- The armed strand of an NTF word changed, resident or saved, unless it has ended (R318, R319); no strand but one of the
mailbox's consumer tent is reached, whatever a store has left in NTF (R315). PEND of a saved strand rises in its image. -/
def State.notifyStrand (s : State) (tid ntf : Nat) (f : Strand → Strand) : State :=
  let die := ntf / 2 ^ 48 % 8
  let stag := ntf / 2 ^ 16 % 2 ^ 16
  let six := ntf / 2 ^ 32 % 8
  let theirs (k : Strand) : Bool := k.named die stag six && !k.ended && k.id.tid.toNat == tid && !k.id.sys
  let is (k : Strand) : Bool := k.resident && theirs k
  if ntf / 2 ^ 40 % 2 ^ 8 != s.dev.pkg.toNat then s
  else if is s.cur || s.others.any is then s.mapStrand is f
  else match s.dev.images.find? theirs with
    | none => s
    | some k =>
      let t := s.setDev { s.dev with images := updFirst theirs f s.dev.images }
      t.writeSaved die stag six 0x66450 (bytes8 (f k).ui.stat)

/-- The tent whose mailbox a block is (R316). -/
def Device.boxTent (d : Device) (key : Nat) : Option Tent := d.tents.find? fun t => t.mailboxes.contains (BitVec.ofNat 64 key)

/-- R319: MAILBOX_NOTIFY: NTF of a mailbox is read after a publication and its target notified: a strand or a queue of the
tent the mailbox is registered for, and nothing else (R315). -/
def execMailboxNotify (k : Nat) (s : State) : Res :=
  match s.dev.notices[k]? with
  | none => .next s
  | some n =>
    if !s.dev.firstNotice k n.1 || !s.dev.storing then .next s
    else
      let t := s.setDev { s.dev with notices := s.dev.notices.eraseIdx k }
      let ntf := (s.rcbAt (.phys n.1)).ntf.toNat
      match s.dev.boxTent n.1 with
      | none => .next t
      | some c => .next (match ntf % 4 with
        | 1 => t.notifyStrand c.tid ntf fun x => { x with ui := x.ui.raise 2 }
        | 2 =>
          let fill : TileFill := { tile := ntf / 4 % 16, bytes := (upto n.2.length).zip n.2 }
          t.notifyStrand c.tid ntf fun x => { x with jobs := { x.jobs with fills := x.jobs.fills ++ [fill] } }
        | 3 => t.setDev (t.dev.kick c.tid (ntf / 2 ^ 6 % 8))
        | _ => t)

/-! ### Grants -/

/-- R149, R405: GRANT_CREATE: an entry of the grant table of the target's die; its generation is the one revocations have
advanced. -/
def execGrantCreate (die idx : Nat) (g : GrantSpec) (s : State) : Res :=
  let x := s.dev.die die
  let old := x.grants.find? fun e => e.idx == idx
  if 8 ≤ die || 4096 ≤ idx || old.any (·.live) || (s.dev.sheaf die g.stag.toNat).isNone then .next s
  else
    let e : Grant := { idx := idx, gen := (old.map (·.gen)).getD 0, live := true, spec := g, rin := s.dev.rin }
    .next (s.setDev (s.dev.setDie die { x with grants := (x.grants.filter fun y => !(y.idx == idx)) ++ [e] }))

/-- R405: GRANT_REVOCATION: the entry's generation advances, so every issued handle fails. -/
def execGrantRevocation (die idx : Nat) (s : State) : Res :=
  let x := s.dev.die die
  .next (s.setDev (s.dev.setDie die { x with grants := x.grants.map fun g =>
    if g.live && g.idx == idx then { g with live := false, gen := g.gen + 1 } else g }))

end Sys2Proof.Machine
end

