-- ==== Sys2Proof/Machine/Seals.lean ====
section
/-!
DEFINITION. The phases of a seal (18 R406 to R419): BARRIER, PREEMPT, FLUSH, VOTE, COMMIT, RELEASE. The master is slot 0
of die 0 (R407); the model takes every die through a phase at once but for the votes (assumption log 31).
-/
namespace Sys2Proof.Machine

/-- The SEALSTEP record of a phase, which the seal master commits (R407, R414). -/
def Device.sealStep (d : Device) (p : Nat) : Device :=
  let x := d.die 0
  d.setDie 0 { x with slot0 := if d.masterPkg then x.slot0.record 9 0 0 [p] else x.slot0 }

/-- Every die at a phase, with the SEALSTEP record that the master commits first (R414): where slot 0 of die 0 of this
package is the master (R407). -/
def Device.sealPhase (d : Device) (p : BitVec 3) : Device :=
  let e := d.sealStep p.toNat
  { e with dies := e.dies.map fun x => { x with sph := p } }

/-- Whether a seal may start here: one is requested, or the master is in another package of the domain and its start
reaches this one (R407, R413). -/
def Device.sealDue (d : Device) : Bool := d.sealReq || !d.masterPkg

/-- Whether every die is at a phase. -/
def Device.allAt (d : Device) (p : BitVec 3) : Bool := d.dies.toList.all fun x => x.sph == p

/-- Whether the domain can go through a seal: booted, not in FAIL, no rollback (R421, R436). -/
def Device.sealable (d : Device) : Bool := d.man.isOpen && !d.failed && d.dies.toList.all fun x => x.rph == 0

/-- The unit of a sheaf saved, when every strand of it has reached step 5 of Table 15-13, or else asked to stop; a SEALW of
it stays in progress (R344, R416). -/
def State.saveSheaf (s : State) (p : Nat × BitVec 16) : State :=
  match s.dev.sheaf p.1 p.2.toNat with
  | none => s
  | some h => match s.dev.task h.task with
    | none => s
    | some t =>
      let hs := s.dev.unitOf t h
      if h.saved || t.spec.isSome then s
      else if (hs.flatMap s.strandsOf).all s.savable then s.saveUnit t hs true
      else s.stopUnit hs

/-- The sheaves that satisfy `p` saved as far as they can be. -/
def State.saveSheaves (s : State) (p : Sheaf → Bool) : State :=
  ((s.dev.sheaves.filter p).map fun h => (h.die, h.stag)).foldl State.saveSheaf s

/-- Whether a sheaf is of the task whose SEALW forces the seal (R416). -/
def Device.forcing (d : Device) (h : Sheaf) : Bool :=
  d.sealw.any fun q => match d.sheaf q.die q.stag with
    | some o => o.task == h.task
    | none => false

/-- R413 to R416: BARRIER: the master starts a requested seal; dispatch stops and speculations are discarded. The sheaves
of a task that waits in a SEALW are pre-empted at once, or as soon as they can be. -/
def execBarrier (s : State) : Res :=
  if !s.dev.sealable then .next s
  else if s.dev.allAt 0 && s.dev.sealDue then
    let t := (s.setDev (s.dev.sealPhase 1)).dropSpecs
    .next (t.saveSheaves t.dev.forcing)
  else if s.dev.allAt 1 then .next (s.saveSheaves s.dev.forcing)
  else .next s

/-- R414: PREEMPT: BARRIER has lasted its limit: every sheaf still running is pre-empted, as soon as it can be. -/
def execPreempt (s : State) : Res :=
  if !s.dev.sealable then .next s
  else if s.dev.allAt 1 then .next ((s.setDev (s.dev.sealPhase 2)).saveSheaves fun _ => true)
  else if s.dev.allAt 2 then .next (s.saveSheaves fun _ => true)
  else .next s

/-- What the checkpoint of a seal holds but for the persistent regions' contents (R411, R421): the scheduler's lists; an
instance under replay or recording goes on without it after a rollback (R393, R424). -/
def Device.checkpointOf (d : Device) (persist : List ((Nat × Nat) × Memory)) : Checkpoint :=
  let waiting := d.instances.flatMap fun i => match i.replay with
    | some r => if r.failed then [] else r.pending
    | none => []
  { rin := d.rin, persist := persist, pages := d.persistPages, tents := d.tents, maps := d.maps
    instances := d.instances.map fun i => { i with replay := none }
    tasks := d.tasks, sheaves := d.sheaves, images := d.images
    ready := (upto 8).map fun n =>
      let x := d.die n
      (x.ready ++ x.slot0.held ++ x.slot1.held ++ if n = 0 then waiting else []).map fun (u : DispUnit) => { u with clus := 0 }
    seqs := (upto 8).map fun n => ((d.die n).slot0.seq, (d.die n).slot1.seq)
    kicks := (upto 8).map fun n => (d.die n).kicks
    lastKicks := (upto 8).map fun n => ((d.die n).slot0.lastKick, (d.die n).slot1.lastKick)
    eosWait := d.eosWait }

/-- The dirty lines of every die's cache. -/
def Device.dirtyLines (d : Device) : List Nat :=
  d.dies.toList.flatMap fun x => (x.lines.filter fun c => c.dirty != 0).map (·.line)

/-- Every line of every die's remote line cache written back (R368, R414). -/
def State.writeBackAll (s : State) : State :=
  let t := (upto 8).foldl (fun (u : State) n => (u.dev.die n).lines.foldl State.writeBack u) s
  t.setDev { t.dev with dies := t.dev.dies.map fun x => { x with lines := x.lines.map fun c => { c with dirty := 0 } } }

/-- Whether every sheaf has ended or is saved and no store is in flight (R414, R415). -/
def State.quiet (s : State) : Bool :=
  (s.dev.sheaves.all fun h => h.saved) && !((s.cur :: s.others).any (·.resident)) && s.dev.notices.isEmpty &&
    s.dev.dies.toList.all fun x => x.requests.isEmpty

/-- R414: FLUSH: after BARRIER, or after PREEMPT where tasks ran past the limit: stores in flight are performed, caches
written back once the logs have room for it (R417), persistent regions copied. -/
def execFlush (s : State) : Res :=
  if !s.dev.sealable || !(s.dev.allAt 1 || s.dev.allAt 2) || !s.quiet || s.dev.undoLacks s.dev.dirtyLines then .next s
  else
    let t := (s.setDev (s.dev.sealPhase 3)).writeBackAll
    let persist := t.dev.persistPages.map fun r => ((r.1, r.2.1), t.dev.mem.slice r.1 r.2.1)
    .next (t.setDev { t.dev with pending := some (t.dev.checkpointOf persist) })

/-- R414: VOTE: a die whose FLUSH is done votes. -/
def execVote (die : Nat) (s : State) : Res :=
  let x := s.dev.die die
  if die < 8 && s.dev.sealable && x.sph = 3 && !x.voted then
    let d := if s.dev.dies.toList.any fun y => y.voted then s.dev else s.dev.sealStep 4
    .next (s.setDev (d.setDie die { d.die die with sph := 4, voted := true }))
  else .next s

/-- A strand's image with its SEALW completed: s[d] holds the new RIN (R416). -/
def Strand.sealwDone (k : Strand) (q : SealwReq) (rin : BitVec 32) : Strand :=
  if q.isOf k then { k with acc := (k.acc.put q.d (rin.setWidth 64)).done 4, ld := k.ld - 1 } else k

/-- Where the bytes of a SEALW's store go, in its strand's name (R248). -/
def State.sealwPlaces (s : State) (q : SealwReq) : List (Nat × Byte) :=
  match s.dev.images.find? fun k => q.isOf k with
  | none => []
  | some k => match (s.enter k.agent).check .store 1 false q.ea q.bytes.length with
    | .ok ps => ps.flatMap fun p => (upto p.len).map fun i => (p.hit.key + i, q.bytes.getD (p.start + i) 0)
    | _ => []

/-- The scrubber has kept every tag fewer than 128 intervals behind the new RIN (R409): those that would lag more take the
tag RIN - 1. -/
def Device.scrubFor (d : Device) (rin : BitVec 32) : Device :=
  let low := d.rin.setWidth 8 - 1
  let fix (t : BitVec 8) : BitVec 8 := if 128 ≤ (rin.setWidth 8 - t).toNat then low else t
  { d with tags := d.tags.map fun p => (p.1, fix p.2), baseTag := fix d.baseTag }

/-- R406, R414 to R416: COMMIT: the commit point: the SEALSTEP record, the new RIN on every die, the checkpoint in force, and
a forced seal's SEALW completed in its image. -/
def execCommit (s : State) : Res :=
  match s.dev.pending with
  | none => .next s
  | some c =>
    if !s.dev.sealable || !s.dev.allAt 4 || !(s.dev.dies.toList.all fun x => x.voted) then .next s
    else
      let rin := s.dev.rin + 1
      let d0 := s.dev.sealPhase 5
      let d0s := d0.scrubFor rin
      let d1 : Device := { d0s with
        rin := rin, sealReq := false, pending := none
        dies := d0.dies.map fun x => { x with win := { x.win with seals := x.win.seals + 1 } } }
      let d2 : Device := { d1 with
        images := d1.images.map fun k => d1.sealw.foldl (fun k q => k.sealwDone q rin) k
        sealw := d1.sealw.map fun q => { q with committed := true, out := s.sealwPlaces q } }
      .next (s.setDev { d2 with checkpoint := some (d2.checkpointOf c.persist) })

/-- R414, R416, R418: RELEASE: the undo entries of the sealed interval are freed, so that what leaves finds room in the logs
(R417), its egress entries leave in order, the stores of SEALWs after them, dispatch resumes, and a request made after the vote starts the next seal (R413). -/
def execRelease (s : State) : Res :=
  if !s.dev.sealable || !s.dev.allAt 5 then .next s
  else
    let rin := s.dev.rin
    let free (d : Device) : Device := { d with dies := d.dies.map fun x => { x with undo := x.undo.filter fun e => e.rin == rin } }
    let d0 := free (s.dev.sealPhase 6)
    let d1 := ((upto 8).foldl (fun (d : Device) n => d.releaseEgress n fun e => !(e.rin == rin)) d0).sendSealw
    .next (s.setDev { d1 with
      sealReq := d1.nextSeal, nextSeal := false, sealw := []
      dies := d1.dies.map fun x => { x with sph := 0, voted := false }
      away := d1.away.filter fun e => e.rin == rin })

end Sys2Proof.Machine
end

