-- ==== Sys2Proof/Machine/Fabric.lean ====
section
/-!
DEFINITION. The fabric (16): shootdowns (R361, R362), migration (R363, R364), the life of a remote request (R365 to R372),
multicast (R374) and the protected links (R375 to R377).
-/
namespace Sys2Proof.Machine

/-! ### Shootdown -/

/-- R361: XSHOOT. -/
def execXshoot (m : Master) (die : Nat) (w : Word) (s : State) : Res :=
  .next (if 8 ≤ die then s else s.window m (s.writeXshoot die w))

/-- Whether a shootdown drops a TLB entry: the ASID and a page that contains the address, whatever its size (R361). -/
def TlbEntry.shot (e : TlbEntry) (op : Word) : Bool :=
  op.getLsbD 17 ||
    (e.asid == op.toNat % 65536 && (op.getLsbD 16 || e.page == (op.toNat >>> 20) * 65536 / pageBytes e.level))

/-- The addresses a copy that has not performed everything still uses, one in each unit (R147). -/
def Card.openAddrs (c : Card) : List Word :=
  if c.phase == .running || c.phase == .queued || !c.tags.isEmpty then
    (c.srcRows ++ c.dstRows).flatMap fun a => (splits a (c.nat 0x82)).map fun p => a + BitVec.ofNat 64 p.1
  else []

/-- Whether a strand has an element of a queue stream, a store that waits behind one, or a copy job, which was translated at
its issue through an entry that a shootdown drops and is not yet performed (R147, R218, R362). -/
def State.streamsUnder (s : State) (op : Word) (dies : List Nat) : Bool :=
  (s.cur :: s.others).any fun k =>
    let under (x : Word) : Bool :=
      let a := x.toNat
      let level := ((s.leafOf k.id.asid.toNat a).map (·.2)).getD 3
      a / 2 ^ 56 == 0 && (op.getLsbD 17 || op.getLsbD 16 || a / pageBytes level == (op.toNat >>> 20) * 65536 / pageBytes level)
    k.resident && dies.contains k.id.die.toNat && (op.getLsbD 17 || k.id.asid.toNat == op.toNat % 65536) &&
    ((k.qstreams.any fun q => q.pending.any fun e => under (q.addr e.1 e.2)) || k.jobs.cpq.any fun c => c.openAddrs.any under)

/-- R362: SHOOTDOWN_COMPLETE: the entries are dropped once every access translated through them has been performed; BUSY
falls and DONE advances. -/
def execShootdownComplete (die : Nat) (s : State) : Res :=
  let w := (s.dev.die die).win
  let dies := if w.xsOp.getLsbD 18 then upto 8 else [die]
  let done (r : Request) : Bool := r.performed || r.replied
  let ready := dies.all fun n => (s.dev.die n).requests.all done &&
    (s.dev.die n).strays.all fun y => done y.req || y.req.kind == 1 || y.req.kind == 3
  if !w.xsBusy || 8 ≤ die || !ready || s.streamsUnder w.xsOp dies then .next s
  else
    let d := dies.foldl (fun (d : Device) n => d.setDie n ((d.die n).tlbDrop fun e => e.shot w.xsOp)) s.dev
    .next ((s.setDev d).setWin die fun y => { y with xsBusy := false, xsDone := y.xsDone + 1 })

/-! ### Migration -/

/-- A leaf that maps a 64 KiB unit made to map the one at `target`, MIG clear (Table 16-2, R364). -/
def movedLeaf (target old : Nat) : Word := BitVec.ofNat 64 (old % 2 ^ 12 + target)

/-- An undo entry of a line of leaves with every old leaf that names a unit naming the one at `target` (R364). -/
def UndoEntry.moveLeaves (u : UndoEntry) (unit target : Nat) : UndoEntry :=
  (upto 8).foldl (fun (v : UndoEntry) i =>
    let w := (v.data >>> (64 * i)).toNat % 2 ^ 64
    if pteBit w 0 && pteBit w 1 && physKey (ptePeer w) (pteAddr w) / 65536 == unit then
      { v with data := (v.data &&& ~~~(((-1 : Word).setWidth 512) <<< (64 * i))) |||
          ((movedLeaf target w).setWidth 512 <<< (64 * i)) }
    else v) u

/-- What the egress hold buffer and the line caches hold of a moved unit goes with it (R87). -/
def Die.moveUnit (x : Die) (unit target : Nat) : Die :=
  let key (a : Nat) : Nat := if a / 65536 == unit then target + a % 65536 else a
  let line (l : Nat) : Nat := if l / 1024 == unit then target / 64 + l % 1024 else l
  { x with egress := x.egress.map fun e => { e with line := line e.line, bytes := e.bytes.map fun b => (key b.1, b.2) }
           lines := x.lines.map fun c => { c with line := line c.line } }

/-- What a speculation has read and written of a moved unit goes with it (R87, R401). -/
def Speculation.moveUnit (p : Speculation) (unit target : Nat) : Speculation :=
  let key (a : Nat) : Nat := if a / 65536 == unit then target + a % 65536 else a
  let line (l : Nat) : Nat := if l / 1024 == unit then target / 64 + l % 1024 else l
  let seen := ((upto 1024).map fun i => unit * 1024 + i).filter fun l => (bloomBits l).all p.filter.contains
  let old := p.writes.slice (unit * 65536) 65536
  { p with writes := if old.isEmpty then p.writes else (p.writes.clear (unit * 65536) 65536).paste target 65536 old
           written := p.written.map key
           readSet := p.readSet.map line
           filter := if p.filter.isEmpty then [] else (seen.flatMap (fun l => bloomBits (line l)) ++ p.filter).eraseDups }

/-- Whether an access under way still has to reach a 64 KiB unit: step 1's shootdown waits for it (R362, R364). -/
def Device.reachesUnit (d : Device) (unit : Nat) : Bool :=
  let on (r : Request) : Bool := !r.performed && !r.replied && (r.parts.any (fun p => p.key / 65536 == unit) ||
    r.members.any fun m => physKey m.1 m.2 / 65536 == unit)
  d.dies.toList.any fun x => x.requests.any on || x.strays.any fun y => on y.req

/-- R364: MIGRATION: level-10 firmware moves a page whose migration is asked for to a free frame of the target die: contents,
tags and poison move with all that stands for its bytes, the leaf is repointed, the translations of the page are dropped, and
undo entries that name the frame, by line or by a leaf they hold, name the new one. -/
def execMigration (asid : Nat) (va : Word) (toDie : Nat) (frame : Word) (s : State) : Res :=
  let d := s.dev
  let g : Agent := { die := 0, tid := 0, asid := asid, sys := true }
  match (s.enter g).walk asid va.toNat with
  | (_, some (e, 3)) =>
    let owner := ptePeer e % 8
    let unit := (physKey (ptePeer e) (pteAddr e)) / 65536
    let pa := frame.toNat % 2 ^ 52 / 65536 * 65536
    let target := physKey (d.peerOf toDie) pa
    let same := physRegion (ptePeer e) (pteAddr e) 65536 == physRegion (d.peerOf toDie) pa 65536
    let used := d.roots.any fun r => !(leavesOf d.mem (target / 65536) 4 0 r).isEmpty
    if e / 512 % 4 != 2 || !d.owns (ptePeer e) || 8 ≤ toDie || !same || !(lineInDram (unit * 1024)) || used ||
        !d.frameFree toDie pa 65536 || !(d.die owner).migQueue.contains (unit, toDie) || !d.storing || d.reachesUnit unit then .next s
    else
      let moveLine (l : Nat) : Nat := if l / 1024 == unit then target / 64 + l % 1024 else l
      let mem := d.mem.paste target 65536 (d.mem.slice (unit * 65536) 65536)
      let kept (l : Nat) : Bool := l / 1024 != target / 65536
      let d1 : Device := { d with
        mem := mem
        tags := (d.tags.filter fun t => kept t.1).map fun t => (moveLine t.1, t.2)
        poison := (d.poison.filter kept).map moveLine
        restored := (d.restored.filter kept).map moveLine
        specs := d.specs.map fun p => p.moveUnit unit target }
      let leaves := (d.roots.flatMap fun r => leavesOf d.mem unit 4 0 r).filter fun f => f.2.1 == 3
      let d2 := leaves.foldl (fun (d : Device) f => d.dramWrite f.1 (bytes8 (movedLeaf target f.2.2))) d1
      let renamed (u : UndoEntry) : UndoEntry :=
        let v := { u with line := moveLine u.line }
        if leaves.any fun f => f.1 / 64 == u.line then v.moveLeaves unit target else v
      let stale (t : TlbEntry) : Bool := (t.asid == asid && t.level == 3 && t.page == va.toNat / 65536) ||
        physKey (ptePeer t.leaf.toNat) (pteAddr t.leaf.toNat) / 65536 == unit
      let onDie (x : Die) : Die :=
        { ((x.tlbDrop stale).moveUnit unit target).rewriteUndo renamed with
                 migQueue := x.migQueue.filter fun q => !(q.1 == unit)
                 migCount := x.migCount.filter fun c => !(c.1.1 == unit) }
      .next (s.setDev { d2 with dies := d2.dies.map onDie })
  | _ => .next s

/-- R363: MIGRATION_COUNT_HALVING: every counter of a die is halved. -/
def execMigrationCountHalving (die : Nat) (s : State) : Res :=
  let x := s.dev.die die
  .next (s.setDev (s.dev.setDie die { x with migCount := (x.migCount.map fun c => (c.1, c.2 / 2)).filter fun c => c.2 != 0 }))

/-! ### The life of a request -/

/-- The time-out T of a die's station in cycles (R370). -/
def Die.timeout (x : Die) : Nat := 2 ^ x.win.ftimeout.toNat

/-- A stale flit counted, saturating (R372). -/
def Window.bumpLate (w : Window) : Window := if w.late = -1 then w else { w with late := w.late + 1 }

/-- A request of a die replaced. -/
def State.putRequest (s : State) (die : Nat) (r : Request) : State :=
  s.setDev (s.dev.setDie die ((s.dev.die die).setRequest r))

/-- A request of a die ended: its tag is free. -/
def State.endRequest (s : State) (die tag : Nat) : State :=
  let x := s.dev.die die
  s.setDev (s.dev.setDie die { x with requests := x.requests.filter fun q => !(q.tag == tag) })

/-- Whether a strand is the one a request of a die is from. -/
def Request.from_ (r : Request) (die : Nat) (k : Strand) : Bool := k.resident && k.named die r.stag.toNat r.six.toNat

/-- Whether what is earlier at a die leaves a destination to what follows: its station is not backing off from it, the way is
open, and nothing earlier to it is still unaccepted (R366, R376). -/
def Device.leaves_ (d : Device) (die : Nat) (before : List Request) (peer : Nat) : Bool :=
  (d.die die).reaches peer && d.wayOpen peer && !before.any fun q => q.waitsFor.contains peer

/-- Whether a request may go to a destination now; what has timed out and is still under way is earlier. -/
def Device.maySendTo (d : Device) (die : Nat) (r : Request) (peer : Nat) : Bool :=
  d.leaves_ die (((d.die die).strays.map (·.req)) ++ (d.die die).requests.takeWhile fun q => q.tag != r.tag) peer

/-- Whether a flit that has timed out may still go to a destination. -/
def Device.strayGoes (d : Device) (die : Nat) (y : Stray) (peer : Nat) : Bool :=
  d.leaves_ die (((d.die die).strays.takeWhile fun z => z != y).map (·.req)) peer

/-- Whether a request may go to every destination it has. -/
def Device.maySend (d : Device) (die : Nat) (r : Request) : Bool := r.peers.all (d.maySendTo die r)

/-- The atomics, by their code. -/
def decodeAtomic : Code → Option Instr
  | .word w =>
    let i := match major w with
      | 12 => decodeAtom w
      | 13 => decodeAtomw w
      | _ => none
    i.filter wellFormed
  | _ => none

/-- The meaning of an atomic. -/
def runAtomic (s : State) : Instr → Res
  | .gadd sc o z b a => execGadd sc o z b a s
  | .gswap sc o z b a d => execGswap sc o z b a d s
  | .gcas sc o z b a d => execGcas sc o z b a d s
  | .gfadd sc o z b a d => execGfadd sc o z b a d s
  | .gbfadd sc o b a d => execGbfadd sc o b a d s
  | .gincw sc o z b a d => execGincw sc o z b a d s
  | .gmin sc o z b a d => execGmin sc o z b a d s
  | .gmax sc o z b a d => execGmax sc o z b a d s
  | .gand sc o z b a d => execGand sc o z b a d s
  | .gor sc o z b a d => execGor sc o z b a d s
  | .gswapQ sc o b a d => execGswapQ sc o b a d s
  | .gcasQ sc o b a d => execGcasQ sc o b a d s
  | .gandQ sc o b a d => execGandQ sc o b a d s
  | .gorQ sc o b a d => execGorQ sc o b a d s
  | .barinit sc o b a d => execBarinit sc o b a d s
  | .bararr sc o b a d => execBararr sc o b a d s
  | .barqry sc o a d => execBarqry sc o a d s
  | _ => .next s

/-- A tag no station uses, under which an atomic is performed in its strand's name. -/
def atomicTag : Nat := 4096

/-- The atomic of a request performed by its owner in the name of a strand of its die, as the strand stood (R367, R371): the
machine after it and the request with its result; none where it must wait, or where the strand's own step has to report a
fault. -/
def State.performAtomic (s : State) (die : Nat) (k : Strand) (r : Request) : Option (State × Request) :=
  let x := s.dev.die die
  let t : State := { s with
    cur := { k with acc := { k.acc with reply := some atomicTag } }, others := s.cur :: s.others, turn := .stream .a
    dev := s.dev.setDie die { x with requests := x.requests ++ [{ r with tag := atomicTag, served := true }] } }
  match t.bodyBytes t.fetchAt with
  | (.ok _, bs) => match ((nextCode t.me bs).bind decodeAtomic).map (runAtomic t) with
    | some (.next u) =>
      let y := u.dev.die die
      match y.request atomicTag with
      | some p =>
        if p.performed then
          some ({ (u.setDev (u.dev.setDie die { y with requests := y.requests.filter fun q => !(q.tag == atomicTag) })).leave with
                  turn := s.turn }, { r with served := true, performed := true, value := p.value })
        else none
      | none => none
    | _ => none
  | _ => none

/-- Whether the undo logs have no room for the lines of a store request (R417). -/
def Device.partsFull (d : Device) (ps : List ReqPart) : Bool :=
  d.undoLacks ((ps.flatMap fun p => linesOf p.key p.len).filter lineInDram)

/-- An adding copy's words added at their owners, counted (R142, R146, R363, R367): the machine and the flags. -/
def State.ownerAdds (s : State) (fromDie : Nat) (r : Request) : State × Flags :=
  r.parts.foldl (fun (acc : State × Flags) p =>
    let u := if p.counted then acc.1.setDev (acc.1.dev.countPage fromDie p.key) else acc.1
    let out := copyResult r.mode (u.getBytes (u.partPlace p) p.len) ((r.bytes.drop p.start).take p.len)
    (u.ownerPut p out.1, acc.2 ||| out.2)) (s, 0)

/-- A load, store or atomic as its owners take it (R363, R367, R371): a store below the age T / 2 is performed, an older one
discarded without a word; a load is read and an atomic performed whenever it arrives. None where it must wait. -/
def State.serve (s : State) (die : Nat) (k : Option Strand) (r : Request) : Option (State × Request) :=
  let acc := { r with served := true }
  match r.kind.toNat with
  | 1 =>
    if (s.dev.die die).timeout ≤ 2 * r.age then some (s, acc)
    else if s.dev.partsFull r.parts then none
    else if r.mode = 0 then some (s.ownerStores die r.bytes r.parts, { acc with performed := true })
    else
      let t := s.ownerAdds die r
      some (t.1, { acc with performed := true, value := t.2.setWidth 128 })
  | 0 => some (s.setDev (s.dev.countParts die r.parts), { s.ownerRead acc with performed := true })
  | _ => match k.bind fun k => s.performAtomic die k r with
    | some p => some p
    | none => some (s, acc)

/-- The station that counts a flit it discards: the destination's in this package, else the source's. -/
def Device.lateAt (d : Device) (die : Nat) (r : Request) : Nat := if d.owns r.peer then r.peer % 8 else die

/-- A flit of a request that has timed out reaches its owner (R371, R372): a load or an atomic is still performed below the age
2T; an older flit is discarded and counted, and a store is discarded. -/
def State.serveStray (s : State) (die tag : Nat) : State :=
  let x := s.dev.die die
  match x.strays.find? fun y => y.req.tag == tag && !y.req.performed && y.req.kind != 3 with
  | none => s
  | some y =>
    let without := x.strays.filter fun z => !(z == y)
    let gone (t : State) : State := t.setDev (t.dev.setDie die { t.dev.die die with strays := without })
    if 2 * x.timeout < y.req.age then (gone s).setWin (s.dev.lateAt die y.req) Window.bumpLate
    else if !y.req.peers.all (s.dev.strayGoes die y) then s
    else if y.req.kind == 1 then gone s
    else match s.serve die y.strand y.req with
      | some (t, r) => if r.performed then
          t.setDev (t.dev.setDie die { t.dev.die die with strays := without ++ [{ y with req := r }] }) else s
      | none => s

/-- R366, R367, R371, R372: REMOTE_REQUEST: a request reaches its owners, which perform it or discard it. -/
def execRemoteRequest (die tag : Nat) (s : State) : Res :=
  let x := s.dev.die die
  let old := x.strays.any fun y => y.req.tag == tag && !y.req.performed && y.req.kind != 3
  match (if old then none else x.request tag) with
  | none => .next (if s.dev.storing then s.serveStray die tag else s)
  | some r =>
    if r.served || r.kind == 3 || !s.dev.maySend die r || !s.dev.storing then .next s
    else if 2 * x.timeout < r.age then
      .next ((s.putRequest die { r with served := true, dropped := true }).setWin (s.dev.lateAt die r) Window.bumpLate)
    else match s.serve die ((s.cur :: s.others).find? (r.from_ die)) r with
      | some (t, q) => .next (t.putRequest die q)
      | none => .next s

/-- R366: REFUSAL_NOTICE: a request refused twice comes back; its source holds what goes to that destination. -/
def execRefusalNotice (die tag : Nat) (s : State) : Res :=
  let x := s.dev.die die
  match x.request tag with
  | none => .next s
  | some r => match r.waitsFor with
    | [] => .next s
    | peer :: _ =>
      if !s.dev.maySendTo die r peer then .next s
      else
        let wait := min 4096 (16 * 2 ^ r.refusals)
        let y := x.setRequest { r with refusals := r.refusals + 1 }
        .next (s.setDev (s.dev.setDie die { y with backoff := (peer, wait) :: y.backoff }))

/-- R366: BACKOFF_EXPIRY: the wait is over and the station sends to the destination again. -/
def execBackoffExpiry (die dst : Nat) (s : State) : Res :=
  let x := s.dev.die die
  .next (s.setDev (s.dev.setDie die { x with backoff := x.backoff.filter fun b => !(b.1 == dst) }))

/-- The reply of a request that has timed out reaches its source: its generation is an older one of the tag, and it is dropped
and counted (R372). -/
def State.dropReply (s : State) (die tag : Nat) : State :=
  let x := s.dev.die die
  match x.strays.find? fun y => y.req.tag == tag && y.req.performed with
  | none => s
  | some y =>
    (s.setDev (s.dev.setDie die { x with strays := x.strays.filter fun z => !(z == y) })).setWin die Window.bumpLate

/-- R366, R367, R372: REPLY: the reply of a performed request is used: it ends a store, and gives a load, whose fetched lines
enter the die's cache, or an atomic its value; no load or atomic is answered after T cycles, when it times out (R370). -/
def execReply (die tag : Nat) (s : State) : Res :=
  let x := s.dev.die die
  match x.request tag with
  | none => .next (s.dropReply die tag)
  | some r =>
    if r.kind == 3 || !r.performed || r.replied then .next (s.dropReply die tag)
    else if r.kind == 1 && r.job then .next (s.putRequest die { r with replied := true })
    else if r.kind == 1 then
      let t := s.endRequest die tag
      .next (if r.onSt then t.mapStrand (r.from_ die) fun k => { k with st := k.st - 1 } else t)
    else if x.timeout ≤ r.age then .next s
    else
      let tid := (((s.cur :: s.others).find? (r.from_ die)).map fun k => k.id.tid).getD 0
      let y := x.installAll tid r
      .next (s.setDev (s.dev.setDie die (y.setRequest { r with replied := true, bytes := y.replyBytes r })))

/-- The strand of a core stands for the current one while `f` acts on it. -/
def State.asStrand (s : State) (p : Strand → Bool) (f : State → State) : State :=
  if p s.cur then f s
  else match s.others.find? p with
    | none => s
    | some k =>
      let mine := s.cur.id.coreNum
      let u := f { s with cur := k, others := s.cur :: s.others.filter fun o => !(o.id.coreNum == k.id.coreNum) }
      match u.others.find? fun o => o.id.coreNum == mine with
      | some o => { u with cur := o, others := u.cur :: u.others.filter fun q => !(q.id.coreNum == mine) }
      | none => u

/-- What a time-out raises in its strand (R215, R218, R370): a precise fault at a load or an atomic, with no result; a
fault deferred to the access stream's next boundary for a store or a queue stream's element; a copy job faults (R294). -/
def State.timedOut (s : State) (r : Request) : State :=
  match s.cur.spec with
  | some n => s.dropSpec n Window.bumpDoth
  | none =>
    if r.job then match s.cur.jobs.cpq.find? fun c => c.tags.contains r.tag && !cardHeld s.cur.jobs.cpq c with
      | some c => s.jobFaulted .copy s.cur c 0x11 r.faddr []
      | none => s
    else if s.cur.acc.reply == some r.tag then
      let rec_ := s.faultRec 0x11 1 false 0 r.iaddr r.faddr (s.cur.acc.aux 0)
      let t := s.count r.onSt (· - 1)
      (t.setCur { t.cur with acc := { t.cur.acc with reply := none } }).freeze rec_
    else
      let t := s.deferFault 0x11 r.iaddr r.faddr
      match (upto t.cur.qstreams.length).find? fun k => (t.cur.qstreams[k]?).any fun q => q.replies.contains r.tag with
      | some k => match t.cur.qstreams[k]? with
        | some q => (t.setMyDie (t.myDie.abandon none fun o => q.replies.contains o.tag)).nextEntry k q
        | none => t
      | none => if r.onSt then t.count true (· - 1) else t

/-- R370, R215, R374: REMOTE_TIMEOUT: a request without a reply after T cycles: its tag's generation advances and the tag is
free, and the requester is faulted; a store that has been performed is always answered in time (R371). A multicast never
faults: it is answered with the members that failed, and its strand keeps the answer under a number that is no tag. -/
def execRemoteTimeout (die tag : Nat) (s : State) : Res :=
  let x := s.dev.die die
  match x.request tag with
  | none => .next s
  | some r =>
    if r.age < x.timeout || r.replied || 8 ≤ die || (r.kind == 1 && r.performed) then .next s
    else if r.kind == 3 then
      let kept := 4097 + r.core
      let answered : Request := { r with tag := kept, replied := true, value := if r.chain then r.value else r.bitmap.setWidth 128 }
      let y := { x with requests := x.requests.map fun (q : Request) => if q.tag == tag then answered else q
                        gens := insertKey x.gens tag (lookupD 0 x.gens tag + 1) }
      .next ((s.setDev (s.dev.setDie die y)).mapStrand (r.from_ die) fun k => { k with acc := { k.acc with reply := some kept } })
    else
      let y := x.abandon ((s.cur :: s.others).find? (r.from_ die)) fun q => q.tag == tag
      .next ((s.setDev (s.dev.setDie die y)).asStrand (r.from_ die) fun u => u.timedOut r)

/-- R368: LINE_EVICTION: a line of a die's remote line cache leaves it; only its dirty bytes are written. -/
def execLineEviction (die line : Nat) (s : State) : Res :=
  match (s.dev.die die).lineFind line with
  | none => .next s
  | some c =>
    let y : State := s.enter { die := die, tid := 0, asid := 0, sys := true }
    if c.dirty != 0 && (!y.canWriteBack [line] || !s.dev.storing) then .next s else .next (s.evict die line)

/-! ### Multicast -/

/-- Whether a multicast can reach a member (R373): in native mode only one of this package or of a package that reports
capability 0x000B. -/
def Device.castReaches (d : Device) (r : Request) (peer : Nat) : Bool :=
  r.chain || d.owns peer || Config.nativeMulticast (peer / 8)

/-- Whether member i of a multicast can write now: the flit has reached it, in chain mode through every member before it,
below the age T / 2 and with room in its undo log (R366, R371, R373, R374, R417). -/
def State.memberReady (s : State) (die : Nat) (r : Request) (i : Nat) (m : Nat × Nat) (goes : Bool) : Bool :=
  let key := physKey m.1 m.2
  r.kind == 3 && !r.wrote.getLsbD i && !(r.chain && (upto i).any fun j => r.bitmap.getLsbD j) &&
    2 * r.age < (s.dev.die die).timeout && s.dev.castReaches r m.1 && goes &&
    !(lineInDram (key / 64) && s.dev.undoFull (key / 64)) && s.dev.storing

/-- A multicast with member i acknowledged, or in chain mode marked done. -/
def Request.memberDone (r : Request) (i : Nat) : Request := { r with bitmap := r.bitmap &&& ~~~(1#16 <<< i) }

/-- A multicast that member i has written; a member of a chain is then done (R374). -/
def Request.memberWrote (r : Request) (i : Nat) : Request :=
  let q := { r with wrote := r.wrote ||| (1#16 <<< i) }
  if r.chain then q.memberDone i else q

/-- Whether the merged reply of a multicast is due, 2^14 cycles before T, or all there is to it has come (R374). -/
def Request.castDue (r : Request) (timeout : Nat) : Bool :=
  if r.chain then !r.bitmap.getLsbD (r.members.length - 1) else r.bitmap = 0 || timeout ≤ r.age + 2 ^ 14

/-- A step of a multicast still under way at member i (R371, R372, R374): the member writes; or, once it has written, its
acknowledgement comes, in time, or after the reply, when it is dropped and counted. `past` tells that the reply has been
given; the reply of a chain's last member then comes too late. None where nothing can happen. -/
def State.castStep (s : State) (die : Nat) (r : Request) (i : Nat) (goes past : Bool) : Option (State × Request) :=
  let late (t : State) : State := if past then t.setWin die Window.bumpLate else t
  match r.members[i]? with
  | none => none
  | some m =>
    if s.memberReady die r i m goes then
      let t := s.ownerWrite (physKey m.1 m.2) r.bytes
      some (if r.chain && i + 1 == r.members.length then late t else t, r.memberWrote i)
    else if !r.chain && r.wrote.getLsbD i && r.bitmap.getLsbD i && (past || !r.castDue (s.dev.die die).timeout) then
      some (late s, r.memberDone i)
    else none

/-- A flit of a multicast that goes on after its reply: a step of it; it is discarded past the age 2T (R372), and nothing is left
of it once every member has acknowledged. -/
def State.strayCast (s : State) (die : Nat) (y : Stray) (i : Nat) : State :=
  let x := s.dev.die die
  let put (t : State) (zs : List Stray) : State := t.setDev (t.dev.setDie die { t.dev.die die with strays := zs })
  if 2 * x.timeout < y.req.age then (put s (x.strays.filter fun z => z != y)).setWin die Window.bumpLate
  else match s.castStep die y.req i (((y.req.members[i]?).map fun m => s.dev.strayGoes die y m.1).getD false) true with
    | none => s
    | some (t, r) => put t (if r.bitmap = 0 then x.strays.filter fun z => z != y
                            else x.strays.map fun z => if z == y then { z with req := r } else z)

/-- R371, R372, R374: MULTICAST_MEMBER_WRITE: a member's station performs the write, and then acknowledges it, or in chain mode
marks itself done and forwards it. -/
def execMulticastMemberWrite (die tag i : Nat) (s : State) : Res :=
  let x := s.dev.die die
  match x.strays.find? fun y => y.req.tag == tag && y.req.kind == 3 && y.req.bitmap.getLsbD i with
  | some y => .next (s.strayCast die y i)
  | none => match x.request tag with
    | none => .next s
    | some r =>
      let goes := ((r.members[i]?).map fun m => s.dev.maySendTo die r m.1).getD false
      if r.kind != 3 then .next s
      else match s.castStep die r i goes r.replied with
        | some (t, q) => .next (t.putRequest die q)
        | none => .next s

/-- R374: MULTICAST_REPLY: the merged reply reaches the source: when every member has acknowledged or it is due, 2^14 cycles
before T; in chain mode from the last member. -/
def execMulticastReply (die tag : Nat) (s : State) : Res :=
  let x := s.dev.die die
  match x.request tag with
  | none => .next s
  | some r =>
    if r.kind == 3 && !r.replied && r.castDue x.timeout then
      .next (s.putRequest die { r with replied := true, value := r.bitmap.setWidth 128 })
    else .next s

/-! ### Protected links -/

/-- A link of the device changed. -/
def State.setLink (s : State) (n : Nat) (l : Link) : State := s.setDev { s.dev with links := s.dev.links.set n l }

/-- The invocation counter at which a rotation is asked for (R376). -/
def rotateAt : Nat := 2 ^ 40 - 2 ^ 20

/-- A slot's number. -/
def slotNo (b : BitVec 1) : Nat := b.toNat

/-- A first transmission (R375, R376): it takes the slot's counter, and is kept until it is acknowledged; a marker is the last
under its slot. -/
def Link.transmit (l : Link) (marker : Bool) : Link :=
  let c := vget l.ctr (slotNo l.txSlot) 0
  let f := (l.nextSeq, marker, l.txSlot, c)
  let l1 := { l with nextSeq := l.nextSeq + 1, ctr := l.ctr.setIfInBounds (slotNo l.txSlot) (c + 1), retry := l.retry ++ [f]
                     inFlight := [f], rotate := l.rotate || rotateAt ≤ c }
  if marker then
    { l1 with installed := l1.installed.setIfInBounds (slotNo l.txSlot) false, txSlot := ~~~l.txSlot, rotate := false }
  else l1

/-- The receiver takes the first flit under way (R376, R377): the next one, authenticated under the expected slot, is
accepted; one that fails is answered with a negative acknowledgement and it and every later one discarded. -/
def Link.receive (l : Link) (ok : Bool) : Link :=
  match l.inFlight with
  | [] => l
  | f :: rest =>
    let l1 := { l with inFlight := rest }
    if f.1 != l.rxNext then l1
    else if ok && f.2.2.1 == l.rxSlot then
      { l1 with rxNext := l.rxNext + 1, discarding := false, fails := 0, rxSlot := if f.2.1 then ~~~l.rxSlot else l.rxSlot }
    else { l1 with fails := l.fails + 1, discarding := true }

/-- A link that goes down after three failures of one flit, which rolls the domain back (R377). -/
def State.linkReceived (s : State) (n : Nat) (l : Link) : State :=
  if 3 ≤ l.fails && l.up then
    let t := s.rollback [] []
    t.setLink n { l with up := false, inFlight := [] }
  else s.setLink n l

/-- A flit of a kind transmitted, or resent from what is under way, and received. -/
def State.flit (s : State) (n : Nat) (marker ok : Bool) : State :=
  match s.dev.links[n]? with
  | none => s
  | some l =>
    if !l.up || s.dev.failed then s
    else match l.inFlight with
      | f :: _ => if f.2.1 == marker then s.linkReceived n (l.receive ok) else s
      | [] =>
        let spent := 2 ^ 40 ≤ vget l.ctr (slotNo l.txSlot) 0 || !vget l.installed (slotNo l.txSlot) false
        if l.markerNext != marker || (spent && !marker) then s
        else s.linkReceived n ((l.transmit marker).receive ok)

/-- R375, R377: DATA_FLIT: `ok` says whether its tag authenticates. -/
def execDataFlit (link : Nat) (ok : Bool) (s : State) : Res := .next (s.flit link false ok)

/-- R376: MARKER: the receiver's expected slot changes with its acceptance. -/
def execMarker (link : Nat) (ok : Bool) (s : State) : Res := .next (s.flit link true ok)

/-- R376, R377: ACKNOWLEDGEMENT: flits up to one the receiver has accepted leave the retry buffer. -/
def execAcknowledgement (link upTo : Nat) (s : State) : Res :=
  match s.dev.links[link]? with
  | none => .next s
  | some l =>
    if !l.up || l.rxNext ≤ upTo then .next s
    else .next (s.setLink link { l with retry := l.retry.filter fun f => upTo < f.1 })

/-- R377: NEGATIVE_ACKNOWLEDGEMENT: the failed flit and every later one are sent again as they were. -/
def execNegativeAcknowledgement (link seq : Nat) (s : State) : Res :=
  match s.dev.links[link]? with
  | none => .next s
  | some l =>
    if !l.up || !l.discarding || seq != l.rxNext then .next s
    else .next (s.setLink link { l with inFlight := l.retry.filter fun f => seq ≤ f.1 })

/-- R376, R377, R439: ROTATION_REQUEST: keys are installed in the slot not in use, once no flit under it waits in the retry
buffer. -/
def execRotationRequest (link : Nat) (s : State) : Res :=
  match s.dev.links[link]? with
  | none => .next s
  | some l =>
    let other := ~~~l.txSlot
    let live := l.retry.any fun f => f.2.2.1 == other
    if !l.up || !l.rotate || live || vget l.installed (slotNo other) false then .next s
    else .next (s.setLink link { l with installed := l.installed.setIfInBounds (slotNo other) true
                                        keys := l.keys.setIfInBounds (slotNo other) (linkKey link (slotNo other) s.fresh)
                                        salts := l.salts.setIfInBounds (slotNo other) (linkSalt link (slotNo other) s.fresh)
                                        ctr := l.ctr.setIfInBounds (slotNo other) 0 }).drew

end Sys2Proof.Machine
end

