-- ==== Sys2Proof/Machine/Pred.lean ====
section
/-!
DEFINITION. Predicates, guard mapping and the glean queue (10 R267, R268, R273 to R275; 03 R54, R68, R69).
-/
namespace Sys2Proof.Machine

/-- A predicate instruction (R267). -/
def State.predOp (s : State) (ps : List PName) (t : State) : Res := s.vector 0 [] ps (.next (t.complete 4))

/-- The predicate of a name written. -/
def State.putP (s : State) (d : PName) (v : BitVec 64) : State := s.setCur (s.cur.setP d v)

/-- R267: pand. -/
def execPand (d a b : PName) (s : State) : Res := s.predOp [d, a, b] (s.putP d (s.cur.preg a &&& s.cur.preg b))
/-- R267: por. -/
def execPor (d a b : PName) (s : State) : Res := s.predOp [d, a, b] (s.putP d (s.cur.preg a ||| s.cur.preg b))
/-- R267: pxor. -/
def execPxor (d a b : PName) (s : State) : Res := s.predOp [d, a, b] (s.putP d (s.cur.preg a ^^^ s.cur.preg b))
/-- R267: pnot. -/
def execPnot (d a : PName) (s : State) : Res := s.predOp [d, a] (s.putP d (~~~s.cur.preg a))
/-- R267: pcnt writes a scalar of the execute stream. -/
def execPcnt (d : Reg) (a b : PName) (s : State) : Res :=
  s.predOp [a, b] (s.wr d (aluPopc (s.cur.preg a &&& s.cur.preg b)))
/-- R267: pfirst: the lowest set bit alone. -/
def execPfirst (d a : PName) (s : State) : Res := s.predOp [d, a] (s.putP d (s.cur.preg a &&& -s.cur.preg a))

/-- R268: GMAP binds a name; it reads no predicate. -/
def execGmap (p : PName) (n : BitVec 1) (g : Guard) (s : State) : Res :=
  s.predOp [] (s.setCur { s.cur with gmap := if g = 0 then s.cur.gmap else s.cur.gmap.set g.toNat (n ++ p) g.isLt })

/-! ### The glean queue -/

/-- A glean entry (Table 3-10). -/
def gleanEntry (lane nv : Nat) (tag : BitVec 16) (vals : List Lane) : BitVec 192 :=
  BitVec.ofNat 192 (lane + nv * 2 ^ 6 + tag.toNat * 2 ^ 16 +
    (((upto 4).zip vals).foldl (fun acc (p : Nat × Lane) => acc + p.2.toNat * 2 ^ (32 * p.1)) 0) * 2 ^ 64)

/-- An entry appended (R68). -/
def Strand.gleanPush (k : Strand) (e : BitVec 192) : Strand :=
  { k with glean := Cells.set k.glean ((k.gleanHead + k.gleanOcc) % 4096) e, gleanOcc := k.gleanOcc + 1 }

/-- Entry j from the oldest. -/
def Strand.gleanAt (k : Strand) (j : Nat) : BitVec 192 := Cells.get k.glean ((k.gleanHead + j) % 4096)

/-- The c oldest entries removed. -/
def Strand.gleanDrop (k : Strand) (c : Nat) : Strand :=
  { k with glean := (upto c).foldl (fun m j => Cells.set m ((k.gleanHead + j) % 4096) 0) k.glean
           gleanOcc := k.gleanOcc - c, gleanHead := (k.gleanHead + c) % 4096 }

/-- The lanes a mask enables, ascending. -/
def maskLanes (m : BitVec 64) : List Nat := (upto 64).filter fun i => m.getLsbD i

/-- The registers NV names cover (R273). -/
def nameRange (a : VName) (n : Nat) : List VName := (upto n).map fun k => a + BitVec.ofNat 6 k

/-- R274: GLEAN appends one entry for each enabled lane, all or none. -/
def execGlean (tag : BitVec 16) (nv : BitVec 2) (g : Guard) (a : VName) (s : State) : Res :=
  let n := nv.toNat + 1
  let rs := nameRange a n
  let lanes := maskLanes (s.cur.mask g)
  s.vector g rs []
    (.next (if 4096 < s.cur.gleanOcc + lanes.length then s.stallOn 8
            else (s.setCur (lanes.foldl (fun k i => k.gleanPush (gleanEntry i n tag (rs.map fun r => s.lane r i))) s.cur)).complete 8))

/-- R275: GDRAIN pops up to 64 entries into the lanes of its destinations. -/
def execGdrain (n : PName) (nv : BitVec 2) (m : BitVec 1) (d : VName) (s : State) : Res :=
  let cnt := nv.toNat + 1
  let rs := nameRange d (cnt + m.toNat)
  let c := min 64 s.cur.gleanOcc
  let got : BitVec 64 := BitVec.ofNat 64 (2 ^ c - 1)
  let value (k j : Nat) : Lane :=
    let e := s.cur.gleanAt j
    if k = cnt then e.extractLsb' 0 32
    else if (e.extractLsb' 6 3).toNat ≤ k then 0 else e.extractLsb' (64 + 32 * k) 32
  let filled := ((upto (cnt + m.toNat)).zip rs).foldl (fun (k : Strand) p =>
    k.setV p.2 (mergeLanes (k.vreg p.2) got fun j => value p.1 j)) s.cur
  s.vector 0 rs [n] (.next ((s.setCur ((filled.gleanDrop c).setP n got)).complete 8))

end Sys2Proof.Machine
end

