-- ==== Sys2Proof/Machine/Scalar.lean ====
section
/-!
DEFINITION. The meanings of SALU, SALUI, LI and of the 16-bit arithmetic forms (08 R185 to R188, 07 R155).
-/
namespace Sys2Proof.Machine

/-- R155, ADD d, d, sext(F). -/
def execCaddi (f : BitVec 6) (d : Reg) (s : State) : Res := s.aluEnd d (s.rd d + f.signExtend 64) 2

/-- R155, LI d, sext(F). -/
def execCli (f : BitVec 6) (d : Reg) (s : State) : Res := s.aluEnd d (f.signExtend 64) 2

/-- R155, SHL d, d, F. -/
def execCshli (f : BitVec 6) (d : Reg) (s : State) : Res := s.aluEnd d (aluShl (s.rd d) (f.setWidth 64)) 2

/-- R155, SHR d, d, F. -/
def execCshri (f : BitVec 6) (d : Reg) (s : State) : Res := s.aluEnd d (aluShr (s.rd d) (f.setWidth 64)) 2

/-- R155, SRA d, d, F. -/
def execCsrai (f : BitVec 6) (d : Reg) (s : State) : Res := s.aluEnd d (aluSra (s.rd d) (f.setWidth 64)) 2

/-- R155, AND d, d, sext(F). -/
def execCandi (f : BitVec 6) (d : Reg) (s : State) : Res := s.aluEnd d (s.rd d &&& f.signExtend 64) 2

/-- R155, OR d, a, s0. -/
def execCmov (a d : Reg) (s : State) : Res := s.aluEnd d (s.rd a) 2

/-- R155, ADD d, d, a. -/
def execCadd (a d : Reg) (s : State) : Res := s.aluEnd d (s.rd d + s.rd a) 2

/-- R155, ADD s0, s0, s0: no effect. -/
def execCnop (s : State) : Res := .next (s.complete 2)

/-- R186 (Table 8-1): add. -/
def execAdd (d a : Reg) (b : SrcB) (s : State) : Res :=
  s.aluEnd d (s.rd a + s.srcB b) (srcBLen b)

/-- R186 (Table 8-1): sub. -/
def execSub (d a : Reg) (b : SrcB) (s : State) : Res :=
  s.aluEnd d (s.rd a - s.srcB b) (srcBLen b)

/-- R186 (Table 8-1): and. -/
def execAnd (d a : Reg) (b : SrcB) (s : State) : Res :=
  s.aluEnd d (s.rd a &&& s.srcB b) (srcBLen b)

/-- R186 (Table 8-1): or. -/
def execOr (d a : Reg) (b : SrcB) (s : State) : Res :=
  s.aluEnd d (s.rd a ||| s.srcB b) (srcBLen b)

/-- R186 (Table 8-1): xor. -/
def execXor (d a : Reg) (b : SrcB) (s : State) : Res :=
  s.aluEnd d (s.rd a ^^^ s.srcB b) (srcBLen b)

/-- R186 (Table 8-1): shl. -/
def execShl (d a : Reg) (b : SrcB) (s : State) : Res :=
  s.aluEnd d (aluShl (s.rd a) (s.srcB b)) (srcBLen b)

/-- R186 (Table 8-1): shr. -/
def execShr (d a : Reg) (b : SrcB) (s : State) : Res :=
  s.aluEnd d (aluShr (s.rd a) (s.srcB b)) (srcBLen b)

/-- R186 (Table 8-1): sra. -/
def execSra (d a : Reg) (b : SrcB) (s : State) : Res :=
  s.aluEnd d (aluSra (s.rd a) (s.srcB b)) (srcBLen b)

/-- R186 (Table 8-1): mul. -/
def execMul (d a : Reg) (b : SrcB) (s : State) : Res :=
  s.aluEnd d (s.rd a * s.srcB b) (srcBLen b)

/-- R186 (Table 8-1): mulh. -/
def execMulh (d a : Reg) (b : SrcB) (s : State) : Res :=
  s.aluEnd d (aluMulh (s.rd a) (s.srcB b)) (srcBLen b)

/-- R186 (Table 8-1): mulh.u. -/
def execMulhU (d a : Reg) (b : SrcB) (s : State) : Res :=
  s.aluEnd d (aluMulhU (s.rd a) (s.srcB b)) (srcBLen b)

/-- R186 (Table 8-1): div. -/
def execDiv (d a : Reg) (b : SrcB) (s : State) : Res :=
  s.aluEnd d (aluDiv (s.rd a) (s.srcB b)) (srcBLen b)

/-- R186 (Table 8-1): div.u. -/
def execDivU (d a : Reg) (b : SrcB) (s : State) : Res :=
  s.aluEnd d (aluDivU (s.rd a) (s.srcB b)) (srcBLen b)

/-- R186 (Table 8-1): rem. -/
def execRem (d a : Reg) (b : SrcB) (s : State) : Res :=
  s.aluEnd d (aluRem (s.rd a) (s.srcB b)) (srcBLen b)

/-- R186 (Table 8-1): rem.u. -/
def execRemU (d a : Reg) (b : SrcB) (s : State) : Res :=
  s.aluEnd d (aluRemU (s.rd a) (s.srcB b)) (srcBLen b)

/-- R186 (Table 8-1): min. -/
def execMin (d a : Reg) (b : SrcB) (s : State) : Res :=
  s.aluEnd d (aluMin (s.rd a) (s.srcB b)) (srcBLen b)

/-- R186 (Table 8-1): min.u. -/
def execMinU (d a : Reg) (b : SrcB) (s : State) : Res :=
  s.aluEnd d (aluMinU (s.rd a) (s.srcB b)) (srcBLen b)

/-- R186 (Table 8-1): max. -/
def execMax (d a : Reg) (b : SrcB) (s : State) : Res :=
  s.aluEnd d (aluMax (s.rd a) (s.srcB b)) (srcBLen b)

/-- R186 (Table 8-1): max.u. -/
def execMaxU (d a : Reg) (b : SrcB) (s : State) : Res :=
  s.aluEnd d (aluMaxU (s.rd a) (s.srcB b)) (srcBLen b)

/-- R186 (Table 8-1): clz. -/
def execClz (d a : Reg) (s : State) : Res := s.aluEnd d (aluClz (s.rd a)) 4

/-- R186 (Table 8-1): popc. -/
def execPopc (d a : Reg) (s : State) : Res := s.aluEnd d (aluPopc (s.rd a)) 4

/-- R186 (Table 8-1): brev. -/
def execBrev (d a : Reg) (s : State) : Res := s.aluEnd d (aluBrev (s.rd a)) 4

/-- R187: ext. -/
def execExt (d a : Reg) (b : SrcB) (s : State) : Res :=
  s.aluEnd d (aluExt (s.rd a) (s.srcB b)) (srcBLen b)

/-- R187: ext.s. -/
def execExtS (d a : Reg) (b : SrcB) (s : State) : Res :=
  s.aluEnd d (aluExtS (s.rd a) (s.srcB b)) (srcBLen b)

/-- R187: ins; s[d] is a source too. -/
def execIns (d a : Reg) (b : SrcB) (s : State) : Res :=
  s.aluEnd d (aluIns (s.rd d) (s.rd a) (s.srcB b)) (srcBLen b)

/-- R186: madda, wrap(s[d] + sA × sB, 64). -/
def execMadda (d a : Reg) (b : SrcB) (s : State) : Res :=
  s.aluEnd d (s.rd d + s.rd a * s.srcB b) (srcBLen b)

/-- R185, R186: add with an immediate. -/
def execAddImm (d a : Reg) (i : Imm9) (s : State) : Res :=
  s.aluEnd d (s.rd a + imm9Val i) (imm9Len i)

/-- R185, R186: sub with an immediate. -/
def execSubImm (d a : Reg) (i : Imm9) (s : State) : Res :=
  s.aluEnd d (s.rd a - imm9Val i) (imm9Len i)

/-- R185, R186: and with an immediate. -/
def execAndImm (d a : Reg) (i : Imm9) (s : State) : Res :=
  s.aluEnd d (s.rd a &&& imm9Val i) (imm9Len i)

/-- R185, R186: or with an immediate. -/
def execOrImm (d a : Reg) (i : Imm9) (s : State) : Res :=
  s.aluEnd d (s.rd a ||| imm9Val i) (imm9Len i)

/-- R185, R186: xor with an immediate. -/
def execXorImm (d a : Reg) (i : Imm9) (s : State) : Res :=
  s.aluEnd d (s.rd a ^^^ imm9Val i) (imm9Len i)

/-- R185, R186: shl with an immediate. -/
def execShlImm (d a : Reg) (i : Imm9) (s : State) : Res :=
  s.aluEnd d (aluShl (s.rd a) (imm9Val i)) (imm9Len i)

/-- R185, R186: shr with an immediate. -/
def execShrImm (d a : Reg) (i : Imm9) (s : State) : Res :=
  s.aluEnd d (aluShr (s.rd a) (imm9Val i)) (imm9Len i)

/-- R185, R186: sra with an immediate. -/
def execSraImm (d a : Reg) (i : Imm9) (s : State) : Res :=
  s.aluEnd d (aluSra (s.rd a) (imm9Val i)) (imm9Len i)

/-- R185, R186: mul with an immediate. -/
def execMulImm (d a : Reg) (i : Imm9) (s : State) : Res :=
  s.aluEnd d (s.rd a * imm9Val i) (imm9Len i)

/-- R185, R186: mulh with an immediate. -/
def execMulhImm (d a : Reg) (i : Imm9) (s : State) : Res :=
  s.aluEnd d (aluMulh (s.rd a) (imm9Val i)) (imm9Len i)

/-- R185, R186: mulh.u with an immediate. -/
def execMulhUImm (d a : Reg) (i : Imm9) (s : State) : Res :=
  s.aluEnd d (aluMulhU (s.rd a) (imm9Val i)) (imm9Len i)

/-- R185, R186: div with an immediate. -/
def execDivImm (d a : Reg) (i : Imm9) (s : State) : Res :=
  s.aluEnd d (aluDiv (s.rd a) (imm9Val i)) (imm9Len i)

/-- R185, R186: div.u with an immediate. -/
def execDivUImm (d a : Reg) (i : Imm9) (s : State) : Res :=
  s.aluEnd d (aluDivU (s.rd a) (imm9Val i)) (imm9Len i)

/-- R185, R186: rem with an immediate. -/
def execRemImm (d a : Reg) (i : Imm9) (s : State) : Res :=
  s.aluEnd d (aluRem (s.rd a) (imm9Val i)) (imm9Len i)

/-- R185, R186: rem.u with an immediate. -/
def execRemUImm (d a : Reg) (i : Imm9) (s : State) : Res :=
  s.aluEnd d (aluRemU (s.rd a) (imm9Val i)) (imm9Len i)

/-- R185, R186: min with an immediate. -/
def execMinImm (d a : Reg) (i : Imm9) (s : State) : Res :=
  s.aluEnd d (aluMin (s.rd a) (imm9Val i)) (imm9Len i)

/-- R185, R186: min.u with an immediate. -/
def execMinUImm (d a : Reg) (i : Imm9) (s : State) : Res :=
  s.aluEnd d (aluMinU (s.rd a) (imm9Val i)) (imm9Len i)

/-- R185, R186: max with an immediate. -/
def execMaxImm (d a : Reg) (i : Imm9) (s : State) : Res :=
  s.aluEnd d (aluMax (s.rd a) (imm9Val i)) (imm9Len i)

/-- R185, R186: max.u with an immediate. -/
def execMaxUImm (d a : Reg) (i : Imm9) (s : State) : Res :=
  s.aluEnd d (aluMaxU (s.rd a) (imm9Val i)) (imm9Len i)

/-- R188: s[d] := sext(imm19, 19). -/
def execLi (d : Reg) (i : BitVec 19) (s : State) : Res := s.aluEnd d (i.signExtend 64) 4

/-- R188: s[d] := sext(literal, 32). -/
def execLiw (d : Reg) (l : BitVec 32) (s : State) : Res := s.aluEnd d (l.signExtend 64) 8

/-- R188: s[d] := literal × 2^32 + zext(s[d], 32). -/
def execLiwH (d : Reg) (l : BitVec 32) (s : State) : Res := s.aluEnd d (l ++ (s.rd d).setWidth 32) 8

end Sys2Proof.Machine
end

