-- ==== Sys2Proof/Machine/Dispatch.lean ====
section
/-!
DEFINITION. The one dispatch of the machine: each constructor of `Instr` and the meaning that gives its effect.
-/
namespace Sys2Proof.Machine

def exec (i : Instr) (s : State) : Host.Outcome State Fault Refusal :=
  match i with
  | .caddi f d => Sys2Proof.Machine.execCaddi f d s
  | .cli f d => Sys2Proof.Machine.execCli f d s
  | .cshli f d => Sys2Proof.Machine.execCshli f d s
  | .cshri f d => Sys2Proof.Machine.execCshri f d s
  | .csrai f d => Sys2Proof.Machine.execCsrai f d s
  | .candi f d => Sys2Proof.Machine.execCandi f d s
  | .cmov a d => Sys2Proof.Machine.execCmov a d s
  | .cadd a d => Sys2Proof.Machine.execCadd a d s
  | .cnop => Sys2Proof.Machine.execCnop s
  | .cqpush a q => Sys2Proof.Machine.execCqpush a q s
  | .cqpop d q => Sys2Proof.Machine.execCqpop d q s
  | .cbqpush a q => Sys2Proof.Machine.execCbqpush a q s
  | .cret => Sys2Proof.Machine.execCret s
  | .add d a b => Sys2Proof.Machine.execAdd d a b s
  | .sub d a b => Sys2Proof.Machine.execSub d a b s
  | .and d a b => Sys2Proof.Machine.execAnd d a b s
  | .or d a b => Sys2Proof.Machine.execOr d a b s
  | .xor d a b => Sys2Proof.Machine.execXor d a b s
  | .shl d a b => Sys2Proof.Machine.execShl d a b s
  | .shr d a b => Sys2Proof.Machine.execShr d a b s
  | .sra d a b => Sys2Proof.Machine.execSra d a b s
  | .mul d a b => Sys2Proof.Machine.execMul d a b s
  | .mulh d a b => Sys2Proof.Machine.execMulh d a b s
  | .mulhU d a b => Sys2Proof.Machine.execMulhU d a b s
  | .div d a b => Sys2Proof.Machine.execDiv d a b s
  | .divU d a b => Sys2Proof.Machine.execDivU d a b s
  | .rem d a b => Sys2Proof.Machine.execRem d a b s
  | .remU d a b => Sys2Proof.Machine.execRemU d a b s
  | .min d a b => Sys2Proof.Machine.execMin d a b s
  | .minU d a b => Sys2Proof.Machine.execMinU d a b s
  | .max d a b => Sys2Proof.Machine.execMax d a b s
  | .maxU d a b => Sys2Proof.Machine.execMaxU d a b s
  | .clz d a => Sys2Proof.Machine.execClz d a s
  | .popc d a => Sys2Proof.Machine.execPopc d a s
  | .brev d a => Sys2Proof.Machine.execBrev d a s
  | .ext d a b => Sys2Proof.Machine.execExt d a b s
  | .extS d a b => Sys2Proof.Machine.execExtS d a b s
  | .ins d a b => Sys2Proof.Machine.execIns d a b s
  | .madda d a b => Sys2Proof.Machine.execMadda d a b s
  | .addImm d a im => Sys2Proof.Machine.execAddImm d a im s
  | .subImm d a im => Sys2Proof.Machine.execSubImm d a im s
  | .andImm d a im => Sys2Proof.Machine.execAndImm d a im s
  | .orImm d a im => Sys2Proof.Machine.execOrImm d a im s
  | .xorImm d a im => Sys2Proof.Machine.execXorImm d a im s
  | .shlImm d a im => Sys2Proof.Machine.execShlImm d a im s
  | .shrImm d a im => Sys2Proof.Machine.execShrImm d a im s
  | .sraImm d a im => Sys2Proof.Machine.execSraImm d a im s
  | .mulImm d a im => Sys2Proof.Machine.execMulImm d a im s
  | .mulhImm d a im => Sys2Proof.Machine.execMulhImm d a im s
  | .mulhUImm d a im => Sys2Proof.Machine.execMulhUImm d a im s
  | .divImm d a im => Sys2Proof.Machine.execDivImm d a im s
  | .divUImm d a im => Sys2Proof.Machine.execDivUImm d a im s
  | .remImm d a im => Sys2Proof.Machine.execRemImm d a im s
  | .remUImm d a im => Sys2Proof.Machine.execRemUImm d a im s
  | .minImm d a im => Sys2Proof.Machine.execMinImm d a im s
  | .minUImm d a im => Sys2Proof.Machine.execMinUImm d a im s
  | .maxImm d a im => Sys2Proof.Machine.execMaxImm d a im s
  | .maxUImm d a im => Sys2Proof.Machine.execMaxUImm d a im s
  | .li d im => Sys2Proof.Machine.execLi d im s
  | .liw d l => Sys2Proof.Machine.execLiw d l s
  | .liwH d l => Sys2Proof.Machine.execLiwH d l s
  | .cbEq a b o => Sys2Proof.Machine.execCbEq a b o s
  | .cbNe a b o => Sys2Proof.Machine.execCbNe a b o s
  | .cbLt a b o => Sys2Proof.Machine.execCbLt a b o s
  | .cbGe a b o => Sys2Proof.Machine.execCbGe a b o s
  | .cbLtU a b o => Sys2Proof.Machine.execCbLtU a b o s
  | .cbGeU a b o => Sys2Proof.Machine.execCbGeU a b o s
  | .b o => Sys2Proof.Machine.execB o s
  | .bqb p o => Sys2Proof.Machine.execBqb p o s
  | .call o => Sys2Proof.Machine.execCall o s
  | .ret => Sys2Proof.Machine.execRet s
  | .jmpr a o => Sys2Proof.Machine.execJmpr a o s
  | .callr a => Sys2Proof.Machine.execCallr a s
  | .qpush q d => Sys2Proof.Machine.execQpush q d s
  | .qpop q d => Sys2Proof.Machine.execQpop q d s
  | .qdrop q b => Sys2Proof.Machine.execQdrop q b s
  | .qdropN q n => Sys2Proof.Machine.execQdropN q n s
  | .bqpush q d => Sys2Proof.Machine.execBqpush q d s
  | .wait l sc c t => Sys2Proof.Machine.execWait l sc c t s
  | .pause n => Sys2Proof.Machine.execPause n s
  | .cfgr d r => Sys2Proof.Machine.execCfgr d r s
  | .cfgw a r => Sys2Proof.Machine.execCfgw a r s
  | .capr d a => Sys2Proof.Machine.execCapr d a s
  | .trap c => Sys2Proof.Machine.execTrap c s
  | .uiret => Sys2Proof.Machine.execUiret s
  | .uimask v => Sys2Proof.Machine.execUimask v s
  | .launch d a b => Sys2Proof.Machine.execLaunch d a b s
  | .ld x z a d o => Sys2Proof.Machine.execLd x z a d o s
  | .st z a d o => Sys2Proof.Machine.execSt z a d o s
  | .ldIndexed c x z b a d => Sys2Proof.Machine.execLdIndexed c x z b a d s
  | .stIndexed c z b a d => Sys2Proof.Machine.execStIndexed c z b a d s
  | .ldq x z b a q => Sys2Proof.Machine.execLdq x z b a q s
  | .stq z b a q => Sys2Proof.Machine.execStq z b a q s
  | .lda sc z a d l => Sys2Proof.Machine.execLda sc z a d l s
  | .strel sc z a d l => Sys2Proof.Machine.execStrel sc z a d l s
  | .fence sc => Sys2Proof.Machine.execFence sc s
  | .pref a l => Sys2Proof.Machine.execPref a l s
  | .gadd sc o z b a => Sys2Proof.Machine.execGadd sc o z b a s
  | .gswap sc o z b a d => Sys2Proof.Machine.execGswap sc o z b a d s
  | .gcas sc o z b a d => Sys2Proof.Machine.execGcas sc o z b a d s
  | .gfadd sc o z b a d => Sys2Proof.Machine.execGfadd sc o z b a d s
  | .gbfadd sc o b a d => Sys2Proof.Machine.execGbfadd sc o b a d s
  | .gincw sc o z b a d => Sys2Proof.Machine.execGincw sc o z b a d s
  | .gmin sc o z b a d => Sys2Proof.Machine.execGmin sc o z b a d s
  | .gmax sc o z b a d => Sys2Proof.Machine.execGmax sc o z b a d s
  | .gand sc o z b a d => Sys2Proof.Machine.execGand sc o z b a d s
  | .gor sc o z b a d => Sys2Proof.Machine.execGor sc o z b a d s
  | .gswapQ sc o b a d => Sys2Proof.Machine.execGswapQ sc o b a d s
  | .gcasQ sc o b a d => Sys2Proof.Machine.execGcasQ sc o b a d s
  | .gandQ sc o b a d => Sys2Proof.Machine.execGandQ sc o b a d s
  | .gorQ sc o b a d => Sys2Proof.Machine.execGorQ sc o b a d s
  | .barinit sc o b a d => Sys2Proof.Machine.execBarinit sc o b a d s
  | .bararr sc o b a d => Sys2Proof.Machine.execBararr sc o b a d s
  | .barwait sc b a d => Sys2Proof.Machine.execBarwait sc b a d s
  | .barqry sc o a d => Sys2Proof.Machine.execBarqry sc o a d s
  | .rresv d a b => Sys2Proof.Machine.execRresv d a b s
  | .rpub d a b => Sys2Proof.Machine.execRpub d a b s
  | .wenq d a b => Sys2Proof.Machine.execWenq d a b s
  | .rpop d a => Sys2Proof.Machine.execRpop d a s
  | .rpeek d a => Sys2Proof.Machine.execRpeek d a s
  | .msend d a b => Sys2Proof.Machine.execMsend d a b s
  | .mstore d a b => Sys2Proof.Machine.execMstore d a b s
  | .seal d => Sys2Proof.Machine.execSeal d s
  | .sealw z b a d => Sys2Proof.Machine.execSealw z b a d s
  | .rinr d => Sys2Proof.Machine.execRinr d s
  | .vadd g d a b => Sys2Proof.Machine.execVadd g d a b s
  | .vsub g d a b => Sys2Proof.Machine.execVsub g d a b s
  | .vmul g d a b => Sys2Proof.Machine.execVmul g d a b s
  | .vmin g d a b => Sys2Proof.Machine.execVmin g d a b s
  | .vmax g d a b => Sys2Proof.Machine.execVmax g d a b s
  | .vand g d a b => Sys2Proof.Machine.execVand g d a b s
  | .vor g d a b => Sys2Proof.Machine.execVor g d a b s
  | .vxor g d a b => Sys2Proof.Machine.execVxor g d a b s
  | .vmulh g d a b => Sys2Proof.Machine.execVmulh g d a b s
  | .vmulhU g d a b => Sys2Proof.Machine.execVmulhU g d a b s
  | .vminU g d a b => Sys2Proof.Machine.execVminU g d a b s
  | .vmaxU g d a b => Sys2Proof.Machine.execVmaxU g d a b s
  | .vaddSat g d a b => Sys2Proof.Machine.execVaddSat g d a b s
  | .vsubSat g d a b => Sys2Proof.Machine.execVsubSat g d a b s
  | .vdiv g d a b => Sys2Proof.Machine.execVdiv g d a b s
  | .vdivU g d a b => Sys2Proof.Machine.execVdivU g d a b s
  | .vrem g d a b => Sys2Proof.Machine.execVrem g d a b s
  | .vremU g d a b => Sys2Proof.Machine.execVremU g d a b s
  | .vshl g d a b => Sys2Proof.Machine.execVshl g d a b s
  | .vshr g d a b => Sys2Proof.Machine.execVshr g d a b s
  | .vsra g d a b => Sys2Proof.Machine.execVsra g d a b s
  | .vabs g d a => Sys2Proof.Machine.execVabs g d a s
  | .vnot g d a => Sys2Proof.Machine.execVnot g d a s
  | .vclz g d a => Sys2Proof.Machine.execVclz g d a s
  | .vpopc g d a => Sys2Proof.Machine.execVpopc g d a s
  | .vmadd g d a b => Sys2Proof.Machine.execVmadd g d a b s
  | .vaddImm g d a im => Sys2Proof.Machine.execVaddImm g d a im s
  | .vsubImm g d a im => Sys2Proof.Machine.execVsubImm g d a im s
  | .vmulImm g d a im => Sys2Proof.Machine.execVmulImm g d a im s
  | .vminImm g d a im => Sys2Proof.Machine.execVminImm g d a im s
  | .vmaxImm g d a im => Sys2Proof.Machine.execVmaxImm g d a im s
  | .vandImm g d a im => Sys2Proof.Machine.execVandImm g d a im s
  | .vorImm g d a im => Sys2Proof.Machine.execVorImm g d a im s
  | .vxorImm g d a im => Sys2Proof.Machine.execVxorImm g d a im s
  | .vmulhImm g d a im => Sys2Proof.Machine.execVmulhImm g d a im s
  | .vmulhUImm g d a im => Sys2Proof.Machine.execVmulhUImm g d a im s
  | .vminUImm g d a im => Sys2Proof.Machine.execVminUImm g d a im s
  | .vmaxUImm g d a im => Sys2Proof.Machine.execVmaxUImm g d a im s
  | .vaddSatImm g d a im => Sys2Proof.Machine.execVaddSatImm g d a im s
  | .vsubSatImm g d a im => Sys2Proof.Machine.execVsubSatImm g d a im s
  | .vdivImm g d a im => Sys2Proof.Machine.execVdivImm g d a im s
  | .vdivUImm g d a im => Sys2Proof.Machine.execVdivUImm g d a im s
  | .vremImm g d a im => Sys2Proof.Machine.execVremImm g d a im s
  | .vremUImm g d a im => Sys2Proof.Machine.execVremUImm g d a im s
  | .vshlImm g d a im => Sys2Proof.Machine.execVshlImm g d a im s
  | .vshrImm g d a im => Sys2Proof.Machine.execVshrImm g d a im s
  | .vsraImm g d a im => Sys2Proof.Machine.execVsraImm g d a im s
  | .vmaddImm g d a im => Sys2Proof.Machine.execVmaddImm g d a im s
  | .vfadd g d a b => Sys2Proof.Machine.execVfadd g d a b s
  | .vfsub g d a b => Sys2Proof.Machine.execVfsub g d a b s
  | .vfmul g d a b => Sys2Proof.Machine.execVfmul g d a b s
  | .vfmin g d a b => Sys2Proof.Machine.execVfmin g d a b s
  | .vfmax g d a b => Sys2Proof.Machine.execVfmax g d a b s
  | .vfma g d a b => Sys2Proof.Machine.execVfma g d a b s
  | .vfms g d a b => Sys2Proof.Machine.execVfms g d a b s
  | .vfdiv g d a b => Sys2Proof.Machine.execVfdiv g d a b s
  | .vfaddRm rm g d a b => Sys2Proof.Machine.execVfaddRm rm g d a b s
  | .vfsubRm rm g d a b => Sys2Proof.Machine.execVfsubRm rm g d a b s
  | .vfmulRm rm g d a b => Sys2Proof.Machine.execVfmulRm rm g d a b s
  | .vfminRm rm g d a b => Sys2Proof.Machine.execVfminRm rm g d a b s
  | .vfmaxRm rm g d a b => Sys2Proof.Machine.execVfmaxRm rm g d a b s
  | .vfmaRm rm g d a b => Sys2Proof.Machine.execVfmaRm rm g d a b s
  | .vfmsRm rm g d a b => Sys2Proof.Machine.execVfmsRm rm g d a b s
  | .vfdivRm rm g d a b => Sys2Proof.Machine.execVfdivRm rm g d a b s
  | .vfsqrt rm g d a => Sys2Proof.Machine.execVfsqrt rm g d a s
  | .vfrcp g d a => Sys2Proof.Machine.execVfrcp g d a s
  | .vfrsq g d a => Sys2Proof.Machine.execVfrsq g d a s
  | .vfexp2 g d a => Sys2Proof.Machine.execVfexp2 g d a s
  | .vflog2 g d a => Sys2Proof.Machine.execVflog2 g d a s
  | .vfabs g d a => Sys2Proof.Machine.execVfabs g d a s
  | .vfneg g d a => Sys2Proof.Machine.execVfneg g d a s
  | .vfnma rm g d a b => Sys2Proof.Machine.execVfnma rm g d a b s
  | .vfaddImm rm g d a im => Sys2Proof.Machine.execVfaddImm rm g d a im s
  | .vfsubImm rm g d a im => Sys2Proof.Machine.execVfsubImm rm g d a im s
  | .vfmulImm rm g d a im => Sys2Proof.Machine.execVfmulImm rm g d a im s
  | .vfminImm rm g d a im => Sys2Proof.Machine.execVfminImm rm g d a im s
  | .vfmaxImm rm g d a im => Sys2Proof.Machine.execVfmaxImm rm g d a im s
  | .vfmaImm rm g d a im => Sys2Proof.Machine.execVfmaImm rm g d a im s
  | .vfmsImm rm g d a im => Sys2Proof.Machine.execVfmsImm rm g d a im s
  | .vfdivImm rm g d a im => Sys2Proof.Machine.execVfdivImm rm g d a im s
  | .vfnmaImm rm g d a im => Sys2Proof.Machine.execVfnmaImm rm g d a im s
  | .vhadd f rm sat g d a b => Sys2Proof.Machine.execVhadd f rm sat g d a b s
  | .vhsub f rm sat g d a b => Sys2Proof.Machine.execVhsub f rm sat g d a b s
  | .vhmul f rm sat g d a b => Sys2Proof.Machine.execVhmul f rm sat g d a b s
  | .vhmin f rm sat g d a b => Sys2Proof.Machine.execVhmin f rm sat g d a b s
  | .vhmax f rm sat g d a b => Sys2Proof.Machine.execVhmax f rm sat g d a b s
  | .vhfma f rm sat g d a b => Sys2Proof.Machine.execVhfma f rm sat g d a b s
  | .vcvt f f2 rm sat g d a => Sys2Proof.Machine.execVcvt f f2 rm sat g d a s
  | .vcvtPk f f2 rm sat j d a => Sys2Proof.Machine.execVcvtPk f f2 rm sat j d a s
  | .vcvtUpk f f2 rm sat j d a => Sys2Proof.Machine.execVcvtUpk f f2 rm sat j d a s
  | .vcmpEq g p a b => Sys2Proof.Machine.execVcmpEq g p a b s
  | .vcmpNe g p a b => Sys2Proof.Machine.execVcmpNe g p a b s
  | .vcmpLt g p a b => Sys2Proof.Machine.execVcmpLt g p a b s
  | .vcmpLe g p a b => Sys2Proof.Machine.execVcmpLe g p a b s
  | .vcmpEqFmt f hi g p a b => Sys2Proof.Machine.execVcmpEqFmt f hi g p a b s
  | .vcmpNeFmt f hi g p a b => Sys2Proof.Machine.execVcmpNeFmt f hi g p a b s
  | .vcmpLtFmt f hi g p a b => Sys2Proof.Machine.execVcmpLtFmt f hi g p a b s
  | .vcmpLeFmt f hi g p a b => Sys2Proof.Machine.execVcmpLeFmt f hi g p a b s
  | .vcmpLtU g p a b => Sys2Proof.Machine.execVcmpLtU g p a b s
  | .vcmpLeU g p a b => Sys2Proof.Machine.execVcmpLeU g p a b s
  | .vcmpUn f hi g p a b => Sys2Proof.Machine.execVcmpUn f hi g p a b s
  | .vcmpOrd f hi g p a b => Sys2Proof.Machine.execVcmpOrd f hi g p a b s
  | .vmov g d a => Sys2Proof.Machine.execVmov g d a s
  | .vsel n g d a b => Sys2Proof.Machine.execVsel n g d a b s
  | .vperm g d a b => Sys2Proof.Machine.execVperm g d a b s
  | .vbcast n g d a => Sys2Proof.Machine.execVbcast n g d a s
  | .vshup n g d a b => Sys2Proof.Machine.execVshup n g d a b s
  | .vshdn n g d a b => Sys2Proof.Machine.execVshdn n g d a b s
  | .vidx im g d => Sys2Proof.Machine.execVidx im g d s
  | .vredadd g d a b => Sys2Proof.Machine.execVredadd g d a b s
  | .vredmin g d a b => Sys2Proof.Machine.execVredmin g d a b s
  | .vredmax g d a b => Sys2Proof.Machine.execVredmax g d a b s
  | .vfredadd rm g d a b => Sys2Proof.Machine.execVfredadd rm g d a b s
  | .vfredmin g d a b => Sys2Proof.Machine.execVfredmin g d a b s
  | .vfredmax g d a b => Sys2Proof.Machine.execVfredmax g d a b s
  | .vbcasts g d a => Sys2Proof.Machine.execVbcasts g d a s
  | .vpop g d q => Sys2Proof.Machine.execVpop g d q s
  | .vpush g a q => Sys2Proof.Machine.execVpush g a q s
  | .trow g d a t => Sys2Proof.Machine.execTrow g d a t s
  | .twrow g d a t => Sys2Proof.Machine.execTwrow g d a t s
  | .tempty t => Sys2Proof.Machine.execTempty t s
  | .tfill t => Sys2Proof.Machine.execTfill t s
  | .twait t => Sys2Proof.Machine.execTwait t s
  | .brc a o => Sys2Proof.Machine.execBrc a o s
  | .brcQ o => Sys2Proof.Machine.execBrcQ o s
  | .pand d a b => Sys2Proof.Machine.execPand d a b s
  | .por d a b => Sys2Proof.Machine.execPor d a b s
  | .pxor d a b => Sys2Proof.Machine.execPxor d a b s
  | .pnot d a => Sys2Proof.Machine.execPnot d a s
  | .pcnt sc a b => Sys2Proof.Machine.execPcnt sc a b s
  | .pfirst d a => Sys2Proof.Machine.execPfirst d a s
  | .gmap p n g => Sys2Proof.Machine.execGmap p n g s
  | .glean tag nv g a => Sys2Proof.Machine.execGlean tag nv g a s
  | .gdrain n nv m d => Sys2Proof.Machine.execGdrain n nv m d s
  | .nset f v => Sys2Proof.Machine.execNset f v s
  | .mma u m f g d => Sys2Proof.Machine.execMma u m f g d s
  | .mmag u m f g d => Sys2Proof.Machine.execMmag u m f g d s
  | .mmags u m f g d => Sys2Proof.Machine.execMmags u m f g d s
  | .plane u r g d => Sys2Proof.Machine.execPlane u r g d s
  | .sacc u m f g a d => Sys2Proof.Machine.execSacc u m f g a d s
  | .kld g a k => Sys2Proof.Machine.execKld g a k s
  | .drain u m f g d => Sys2Proof.Machine.execDrain u m f g d s
  | .gclr u a d => Sys2Proof.Machine.execGclr u a d s
  | .copyj u d => Sys2Proof.Machine.execCopyj u d s
  | .jobw c a d => Sys2Proof.Machine.execJobw c a d s
  | .publish a d => Sys2Proof.Machine.execPublish a d s
  | .rep b a d c => Sys2Proof.Machine.execRep b a d c s
  | .hint h a d l => Sys2Proof.Machine.execHint h a d l s
  | .hintLoopBufferResident a d l => Sys2Proof.Machine.execHintLoopBufferResident a d l s
  | .hintFreeQueueSlots a d l => Sys2Proof.Machine.execHintFreeQueueSlots a d l s
  | .hintPinRequest a d l => Sys2Proof.Machine.execHintPinRequest a d l s
  | .blk e c p r l => Sys2Proof.Machine.execBlk e c p r l s
  | .strandEnd => Sys2Proof.Machine.execStrandEnd s
  | .userInterruptTake => Sys2Proof.Machine.execUserInterruptTake s
  | .pauseExpiry => Sys2Proof.Machine.execPauseExpiry s
  | .hangCapture => Sys2Proof.Machine.execHangCapture s
  | .ldqEntryPush k => Sys2Proof.Machine.execLdqEntryPush k s
  | .stqElementStore k => Sys2Proof.Machine.execStqElementStore k s
  | .barwaitBoundExpiry => Sys2Proof.Machine.execBarwaitBoundExpiry s
  | .jobHandoff u => Sys2Proof.Machine.execJobHandoff u s
  | .blockEmit => Sys2Proof.Machine.execBlockEmit s
  | .saccBufferRead => Sys2Proof.Machine.execSaccBufferRead s
  | .tilePortClaim u => Sys2Proof.Machine.execTilePortClaim u s
  | .copyBarrierArrival k => Sys2Proof.Machine.execCopyBarrierArrival k s
  | .jobRetire u => Sys2Proof.Machine.execJobRetire u s
  | .jobRunningFault u c addr => Sys2Proof.Machine.execJobRunningFault u c addr s
  | .remoteTimeout die tag => Sys2Proof.Machine.execRemoteTimeout die tag s
  | .faultRecordPublish => Sys2Proof.Machine.execFaultRecordPublish s
  | .preemption lvl => Sys2Proof.Machine.execPreemption lvl s
  | .sresumeResume stag six => Sys2Proof.Machine.execSresumeResume stag six s
  | .sresumeEnd stag six => Sys2Proof.Machine.execSresumeEnd stag six s
  | .contextSave core w => Sys2Proof.Machine.execContextSave core w s
  | .contextRestore core w => Sys2Proof.Machine.execContextRestore core w s
  | .expansionTableLoad die w => Sys2Proof.Machine.execExpansionTableLoad die w s
  | .expansionTableSwitch core => Sys2Proof.Machine.execExpansionTableSwitch core s
  | .registerWrite m die off w => Sys2Proof.Machine.execRegisterWrite m die off w s
  | .xshoot m die w => Sys2Proof.Machine.execXshoot m die w s
  | .shootdownComplete die => Sys2Proof.Machine.execShootdownComplete die s
  | .migration asid va toDie frame => Sys2Proof.Machine.execMigration asid va toDie frame s
  | .migrationCountHalving die => Sys2Proof.Machine.execMigrationCountHalving die s
  | .remoteRequest die tag => Sys2Proof.Machine.execRemoteRequest die tag s
  | .refusalNotice die tag => Sys2Proof.Machine.execRefusalNotice die tag s
  | .backoffExpiry die dst => Sys2Proof.Machine.execBackoffExpiry die dst s
  | .reply die tag => Sys2Proof.Machine.execReply die tag s
  | .lineEviction die line => Sys2Proof.Machine.execLineEviction die line s
  | .multicastMemberWrite die tag im => Sys2Proof.Machine.execMulticastMemberWrite die tag im s
  | .multicastReply die tag => Sys2Proof.Machine.execMulticastReply die tag s
  | .dataFlit link ok => Sys2Proof.Machine.execDataFlit link ok s
  | .marker link ok => Sys2Proof.Machine.execMarker link ok s
  | .acknowledgement link upTo => Sys2Proof.Machine.execAcknowledgement link upTo s
  | .negativeAcknowledgement link seq => Sys2Proof.Machine.execNegativeAcknowledgement link seq s
  | .rotationRequest link => Sys2Proof.Machine.execRotationRequest link s
  | .kickclr die slot => Sys2Proof.Machine.execKickclr die slot s
  | .nodestart inst node => Sys2Proof.Machine.execNodestart inst node s
  | .loopPass inst node => Sys2Proof.Machine.execLoopPass inst node s
  | .eventNodeTest inst node => Sys2Proof.Machine.execEventNodeTest inst node s
  | .nodeend inst node => Sys2Proof.Machine.execNodeend inst node s
  | .complete die slot => Sys2Proof.Machine.execComplete die slot s
  | .dispatch die slot => Sys2Proof.Machine.execDispatch die slot s
  | .snap die slot => Sys2Proof.Machine.execSnap die slot s
  | .dispatcherFailure die slot => Sys2Proof.Machine.execDispatcherFailure die slot s
  | .hlctlGo m die w => Sys2Proof.Machine.execHlctlGo m die w s
  | .replayStop inst die => Sys2Proof.Machine.execReplayStop inst die s
  | .replayHandover inst => Sys2Proof.Machine.execReplayHandover inst s
  | .speculationStart tid q die => Sys2Proof.Machine.execSpeculationStart tid q die s
  | .claim tid q => Sys2Proof.Machine.execClaim tid q s
  | .predctlFlush m die => Sys2Proof.Machine.execPredctlFlush m die s
  | .grantCreate die idx g => Sys2Proof.Machine.execGrantCreate die idx g s
  | .mailboxNotify k => Sys2Proof.Machine.execMailboxNotify k s
  | .sreq m die => Sys2Proof.Machine.execSreq m die s
  | .barrier => Sys2Proof.Machine.execBarrier s
  | .preempt => Sys2Proof.Machine.execPreempt s
  | .flush => Sys2Proof.Machine.execFlush s
  | .vote die => Sys2Proof.Machine.execVote die s
  | .commit => Sys2Proof.Machine.execCommit s
  | .release => Sys2Proof.Machine.execRelease s
  | .metadataScrub die line => Sys2Proof.Machine.execMetadataScrub die line s
  | .patrolScrub die line => Sys2Proof.Machine.execPatrolScrub die line s
  | .rbreq m die => Sys2Proof.Machine.execRbreq m die s
  | .errinj m die w => Sys2Proof.Machine.execErrinj m die w s
  | .powerUp => Sys2Proof.Machine.execPowerUp s
  | .ownctlClaim m => Sys2Proof.Machine.execOwnctlClaim m s
  | .ownctlRelease m succ => Sys2Proof.Machine.execOwnctlRelease m succ s
  | .packageReset m => Sys2Proof.Machine.execPackageReset m s
  | .frzThaw m bits => Sys2Proof.Machine.execFrzThaw m bits s
  | .attctl m w => Sys2Proof.Machine.execAttctl m w s
  | .swtrig m => Sys2Proof.Machine.execSwtrig m s
  | .externalPin => Sys2Proof.Machine.execExternalPin s
  | .thermalWarn die temp => Sys2Proof.Machine.execThermalWarn die temp s
  | .thermalCrit die temp => Sys2Proof.Machine.execThermalCrit die temp s
  | .hostWrite die pa bytes => Sys2Proof.Machine.execHostWrite die pa bytes s
  | .hostSnoop die pa => Sys2Proof.Machine.execHostSnoop die pa s
  | .illegalEncoding => Sys2Proof.Machine.execIllegalEncoding s
  | .packageRingLinkDown link => Sys2Proof.Machine.execPackageRingLinkDown link s
  | .thermalRecovery die temp => Sys2Proof.Machine.execThermalRecovery die temp s
  | .traceSignal inst die sem => Sys2Proof.Machine.execTraceSignal inst die sem s
  | .tentCreation t => Sys2Proof.Machine.execTentCreation t s
  | .ringRegistration r => Sys2Proof.Machine.execRingRegistration r s
  | .grantRevocation die idx => Sys2Proof.Machine.execGrantRevocation die idx s
  | .ceilingLowering tid c => Sys2Proof.Machine.execCeilingLowering tid c s
  | .limitChange tid cls v => Sys2Proof.Machine.execLimitChange tid cls v s

end Sys2Proof.Machine
end

