-- ==== Sys2Proof/Machine/Portable.lean ====
section
/-!
DEFINITION. The run of a portable-form section (07 R180, R181) on the execute stream of one strand of its task: for each
element in turn the input slots are loaded, the body's words executed one a step, and the write slots stored
(assumption log 20).
-/
namespace Sys2Proof.Machine

/-- The argument words of the current strand's task. -/
def State.taskWords (s : State) : List Word := ((s.dev.task s.cur.id.task).map (·.args)).getD []

/-- The offset of element e of a stream (R178). -/
def WpfStream.offset (x : WpfStream) (args : List Word) (e : Nat) : Int :=
  (x.dims.foldl (fun (acc : Int × Nat) d =>
    let c := wpfCount args d.1
    (acc.1 + (acc.2 % c : Nat) * d.2, acc.2 / c)) ((0 : Int), e)).1

/-- The address of element e of a stream. -/
def WpfStream.elemAddr (x : WpfStream) (args : List Word) (e : Nat) : Word :=
  args.getD x.base 0 + BitVec.ofInt 64 (x.offset args e)

/-- The bytes of an element. -/
def WpfStream.bytes (x : WpfStream) : Nat := formatWidth x.fmt / 8

/-- The format of a slot: FP32 for a float stream, INT32 for an integer one (R180). -/
def slotFmt (f : BitVec 4) : BitVec 4 := if isFloat f then 0xE else 0x6

/-- An element read for the section; its faults are those of a native access (R181). -/
def State.wpfRead (s : State) (ea : Word) (n : Nat) (k : State → Nat → State) : State :=
  match s.check .load 1 false ea n with
  | .fault c a => s.raiseAt c 0 a 0
  | .wait => s.idle
  | .ok ps =>
    if s.specBarred ea ps then s.unlessSpec s
    else if !s.clearToGo ps then s.idle
    else match s.poisonIn ps with
      | [] => k (s.readParts ea ps).1 (leNat (s.readParts ea ps).2)
      | ls => s.poisoned ls (s.faultRec 0x10 s.who.num false 0 s.me.iaddr (s.poisonAddr ea ps) 0)

/-- An element written for the section, with the stalls and faults of a native store (R181). -/
def State.wpfWrite (s : State) (ea : Word) (bs : List Byte) (k : State → State) : State :=
  match s.check .store 1 false ea bs.length with
  | .fault c a => s.raiseAt c (chkDetail c 1) a 0
  | .wait => s.idle
  | .ok ps =>
    if s.specBarred ea ps then s.unlessSpec s
    else if !s.clearToGo ps then s.idle
    else match s.commitAll ea 1 ps with
      | .fault c d a x => s.raise c d a x
      | .full => s.stallOn 7
      | .done t =>
        if t.logStall ps then s.stallOn 7
        else if s.holdFull ps then s.idle.setDev s.dev.requestSeal
        else k (t.storeNow ea ps bs)

/-- The input slots of an element loaded, in the order of the streams. Each is converted to its slot format, so a NaN of an
FP32 stream loads as the canonical NaN (DESIGN CHOICE, unsafe, assumption log 100: R180 does not say whether its payload is
kept). -/
def State.loadSlots (s : State) (args : List Word) (e : Nat) (k : State → State) : List (Nat × WpfStream) → State
  | [] => k s
  | (n, x) :: rest =>
    if x.write then s.loadSlots args e k rest
    else s.wpfRead (x.elemAddr args e) x.bytes fun t c =>
      let v : Lane := BitVec.ofNat 32 (convert (slotFmt x.fmt) x.fmt 0 false c).1
      (t.setCur (t.cur.setV (BitVec.ofNat 6 n) (ofLanes fun _ => v))).loadSlots args e k rest

/-- The registers of an element's run (R180): temporaries and predicates zero, every alias bound to p0. -/
def Strand.wpfClear (k : Strand) : Strand :=
  { k with v := Vector.replicate 64 0, p := Vector.replicate 96 0, gmap := Vector.replicate 8 0 }

/-- The write slots that the run enabled stored, in the order of the streams. -/
def State.storeSlots (s : State) (args : List Word) (e : Nat) (wrote : List Nat) (k : State → State) : List (Nat × WpfStream) → State
  | [] => k s
  | (n, x) :: rest =>
    if !x.write || !wrote.contains n then s.storeSlots args e wrote k rest
    else
      let r := convert x.fmt (slotFmt x.fmt) 0 false (s.lane (BitVec.ofNat 6 n) 0).toNat
      (s.raiseFlags r.2).wpfWrite (x.elemAddr args e) (natLe x.bytes r.1) fun t => t.storeSlots args e wrote k rest

/-- The numbered streams of a section. -/
def wpfSlots (w : List Byte) : List (Nat × WpfStream) := (upto (wpfNs w)).zip (wpfStreams w)

/-- The start of an element's run: its inputs loaded, or the end of the section after the last element. -/
def State.beginElement (s : State) (p : Portable) : State :=
  let args := s.taskWords
  let n := ((wpfStreams p.wpf).head?.map fun x => x.count args).getD 0
  if n ≤ p.elem then s.setMe { s.me with run := .ended }
  else (s.setCur s.cur.wpfClear).loadSlots args p.elem (fun t => t.setMe { t.me with atHeader := false }) (wpfSlots p.wpf)

/-- The end of an element's run: its outputs stored, and the next element. -/
def State.endElement (s : State) (p : Portable) : State :=
  s.storeSlots s.taskWords p.elem p.wrote (fun t =>
    let u := t.setCur { t.cur with portable := some { p with elem := p.elem + 1, wrote := [] } }
    u.setMe { u.me.calm with pc := p.base, atHeader := true }) (wpfSlots p.wpf)

/-- The write slot that a body word's instruction enables, in the one lane of the run. -/
def State.slotWritten (s : State) (ns : Nat) (c : Code) : List Nat :=
  let f : Option Framed := match c with
    | .half _ => none
    | .word w => some { off := 0, hdr := 0, word := w, lit := none }
    | .wide w l => some { off := 0, hdr := 0, word := w, lit := some l }
  match f with
  | none => []
  | some x =>
    if !(s.cur.mask (bits x.word 7 3)).getLsbD 0 then []
    else match wpfFields x with
      | some (_, ws, _) => ws.filter fun d => d < ns
      | none => []

/-- The next body word of an element's run executed. -/
noncomputable def State.wpfWord (s : State) (p : Portable) : Res :=
  match frameBytes ((wpfBody p.wpf).drop (s.me.pc - p.base).toNat) with
  | some c => match decode c with
    | some i => exec i (s.setCur { s.cur with portable := some { p with wrote := s.slotWritten (wpfNs p.wpf) c ++ p.wrote } })
    | none => exec .illegalEncoding s
  | none => exec .illegalEncoding s

/-- R180, R181: a step of the execute stream that runs a section. -/
noncomputable def runPortable (s : State) (p : Portable) : Res :=
  if !s.me.atHeader then s.wpfWord p
  else if s.me.pc = p.base then .next (s.beginElement p)
  else .next (s.endElement p)

end Sys2Proof.Machine
end

