-- ==== Sys2Proof/Machine/Schedule.lean ====
section
/-!
DEFINITION. What a step does around the execution of an instruction: whose turn counts, when an interrupt is taken (R72),
deferred faults (R215, R341), which of the engines' events is due, and the stream that issues each family (R49).
-/
namespace Sys2Proof.Machine

/-- Whether the issuing stream may start an instruction (R19, R22, R192, R337, R348). -/
def State.mayRun (s : State) : Bool :=
  s.cur.resident && !s.cur.frozen && !s.cur.parked && s.cur.spillReady && s.me.run == .running

/-- Whether the access stream of a frozen strand has an instruction under way whose effects have begun: it goes on to its
boundary, with the reply it waits for or the writes its claim allows (R337, R344). -/
def State.finishes (s : State) : Bool :=
  s.cur.resident && s.cur.frozen && !s.cur.parked && s.who == .a && s.me.run == .running &&
    (s.me.reply.isSome || s.me.claim.isSome)

/-- Whether the issuing stream of a strand that has just frozen still has its turn in the cycle of the freeze, in which a
fault of its own gives a record too (R341). -/
def State.inFaultCycle (s : State) : Bool :=
  s.cur.resident && s.cur.frozen && !s.cur.hung && !s.cur.parked && s.cur.spillReady && s.me.run == .running && s.me.pause = 0 &&
    s.cur.published = 0 && !s.cur.turned.contains s.who && !s.cur.faults.any fun r => r.src.toNat == s.who.num

/-- The strand after such a turn: the records stand in the order control, access, execute, jobs (R341). -/
def Strand.tookTurn (k : Strand) (t : StreamId) : Strand :=
  if k.resident then { k with turned := t :: k.turned, faults := sortBy (fun a b => a.src.toNat ≤ b.src.toNat) k.faults } else k

/-- Whether the control stream takes a user-level interrupt at this boundary (R72). -/
def State.takesInterrupt (s : State) : Bool := s.who == .c && s.interruptible

/-- Whether an instruction is one that step 1 of Table 15-13 stalls (R344): a job issue, KLD, PUBLISH or LAUNCH. -/
def isJobIssue : Instr → Bool
  | .mma _ _ _ _ _ | .mmag _ _ _ _ _ | .mmags _ _ _ _ _ | .plane _ _ _ _ | .sacc _ _ _ _ _ _ | .drain _ _ _ _ _ | .gclr _ _ _
  | .copyj _ _ | .kld _ _ _ | .publish _ _ | .launch _ _ _ => true
  | _ => false

/-- Whether the current strand's sheaf is asked to stop for a pre-emption (R344). -/
def State.stopping (s : State) : Bool :=
  (s.dev.sheaf s.cur.id.die.toNat s.cur.id.stag.toNat).any fun h => h.stopping

/-- Whether the control stream waits at an instruction without executing it, for a pre-emption (step 1 of Table 15-13). -/
def State.holdsBack (s : State) (i : Instr) : Bool := s.stopping && isJobIssue i

/-- Whether a deferred fault is due at this boundary of the access stream (R215, R218). -/
def State.hasDeferred (s : State) : Bool := s.who == .a && !s.cur.deferred.isEmpty && s.me.rep.isNone

/-- Whether the next element of an STQ stream, or a store that waits behind queue streams, needs an undo entry that a full log
has no room for: the access stream stalls as kind 7 (R417, Table 9-12). -/
def State.elementFull (s : State) : Bool :=
  s.who == .a && s.cur.qstreams.any fun q => q.store && q.entry < q.count && (q.held.isSome || !s.emptyQ q.queue) &&
    (match s.check .store 1 false (q.addr q.entry q.elem) q.width with
      | .ok ps => s.logStall ps
      | _ => false)

/-- The deferred faults taken: the strand freezes with their records. -/
def State.takeDeferred (s : State) : State :=
  s.setCur { s.cur with frozen := true, faults := s.cur.faults ++ s.cur.deferred, deferred := [] }

/-- The ages of requests and of what is still under way of those that timed out rise by the cycle a round of turns stands
for (R370, R372, assumption log 7), the cycle of a freeze or of a lantern latch has passed (R341, R442), a request for a report that
waits is served (R438), and a doorbell of the die that is busy tries its publication again (R305). -/
def State.tick (s : State) : State :=
  let s := if s.cur.frozen then s.setCur { s.cur with turned := [.c, .a, .x] } else s
  let s := (s.setMan { s.dev.man with latching := false }).attest
  let t := s.setMyDie { s.myDie with
    requests := s.myDie.requests.map fun r => { r with age := r.age + 1 }
    strays := s.myDie.strays.map fun x => { x with req := { x.req with age := x.req.age + 1 } } }
  (upto 3).foldl (fun u b => u.tryBell s.cur.id.die.toNat b) t

/-- The first job event of the current core that is due: a hand-over, a running fault, a block, a partial buffer, a tile
claim, an arrival, accesses or a retirement. -/
noncomputable def jobEvent (s : State) : Option Instr :=
  let units := [JobUnit.mul, JobUnit.port, JobUnit.copy]
  let ports := [FillPort.drain, FillPort.copy]
  let fault (u : JobUnit) : Option Instr := (s.jobProblem u).map fun p => .jobRunningFault u p.2.2.1 p.2.2.2.1
  let moves (u : JobUnit) : Bool :=
    !s.jobsHeld && (s.cur.unitCards u).any fun c =>
      if cardHeld (s.cur.unitQueue u) c then !c.tags.isEmpty && s.copyAnswered c else s.performable c
  ((units.find? fun u => (s.handoff u).isSome).map fun u => Instr.jobHandoff u) <|>
    (units.findSome? fault) <|>
    (match s.nextBody with
     | some (_, .done _ _) | some (_, .filling _) => some .blockEmit
     | _ => none) <|>
    (if s.saccReady.isSome then some .saccBufferRead else none) <|>
    ((ports.find? fun u => (s.claimable u).isSome).map fun u => Instr.tilePortClaim u) <|>
    (((upto s.cur.jobs.fills.length).find? fun k => (s.fillReady k).isSome).map fun k => Instr.tilePortClaim (.remote k)) <|>
    (((upto s.cur.jobs.cpq.length).find? fun k => (s.arrivalDue k).isSome).map fun k => Instr.copyBarrierArrival k) <|>
    ((units.find? fun u => moves u || (s.retirable u).isSome).map fun u => Instr.jobRetire u)

/-- Whether a queue stream's step changes anything: an entry moved on, a request sent, a fault. -/
def State.streamMoves (s : State) (r : Res) : Bool :=
  match r with
  | .next t => t.cur.qstreams != s.cur.qstreams || t.cur.resident != s.cur.resident || t.cur.frozen != s.cur.frozen
  | _ => false

/-- The first queue stream of the current strand that can move on (R217). -/
noncomputable def streamEvent (s : State) : Option Instr :=
  let ks := upto s.cur.qstreams.length
  ((ks.find? fun k => s.streamMoves (execLdqEntryPush k s)).map fun k => Instr.ldqEntryPush k) <|>
    ((ks.find? fun k => s.streamMoves (execStqElementStore k s)).map fun k => Instr.stqElementStore k)

/-- Whether a BARWAIT's bound has run out (R232). -/
def State.boundDue (s : State) : Bool :=
  match s.cur.acc.barwait with
  | some w => w.bound == 1 && !w.released && !w.expired
  | none => false

/-- Whether the current strand can end now: the last of a sheaf needs room in its completion FIFO (R382). -/
def State.canEnd (s : State) : Bool := s.endDue && (s.cur.spec.isSome || s.dev.fifoRoom s.cur.id.tid.toNat)

/-- The event of the current core that is due, the first in this order: its jobs, its queue streams, a BARWAIT's bound, a
hang, a notification, the strand's end, a record to publish. Which comes first the spec leaves open (assumption log 2). -/
noncomputable def autoEvent (s : State) : Option Instr :=
  jobEvent s <|> streamEvent s <|>
    (if s.boundDue then some .barwaitBoundExpiry else none) <|>
    (if s.hangDue.isSome then some .hangCapture else none) <|>
    (if s.dev.notices.isEmpty then none else some (.mailboxNotify 0)) <|>
    (if s.canEnd then some .strandEnd else none) <|>
    (if s.myDie.rph = 6 || (s.nextRecord.isSome && s.myDie.win.traprcb != 0) then some .faultRecordPublish else none)

/-- The stream that issues a word's family (R49): the access stream the majors 01000 to 01111, the execute stream 10000 to
11001, the control stream the rest and the 16-bit forms. -/
def issuerOf (w : Nat) : StreamId :=
  let m := w / 4 % 32
  if w % 4 != 3 then .c else if m < 8 then .c else if m < 16 then .a else if m < 26 then .x else .c

end Sys2Proof.Machine
end

