-- ==== Sys2Proof/Machine/Step.lean ====
section
/-!
DEFINITION. One step of the machine: the move the agenda names, or else the turn of a stream or of the engines of the
current core (assumption log 2); a stream's step takes an interrupt, ends a pause, reads a block header or fetches,
decodes and executes one instruction.
-/
namespace Sys2Proof.Machine

/-- The instruction at the issuing stream's place in its body is fetched, decoded and executed; what does not decode or
reaches past the body raises an illegal encoding (R156, R170), and what a pre-emption holds back waits (R344). -/
noncomputable def issue (s : State) : Res :=
  match s.bodyBytes s.fetchAt with
  | (.ok _, bs) =>
    match (nextCode s.me bs).bind decode with
    | some i => if s.holdsBack i then .next s else exec i s
    | none => exec .illegalEncoding s
  | (.fault c a, _) => .next (s.raiseAt c 4 a 0)
  | (.wait, _) => .next s.idle

/-- The issuing stream reads the header of the block it has reached (R157, R158). -/
noncomputable def openBlock (s : State) : Res :=
  if !s.isStart s.me.pc || !s.inObject s.me then exec .illegalEncoding s
  else match s.fetchCheck s.me.pc 4 with
    | .ok ps =>
      match decode (.word (BitVec.ofNat 32 (leNat (s.codeBytes ps)))) with
      | some (.blk e c p r l) => exec (.blk e c p r l) (s.fetched ps)
      | _ => exec .illegalEncoding (s.fetched ps)
    | .fault c a => .next (s.raiseAt c 4 a 0)
    | .wait => .next s.idle

/-- The issuing stream goes on: a section's run, a block header, or its next instruction. -/
noncomputable def goOn (s : State) : Res :=
  match s.who, s.cur.portable with
  | .x, some p => runPortable s p
  | _, _ => if s.me.atHeader then openBlock s else issue s

/-- A turn of a stream in the cycle in which its strand froze (R341). -/
noncomputable def faultCycle (s : State) : Res :=
  match (if s.hasDeferred then .next s.takeDeferred else goOn s) with
  | .next t => .next (t.setCur (t.cur.tookTurn s.who))
  | r => r

/-- A step of the stream whose turn it is. -/
noncomputable def runStream (s : State) : Res :=
  if s.finishes then issue s
  else if s.inFaultCycle then faultCycle s
  else if !s.mayRun then .next s
  else if s.takesInterrupt then exec .userInterruptTake s
  else if 1 < s.me.pause then .next (s.setMe { s.me with pause := s.me.pause - 1 })
  else if s.me.pause = 1 then exec .pauseExpiry s
  else if s.hasDeferred then .next s.takeDeferred
  else if s.elementFull then .next (s.stallOn 7)
  else goOn s

/-- A result with its turn set. -/
def withTurn (t : Turn) : Res → Res
  | .next s => .next { s with turn := t }
  | r => r

/-- The turn after a turn. -/
def Turn.succ : Turn → Turn
  | .stream .c => .stream .a
  | .stream .a => .stream .x
  | .stream .x => .engine
  | .engine => .stream .c

/-- A step of the engines of the current core: the first of their events that is due. -/
noncomputable def runEngine (s : State) : Res :=
  match autoEvent s with
  | some i => exec i s.tick
  | none => .next s.tick

/-- The core a move names becomes the current one. -/
def State.switchTo (s : State) (core : Nat) : State :=
  if s.cur.id.coreNum.toNat == core then s
  else match s.others.find? fun k => k.id.coreNum.toNat == core with
    | some k => { s with cur := k, others := s.cur :: s.others.filter fun o => !(o.id.coreNum.toNat == core) }
    | none => { s with cur := { Strand.blank with id := { Ident.blank with
                                  pkg := s.dev.pkg, die := BitVec.ofNat 3 (core / 64), clus := BitVec.ofNat 3 (core / 8)
                                  core := BitVec.ofNat 3 core } }
                       others := s.cur :: s.others }

/-- Whether a move is an access to the management windows, which the stopped domain still answers: the package reset
that leaves FAIL is one (R420, R441; assumption log 80). -/
def Move.onWindows : Move → Bool
  | .event _ i => match i with
    | .registerWrite _ _ _ _ | .ownctlClaim _ | .ownctlRelease _ _ | .packageReset _ | .frzThaw _ _ | .attctl _ _ | .swtrig _
    | .sreq _ _ | .rbreq _ _ | .errinj _ _ _ | .xshoot _ _ _ | .predctlFlush _ _ => true
    | _ => false
  | _ => false

/-- One step. In FAIL the domain stops: a move that is no access to the windows does nothing, and a machine that nothing
reaches from outside goes no further (R420). -/
noncomputable def step (s : State) : Host.Outcome State Fault Refusal :=
  match s.agenda with
  | m :: rest =>
    let t := { s with agenda := rest }
    if s.dev.failed && !m.onWindows then .next t
    else match m with
      | .stream core u => withTurn s.turn (runStream { t.switchTo core with turn := .stream u })
      | .event core i => exec i (t.switchTo core)
      | .system die obj args level => .next (t.launchSystem die obj args level)
  | [] =>
    if s.dev.failed then .fault .domainFailed
    else match s.turn with
      | .stream _ => withTurn s.turn.succ (runStream s)
      | .engine => withTurn s.turn.succ (runEngine s)

/-! ### The host's view of a fetch -/

/-- The address of the block that `withFetchWord` lays out. -/
def fetchBase : Word := 0x100000

/-- `s` with the given instruction stored where the step fetches its next one: a code page and code object with one
block, whose header the instruction follows (or which it is, for a BLK), the address space's ROOT (R356) with no old
translation held, a resident running strand, and the turn of the stream that issues the instruction's family (assumption
log 9). -/
noncomputable def State.withFetchWord (s : State) (nbits w : Nat) : State :=
  let i := decodeTableWord nbits w
  let t := issuerOf w
  let isBlk := match i with
    | some (.blk _ _ _ _ _) => true
    | _ => false
  let peer := s.dev.peerOf s.cur.id.die.toNat
  let key := physKey peer fetchBase.toNat
  let header := frameBlk 1 t.cls 0 0 8
  let code := natLe 8 (w % 2 ^ nbits)
  let body : List Byte := if isBlk then code else natLe 4 header.toNat ++ code
  let obj : CodeObj := { asid := s.cur.id.asid.toNat, base := fetchBase, len := 20, sys := s.cur.id.sys
                         entries := Vector.replicate 3 0, starts := [0], attr := [], digest := 0, rin := s.dev.rin }
  let m : Mapping := { asid := s.cur.id.asid.toNat, base := fetchBase, units := 1, key := key
                       attrs := if s.cur.id.sys then 0x93 else 0xB3, owner := .object fetchBase, charged := false }
  let d := s.dev
  let root := natLe 8 (1 + peer * 2 ^ 52)
  let rootKey := physKey peer (s.myDie.win.astbase.toNat + 32 * s.cur.id.asid.toNat)
  let d1 := d.setDie s.cur.id.die.toNat { s.myDie with tlb := [], l1 := [] }
  let k := { s.cur with resident := true, frozen := false, parked := false, spillReady := true, portable := none, deferred := [], ui := { s.cur.ui with pend := 0 } }
  let st := { k.stream t with
    pc := if isBlk then fetchBase else fetchBase + 4, hdr := fetchBase, bodyEnd := fetchBase + 20, left := 0, pass := 0
    atHeader := isBlk, run := .running, rep := none, pause := 0 }
  { s with
    cur := k.setStream t st, turn := .stream t, agenda := []
    dev := { d1 with mem := ((d.mem.clear key 64).put key body).put rootKey root, objects := obj :: d.objects, maps := m :: d.maps, failed := false } }

end Sys2Proof.Machine
end

