-- ==== Sys2Proof/Safety.lean ====
section
/-!
DEFINITION. The terms claims are stated in: what an instruction may change beside its result (frames), how it goes on,
how it faults, and the invariants of a run.
-/
namespace Sys2Proof

/-! ### Immediate operands (R185, R189, R213) -/

/-- off of R189: sext(off11, 11), or sext(literal, 32). -/
def Off11.int : Off11 → Int
  | .off o => o.toInt
  | .lit l => l.toInt

/-- B of SALUI (R185): sext(imm9, 9), or sext(literal, 32). -/
def Imm9.int : Imm9 → Int
  | .imm i => i.toInt
  | .lit l => l.toInt

/-- off of R213: sext(off10, 10), or sext(literal, 32). -/
def Off10.int : Off10 → Int
  | .imm i => i.toInt
  | .lit l => l.toInt

end Sys2Proof

namespace Sys2Proof.Machine

/-! ### Where a stream goes on -/

/-- `y` stands where `x` goes on to after an instruction that ends at `next` (R157): past the end of the body it repeats
the block or reaches the next header. -/
def Stream.GoesOn (x y : Stream) (next : Word) : Prop :=
  (next ≠ x.bodyEnd → y.pc = next ∧ y.left = x.left ∧ y.pass = x.pass ∧ y.atHeader = x.atHeader) ∧
  (next = x.bodyEnd → x.left = 0 → y.pc = next ∧ y.left = 0 ∧ y.pass = x.pass ∧ y.atHeader = true) ∧
  (next = x.bodyEnd → x.left ≠ 0 →
    y.pc = x.hdr + 4 ∧ y.left = x.left - 1 ∧ y.pass = x.pass + 1 ∧ y.atHeader = x.atHeader)

/-- `y` is `x` after an instruction of `n` bytes that transfers nowhere: inside a REP the next issue of the same
instruction, or past the REP and its target (R161, R163), else past the instruction. It no longer stalls. -/
def Stream.Advanced (x y : Stream) (n : Nat) : Prop :=
  y.stall = 0 ∧ y.stallCycles = 0 ∧
  (∀ r, x.rep = some r → r.issue < r.last.toNat →
    y.rep = some { r with issue := r.issue + 1 } ∧ y.pc = x.pc ∧ y.left = x.left ∧ y.pass = x.pass ∧ y.atHeader = x.atHeader) ∧
  (∀ r, x.rep = some r → r.last.toNat ≤ r.issue → y.rep = none ∧ x.GoesOn y (x.pc + 4 + BitVec.ofNat 64 n)) ∧
  (x.rep = none → y.rep = none ∧ x.GoesOn y (x.pc + BitVec.ofNat 64 n))

/-- The parts of a stream that an instruction without a transfer, a call or a wait leaves alone. -/
def Stream.SameControl (x y : Stream) : Prop :=
  y.hdr = x.hdr ∧ y.bodyEnd = x.bodyEnd ∧ y.run = x.run ∧ y.stack = x.stack ∧ y.spl = x.spl ∧ y.rsbase = x.rsbase ∧
  y.drop = x.drop ∧ y.pause = x.pause ∧ y.barwait = x.barwait ∧ y.reply = x.reply ∧ y.claim = x.claim

/-- `y` is `x` after an instruction of `n` bytes that writes no scalar register. -/
def Stream.Went (x y : Stream) (n : Nat) : Prop := y.regs = x.regs ∧ x.SameControl y ∧ x.Advanced y n

/-- `y` is `x` after an instruction of `n` bytes that writes `v` to s[d], where a write to s0 is none (R52). -/
structure Stream.Wrote (x y : Stream) (d : Reg) (v : Word) (n : Nat) : Prop where
  value : d ≠ 0 → y.get d = v
  zero : d = 0 → y.regs = x.regs
  others : ∀ r, r ≠ d → y.get r = x.get r
  control : x.SameControl y
  next : x.Advanced y n

/-- `y` is `x` at the header of the block at `target`, whose header word is `w`, to begin it at pass 0 (R157). -/
structure Stream.Entered (x y : Stream) (target : Word) (w : BitVec 32) : Prop where
  pc : y.pc = target
  hdr : y.hdr = target
  bodyEnd : y.bodyEnd = target + 4 + BitVec.ofNat 64 (2 * (w.extractLsb' 7 12).toNat)
  left : y.left = w.extractLsb' 19 6
  pass : y.pass = 0
  atHeader : y.atHeader = true
  others : y.regs = x.regs ∧ y.run = x.run ∧ y.spl = x.spl ∧ y.rsbase = x.rsbase ∧ y.rep = none ∧ y.drop = x.drop ∧
    y.pause = x.pause ∧ y.barwait = x.barwait ∧ y.reply = x.reply ∧ y.claim = x.claim ∧ y.stall = 0 ∧ y.stallCycles = 0

/-- `y` is `x` at a recorded return point in a block whose body ends at `bodyEnd` (R159, R191): at the header when the
point is the header's own address, else inside the body, or at its end, where R157 decides. -/
structure Stream.Returned (x y : Stream) (ret hdr bodyEnd : Word) (left pass : BitVec 6) : Prop where
  atHdr : ret = hdr → y.pc = ret ∧ y.hdr = hdr ∧ y.left = left ∧ y.pass = pass ∧ y.atHeader = true
  inside : ret ≠ hdr → ret ≠ bodyEnd → y.pc = ret ∧ y.hdr = hdr ∧ y.left = left ∧ y.pass = pass ∧ y.atHeader = false
  again : ret ≠ hdr → ret = bodyEnd → left ≠ 0 →
    y.pc = hdr + 4 ∧ y.hdr = hdr ∧ y.left = left - 1 ∧ y.pass = pass + 1 ∧ y.atHeader = false
  out : ret ≠ hdr → ret = bodyEnd → left = 0 → y.pc = ret ∧ y.hdr = hdr ∧ y.left = 0 ∧ y.pass = pass ∧ y.atHeader = true
  bodyEnd : y.bodyEnd = bodyEnd
  others : y.run = x.run ∧ y.rsbase = x.rsbase ∧ y.rep = none ∧ y.drop = x.drop ∧ y.pause = x.pause ∧
    y.barwait = x.barwait ∧ y.reply = x.reply ∧ y.claim = x.claim ∧ y.stall = 0 ∧ y.stallCycles = 0

/-! ### Frames -/

/-- Only the issuing stream differs: every other stream and strand, every vector, predicate, tile and queue, every
configuration and exception register, and all of memory are unchanged. -/
def OnlyMe (s t : State) : Prop := t = s.setMe t.me

/-- The instruction of `n` bytes completes, writes no scalar register, and beside the issuing stream the machine is `u`:
`u` says every effect, and is `s` where it says nothing. -/
def Does (s : State) (i : Instr) (u : State) (n : Nat) : Prop :=
  ∃ t, exec i s = .next t ∧ t = u.setMe t.me ∧ s.me.Went t.me n

/-- The instruction of `n` bytes completes, writes `v` to s[d], which is no write for s0 (R52), and beside the issuing
stream the machine is `u`. -/
def Yields (s : State) (i : Instr) (u : State) (d : Reg) (v : Word) (n : Nat) : Prop :=
  ∃ t, exec i s = .next t ∧ t = u.setMe t.me ∧ s.me.Wrote t.me d v n

/-- The instruction completes, and its whole effect is `s[d] := v`. -/
def Gives (s : State) (i : Instr) (d : Reg) (v : Word) (n : Nat) : Prop := Yields s i s d v n

/-- The instruction completes with no effect but to go on. -/
def Passes (s : State) (i : Instr) (n : Nat) : Prop := Does s i s n

/-- Nothing of the instruction is performed, and its stream stalls with a kind of Table 3-7 (R74). -/
def Stalls (s : State) (i : Instr) (kind : Nat) : Prop :=
  ∃ t, exec i s = .next t ∧ OnlyMe s t ∧ t.me = { s.me with stall := kind, stallCycles := t.me.stallCycles }

/-- Nothing changes: the event has no cause now, or its cause has to wait. -/
def Waits (s : State) (i : Instr) : Prop := exec i s = .next s

/-- Nothing of the instruction is performed: it executes again, and a stall of its stream before it is over (R74). -/
def Idles (s : State) (i : Instr) : Prop := exec i s = .next s.idle

/-- The instruction transfers to the block at `target`, and nothing else of the machine changes. -/
def Enters (s : State) (i : Instr) (target : Word) : Prop :=
  ∃ t w, exec i s = .next t ∧ s.codeWord target = some w ∧ OnlyMe s t ∧ s.me.Entered t.me target w ∧
    t.me.stack = s.me.stack

/-! ### Faults -/

/-- `t` is `s` frozen with one more record of a precise fault of the issuing stream (R337, R338, Table 15-9): the
instruction's own address is saved and nothing else of it is performed. -/
structure Faulted (s t : State) (cause : BitVec 8) (detail : BitVec 16) (faddr : Word) (r : FaultRec) : Prop where
  state : t = { s with cur := { s.cur with frozen := true, faults := s.cur.faults ++ [r] } }
  cause : r.cause = cause
  detail : r.detail = detail
  iaddr : r.iaddr = s.me.pc
  faddr : r.faddr = faddr
  src : r.src.toNat = s.who.num
  sys : r.sys = s.cur.id.sys
  precise : r.defer = false
  rin : r.rin = s.dev.rin

/-- The instruction of a strand that is not speculative takes a precise fault. -/
def Faults (s : State) (i : Instr) (cause : BitVec 8) (detail : BitVec 16) (faddr : Word) : Prop :=
  ∃ t r, exec i s = .next t ∧ Faulted s t cause detail faddr r

/-- The instruction of a strand that is not speculative takes an illegal-encoding fault. -/
def Illegal (s : State) (i : Instr) : Prop := Faults s i 0x01 0 0

/-- A check of the instruction failed with a cause at an address: it takes that precise fault; poison met by a walker or by
the fetch of a header is consumed instead, which rolls the domain back or, in a line a rollback restored, is the precise
fault too (R420, R423). -/
def FaultsAt (s : State) (i : Instr) (cause : BitVec 8) (detail : BitVec 16) (faddr : Word) : Prop :=
  (cause ≠ 0x10 → Faults s i cause detail faddr) ∧
  (cause = 0x10 → exec i s =
    .next (s.poisoned (s.poisonOf faddr) (s.faultRec 0x10 s.who.num false 0 s.me.iaddr faddr (s.me.aux 0))))

/-- The instruction transfers to the block at `target`, or takes the fault of Table 7-7 with no effect; it waits while the
target's page moves. -/
def Branches (s : State) (i : Instr) (target : Word) (indirect : Bool) : Prop :=
  (s.transferWaits target = true → Idles s i) ∧
  (s.transferWaits target = false →
    match s.transferFault s.who target indirect with
    | none => Enters s i target
    | some (c, a, d) => s.cur.spec = none → FaultsAt s i c d a)

/-! ### Queues -/

/-- The entries of a queue, oldest first. -/
def Queue.entries (x : Queue) (depth : Nat) : List VReg :=
  (upto x.occ).map fun k => Cells.get x.slots ((x.head + k) % depth)

/-- A queue whose descriptor and slots agree: the entries stand in a row from the oldest to the next free slot. -/
structure Queue.Ok (x : Queue) (depth : Nat) : Prop where
  occ : x.occ ≤ depth
  head : x.head < depth
  tail : x.tail = (x.head + x.occ) % depth
  slots : Cells.wf x.slots = true

/-! ### Accesses -/

/-- `e` is `d` but for the translations that the dies' TLBs hold (R359). -/
def SameButTlb (d e : Device) : Prop :=
  e = { d with dies := e.dies } ∧ ∀ n, ∃ l m, e.die n = { d.die n with tlb := l, l1 := m }

/-- A memory instruction of the access stream has nothing to wait for: the strand is not speculative, no job, queue
stream or request of it is unfinished, its counters have room, and no remote line is cached on its die. -/
structure Quiet (s : State) : Prop where
  who : s.who = .a
  spec : s.cur.spec = none
  cards : s.cur.cards = []
  streams : s.cur.qstreams = []
  reply : s.me.reply = none
  barwait : s.me.barwait = none
  claim : s.me.claim = none
  requests : s.myDie.requests = []
  lines : s.myDie.lines = []
  ld : s.cur.ld < 65535
  st : s.cur.st < 65535

/-- A part of an access that a store performs at once in DRAM of its own die: committed, and not irrevocable. -/
def Piece.Dram (p : Piece) (key : Nat) : Prop :=
  p.hit.loc = .phys key ∧ p.hit.remote = false ∧ p.hit.irr = false ∧ p.hit.cls.isSome = true ∧ p.hit.committed = true

/-- `y` is `x` after an instruction that writes the pair d, d + 1 (R227), none for d = 0. -/
structure Stream.WrotePair (x y : Stream) (d : Reg) (v : BitVec 128) (n : Nat) : Prop where
  low : d ≠ 0 → y.get d = v.extractLsb' 0 64
  high : d ≠ 0 → y.get (d + 1) = v.extractLsb' 64 64
  others : ∀ r, (d = 0 ∨ (r ≠ d ∧ r ≠ d + 1)) → y.get r = x.get r
  control : x.SameControl y
  next : x.Advanced y n

/-- An atomic of the access stream on a granary object of its own die completes: beside the TLB the machine is `s` with
`new` at the object's place, none for no store, and `res` holds of the stream. -/
def AtomicDone (s : State) (i : Instr) (loc : Loc) (new : Option (List Byte)) (res : Stream → Prop) : Prop :=
  ∃ t e, exec i s = .next t ∧ SameButTlb s.dev e ∧ res t.me ∧
    t = (match new with
      | some bs => (s.setDev e).setBytes loc bs
      | none => s.setDev e).setMe t.me

/-! ### Jobs -/

/-- A job issue completes (R277, R278): the device is `e` after its commits, one card that satisfies `good` enters its
queue with the next ordinal of its class, and s[d] takes that ordinal. -/
def Issues (s : State) (i : Instr) (copy : Bool) (d : Reg) (e : Device) (good : Card → Prop) : Prop :=
  let j := s.cur.jobs
  let n := (if copy then j.issuedCp else j.issuedTl) + 1
  ∃ c : Card, good c ∧ c.ord = n ∧ c.phase = .queued ∧ c.started = false ∧ c.arrived = false ∧ c.nbv = s.cur.nbv ∧
    Yields s i ((s.setDev e).setCur { s.cur with jobs :=
      if copy then { j with cpq := j.cpq ++ [c], issuedCp := n } else { j with thq := j.thq ++ [c], issuedTl := n } })
      d (BitVec.ofNat 64 n) 4

/-- A thresher job's issue once its fields are legal (Table 11-2): the first fault of its ranges' checks, the footprint
fault of `overlap`, or the card with its units committed. -/
def IssuesTl (s : State) (i : Instr) (d : Reg) (align : Option Word) (rs : List JobRange) (overlap : Option Word)
    (good : Card → Prop) : Prop :=
  (∀ c a, s.cur.spec = none → s.jobCheck false none align rs = .fault c a → FaultsAt s i c (if c = 0x04 ∨ c = 0x05 then 3 else 0) a) ∧
  (∀ ps, s.jobCheck false none align rs = .ok ps →
    (∀ a, s.cur.spec = none → overlap = some a → Faults s i 0x0E 0 a) ∧
    (∀ e, overlap = none → s.jobBarred ps = false → s.commitJob ps = .done (s.setDev e) → Issues s i false d e good))

/-- The card `c` stands between `a` and `b` in the tl queue of a strand whose jobs are not held, first of its unit's cards
and the only one of them that has been handed over (R151). -/
structure OnThresher (s : State) (a : List Card) (c : Card) (b : List Card) : Prop where
  resident : s.cur.resident = true
  hung : s.cur.hung = false
  parked : s.cur.parked = false
  queue : s.cur.jobs.thq = a ++ c :: b
  first : ∀ e ∈ a, e.isMul ≠ c.isMul
  queued : ∀ e ∈ b, e.isMul = c.isMul → e.phase = .queued
  others : ∀ e ∈ a ++ b, e.ord ≠ c.ord ∧ e.phase ≠ .faulted

/-- The card `c` is the oldest of the cp queue, with none of the later ones handed over. -/
structure OnCopy (s : State) (c : Card) (b : List Card) : Prop where
  resident : s.cur.resident = true
  hung : s.cur.hung = false
  parked : s.cur.parked = false
  queue : s.cur.jobs.cpq = c :: b
  later : ∀ e ∈ b, e.ord ≠ c.ord ∧ e.phase = .queued

/-- The strand with another tl queue. -/
def Strand.withThq (k : Strand) (q : List Card) : Strand := { k with jobs := { k.jobs with thq := q } }

/-! ### Strands, firmware and windows -/

/-- Everything of a strand has come to its end (R22): its streams, jobs, queue streams and counted accesses. -/
structure Strand.Finished (k : Strand) : Prop where
  resident : k.resident = true
  frozen : k.frozen = false
  ended : k.ended = false
  parked : k.parked = false
  spill : k.spillReady = true
  streams : k.ctl.run = .ended ∧ k.acc.run = .ended ∧ k.exe.run = .ended
  jobs : k.jobs.thq = [] ∧ k.jobs.cpq = []
  accesses : k.qstreams = [] ∧ k.ld = 0 ∧ k.st = 0 ∧ k.deferred = []

/-- A stream of the current strand has stalled for the time of HANGTO (R74). -/
def State.Hung (s : State) (t : StreamId) : Prop :=
  (s.cur.stream t).run = .running ∧ (s.cur.stream t).stall ≠ 0 ∧ 2 ^ s.myDie.win.hangto.toNat ≤ (s.cur.stream t).stallCycles

/-- Firmware reads `bs` at `ea` in the agent's name, all of it on the agent's die and unpoisoned; `u` is the machine after
it. -/
def State.FwRead (s : State) (g : Agent) (ea : Word) (bs : List Byte) (u : State) : Prop :=
  ea.toNat < 2 ^ 56 ∧ bs ≠ [] ∧ ∃ ps, (s.enter g).check .load 1 false ea bs.length = .ok ps ∧
    (∀ p ∈ ps, p.hit.remote = false) ∧ (s.enter g).poisonIn ps = [] ∧ bs = (s.enter g).loadBytes ps ∧
    u = ((s.enter g).fillAll ea ps).leave

/-- Firmware may write `n` bytes at `ea` in the agent's name, all of them in committed DRAM of the agent's die from `key`
on, with room in the undo log. -/
def State.FwRoom (s : State) (g : Agent) (ea : Word) (n key : Nat) : Prop :=
  ea.toNat < 2 ^ 56 ∧ n ≠ 0 ∧ ∃ p, (s.enter g).check .store 1 false ea n = .ok [p] ∧ p.Dram key ∧
    (s.enter g).logStall [p] = false

/-- The bytes `bs` stand from `key` on, and every other byte of memory is as in `m`. -/
def Memory.Holds (n : Memory) (key : Nat) (bs : List Byte) (m : Memory) : Prop :=
  (∀ k < bs.length, n.get (key + k) = bs.getD k 0) ∧ ∀ k, (k < key ∨ key + bs.length ≤ k) → n.get k = m.get k

/-- Who may write the die control windows (R440, R441): scheduler firmware, and the owner while it is not frozen. -/
def State.MayWrite (s : State) (m : Master) : Prop :=
  m = .firmware ∨ (masterNum m ≠ 0 ∧ s.dev.man.frozen m = false ∧ s.dev.man.owner = masterNum m)

/-- No die's remote line cache holds a line. -/
def Device.NoLines (d : Device) : Prop := ∀ n < 8, (d.die n).lines = []

/-- The device with a die changed. -/
def Device.onDie (d : Device) (n : Nat) (f : Die → Die) : Device := d.setDie n (f (d.die n))

/-- A journal record of a kind was committed in a slot (R381): it has the slot's next number, and is the newest. -/
def Slot.Logged (x y : Slot) (kind : Nat) (body : List Nat) : Prop :=
  y.seq = x.seq + 1 ∧ ∃ r, y.journal.getLast? = some r ∧ r.seq = x.seq ∧ r.kind = BitVec.ofNat 16 kind ∧ r.body = body

/-! ### Vector instructions -/

/-- A vector instruction of `n` bytes completes: lane k of vd is `f k` where the guard enables it and unchanged else, and
nothing else of the machine changes (R54, R251). -/
def LanesBecome (s : State) (i : Instr) (g : Guard) (d : VName) (n : Nat) (f : Nat → Lane) : Prop :=
  ∃ v, Does s i (s.setCur (s.cur.setV d v)) n ∧
    ∀ k < 64, laneOf v k = if (s.cur.mask g).getLsbD k then f k else s.lane d k

/-- The same for a float instruction, whose enabled lanes raise flags of cfg.fflags (R121): each flag that some enabled
lane raises is set, and no flag falls. -/
def LanesRound (s : State) (i : Instr) (g : Guard) (d : VName) (n : Nat) (f : Nat → Nat × Flags) : Prop :=
  ∃ v fl, Does s i (s.setCur { s.cur.setV d v with fflags := s.cur.fflags ||| fl }) n ∧
    (∀ k < 64, laneOf v k = if (s.cur.mask g).getLsbD k then BitVec.ofNat 32 (f k).1 else s.lane d k) ∧
    ∀ b < 5, fl.getLsbD b = true ↔ ∃ k < 64, (s.cur.mask g).getLsbD k = true ∧ (f k).2.getLsbD b = true

/-- A compare of `n` bytes completes: bit k of pd is the truth of `f k` where the guard enables it and unchanged else; a
write to p0 is none (R52). -/
def BitsBecome (s : State) (i : Instr) (g : Guard) (p : PName) (n : Nat) (f : Nat → Bool × Flags) : Prop :=
  ∃ v fl, Does s i (s.setCur { s.cur.setP p v with fflags := s.cur.fflags ||| fl }) n ∧
    (∀ k < 64, v.getLsbD k = if (s.cur.mask g).getLsbD k then (f k).1 else (s.cur.preg p).getLsbD k) ∧
    ∀ b < 5, fl.getLsbD b = true ↔ ∃ k < 64, (s.cur.mask g).getLsbD k = true ∧ (f k).2.getLsbD b = true

/-- The rational number of a finite exact value; of a sticky one, the end of its interval nearer zero. -/
def ExactNum.val : ExactNum → Option Rat
  | .fin neg m e _ => some ((if neg then -1 else 1) * m * 2 ^ e)
  | _ => none

/-- Whether a value has no sticky part. -/
def ExactNum.exact : ExactNum → Bool
  | .fin _ _ _ sticky => !sticky
  | _ => false

/-! ### What every step keeps -/

/-- A checkpoint whose saved regions are in the form of `Memory.wf`, each within its length. -/
def Checkpoint.Canonical (c : Checkpoint) : Prop :=
  ∀ r ∈ c.persist, r.2.wf = true ∧ ∀ x ∈ r.2, x.1 < r.1.2

/-- The memory of the device, and what a rollback would return it to, in the form of `Memory.wf`. -/
def Device.Canonical (d : Device) : Prop :=
  d.mem.wf = true ∧ (∀ c, d.checkpoint = some c → c.Canonical) ∧ ∀ c, d.pending = some c → c.Canonical

/-- The local store, the granary and the tiles of a strand in the form of `Memory.wf`. -/
def Strand.Canonical (k : Strand) : Prop :=
  k.ls.wf = true ∧ k.gr.wf = true ∧ ∀ n < 16, (vget k.tiles n Tile.none).data.wf = true

/-- Every strand that is somewhere in the machine is canonical: on a core, saved, or in a checkpoint. -/
def State.StrandsCanonical (s : State) : Prop :=
  (∀ k ∈ s.cur :: s.others ++ s.dev.images, k.Canonical) ∧
  (∀ c, s.dev.checkpoint = some c → ∀ k ∈ c.images, k.Canonical) ∧
  ∀ c, s.dev.pending = some c → ∀ k ∈ c.images, k.Canonical

end Sys2Proof.Machine
end

