-- ==== Sys2Proof/Certificates/Slice0/Obligations.lean ====
section
/-!
DEFINITION. The statements for the provers.
-/

open Sys2Proof Sys2Proof.Machine

/-! ### Scalar arithmetic -/
/-- R186 (Table 8-1), R185: add to madda without shifts, bit counts and divisions, for both forms of operand B; each
writes s[d] with the tabled value, goes on past its own bytes, and changes nothing else. R186 (Table 8-1), R187: the
shifts by sh = B[5:0], the bit counts, the bit reversal, and the bitfield functions of lo = B[5:0] and w = B[13:8] +
1. R186 (Table 8-1), R123: the divisions and remainders, a zero divisor and the signed overflow among them. -/
def Obligations.ScalarArithmetic : Prop :=
  (∀ (s : State) (d a : Reg) (o : SrcB),
      let A := s.rd a
      let B := s.srcB o
      let n := srcBLen o
      Gives s (.add d a o) d (wrap ((A.toNat : Int) + B.toNat) 64) n ∧
      Gives s (.sub d a o) d (wrap ((A.toNat : Int) - B.toNat) 64) n ∧
      Gives s (.and d a o) d (A &&& B) n ∧
      Gives s (.or d a o) d (A ||| B) n ∧
      Gives s (.xor d a o) d (A ^^^ B) n ∧
      Gives s (.mul d a o) d (wrap (A.toInt * B.toInt) 64) n ∧
      Gives s (.mulh d a o) d (wrap (A.toInt * B.toInt / 2 ^ 64) 64) n ∧
      Gives s (.mulhU d a o) d (wrap ((A.toNat : Int) * B.toNat / 2 ^ 64) 64) n ∧
      Gives s (.min d a o) d (wrap (min A.toInt B.toInt) 64) n ∧
      Gives s (.minU d a o) d (wrap (min (A.toNat : Int) B.toNat) 64) n ∧
      Gives s (.max d a o) d (wrap (max A.toInt B.toInt) 64) n ∧
      Gives s (.maxU d a o) d (wrap (max (A.toNat : Int) B.toNat) 64) n ∧
      Gives s (.madda d a o) d (wrap ((s.rd d).toInt + A.toInt * B.toInt) 64) n) ∧
  (∀ (s : State) (d a : Reg) (o : SrcB),
      let A := s.rd a
      let B := s.srcB o
      let n := srcBLen o
      let sh := B.toNat % 64
      let w := B.toNat / 256 % 64 + 1
      let field : Int := (A.toNat : Int) / 2 ^ sh % 2 ^ w
      Gives s (.shl d a o) d (wrap ((A.toNat : Int) * 2 ^ sh) 64) n ∧
      Gives s (.shr d a o) d (wrap ((A.toNat : Int) / 2 ^ sh) 64) n ∧
      Gives s (.sra d a o) d (wrap (A.toInt / 2 ^ sh) 64) n ∧
      (∃ k : Nat, k ≤ 64 ∧ A.toNat < 2 ^ (64 - k) ∧ (k < 64 → 2 ^ (63 - k) ≤ A.toNat) ∧ Gives s (.clz d a) d (wrap k 64) 4) ∧
      Gives s (.popc d a) d (wrap (((List.range 64).filter fun i => A.getLsbD i).length : Nat) 64) 4 ∧
      (∃ v, (∀ i < 64, v.getLsbD i = A.getLsbD (63 - i)) ∧ Gives s (.brev d a) d v 4) ∧
      Gives s (.ext d a o) d (wrap field 64) n ∧
      Gives s (.extS d a o) d (wrap (if field < 2 ^ (w - 1) then field else field - 2 ^ w) 64) n ∧
      (∃ v, (∀ i < 64, v.getLsbD i = if sh ≤ i ∧ i < sh + w then A.getLsbD (i - sh) else (s.rd d).getLsbD i) ∧
        Gives s (.ins d a o) d v n)) ∧
  (∀ (s : State) (d a : Reg) (o : SrcB),
      let A := s.rd a
      let B := s.srcB o
      let n := srcBLen o
      Gives s (.div d a o) d (if B.toNat = 0 then -1 else if A.toInt = -2 ^ 63 ∧ B.toInt = -1 then wrap (-2 ^ 63) 64
        else wrap (A.toInt.tdiv B.toInt) 64) n ∧
      Gives s (.divU d a o) d (if B.toNat = 0 then -1 else wrap ((A.toNat : Int) / B.toNat) 64) n ∧
      Gives s (.rem d a o) d (if B.toNat = 0 then A else if A.toInt = -2 ^ 63 ∧ B.toInt = -1 then 0
        else wrap (A.toInt - B.toInt * A.toInt.tdiv B.toInt) 64) n ∧
      Gives s (.remU d a o) d (if B.toNat = 0 then A else wrap ((A.toNat : Int) - B.toNat * ((A.toNat : Int) / B.toNat)) 64) n)

/-- R185: SALUI is SALU of equal function with B = sext(imm9, 9), or sext(literal, 32) with a literal. R188: LI, LIW and
LIW.H. R155 (Table 7-1): the 16-bit forms that compute: each has the effect of the 32-bit instruction it names and
takes two bytes; CNOP has none. R52, R184: a write to s0 is discarded and s0 reads zero, in every stream and whatever
the instruction wrote. -/
def Obligations.ScalarImmediates : Prop :=
  (∀ (s : State) (d a : Reg) (i : Imm9),
      let A := s.rd a
      let B : Int := i.int
      let U : Int := B % 2 ^ 64
      let n := imm9Len i
      let sh := (U % 64).toNat
      Gives s (.addImm d a i) d (wrap (A.toInt + B) 64) n ∧
      Gives s (.subImm d a i) d (wrap (A.toInt - B) 64) n ∧
      Gives s (.andImm d a i) d (A &&& wrap B 64) n ∧
      Gives s (.orImm d a i) d (A ||| wrap B 64) n ∧
      Gives s (.xorImm d a i) d (A ^^^ wrap B 64) n ∧
      Gives s (.shlImm d a i) d (wrap ((A.toNat : Int) * 2 ^ sh) 64) n ∧
      Gives s (.shrImm d a i) d (wrap ((A.toNat : Int) / 2 ^ sh) 64) n ∧
      Gives s (.sraImm d a i) d (wrap (A.toInt / 2 ^ sh) 64) n ∧
      Gives s (.mulImm d a i) d (wrap (A.toInt * B) 64) n ∧
      Gives s (.mulhImm d a i) d (wrap (A.toInt * B / 2 ^ 64) 64) n ∧
      Gives s (.mulhUImm d a i) d (wrap ((A.toNat : Int) * U / 2 ^ 64) 64) n ∧
      Gives s (.divImm d a i) d (if B = 0 then -1 else wrap (A.toInt.tdiv B) 64) n ∧
      Gives s (.divUImm d a i) d (if B = 0 then -1 else wrap ((A.toNat : Int) / U) 64) n ∧
      Gives s (.remImm d a i) d (if B = 0 then A else wrap (A.toInt - B * A.toInt.tdiv B) 64) n ∧
      Gives s (.remUImm d a i) d (if B = 0 then A else wrap ((A.toNat : Int) - U * ((A.toNat : Int) / U)) 64) n ∧
      Gives s (.minImm d a i) d (wrap (min A.toInt B) 64) n ∧
      Gives s (.minUImm d a i) d (wrap (min (A.toNat : Int) U) 64) n ∧
      Gives s (.maxImm d a i) d (wrap (max A.toInt B) 64) n ∧
      Gives s (.maxUImm d a i) d (wrap (max (A.toNat : Int) U) 64) n) ∧
  (∀ (s : State) (d : Reg) (i : BitVec 19) (l : BitVec 32),
      Gives s (.li d i) d (wrap i.toInt 64) 4 ∧
      Gives s (.liw d l) d (wrap l.toInt 64) 8 ∧
      Gives s (.liwH d l) d (wrap ((l.toNat : Int) * 2 ^ 32 + (s.rd d).toNat % 2 ^ 32) 64) 8) ∧
  (∀ (s : State) (f : BitVec 6) (a d : Reg),
      let D := s.rd d
      let sh := f.toNat
      Gives s (.caddi f d) d (wrap (D.toInt + f.toInt) 64) 2 ∧
      Gives s (.cli f d) d (wrap f.toInt 64) 2 ∧
      Gives s (.cshli f d) d (wrap ((D.toNat : Int) * 2 ^ sh) 64) 2 ∧
      Gives s (.cshri f d) d (wrap ((D.toNat : Int) / 2 ^ sh) 64) 2 ∧
      Gives s (.csrai f d) d (wrap (D.toInt / 2 ^ sh) 64) 2 ∧
      Gives s (.candi f d) d (D &&& wrap f.toInt 64) 2 ∧
      Gives s (.cmov a d) d (s.rd a) 2 ∧
      Gives s (.cadd a d) d (wrap ((D.toNat : Int) + (s.rd a).toNat) 64) 2 ∧
      Passes s .cnop 2) ∧
  (∀ (s t : State) (a : Reg) (o : SrcB) (i : BitVec 19),
      (exec (.add 0 a o) s = .next t ∨ exec (.li 0 i) s = .next t) →
      t.rd 0 = 0 ∧ t.me.regs = s.me.regs)

/-! ### Blocks and control flow -/
/-- R156, R157: a header at a block boundary opens its block: passes - 1 from bits [24:19], the body of 2 × LEN bytes
after it, pass 0, and the body's first instruction next. Inside a body, or of another stream's class, it is an illegal
encoding. R161 to R163, R169 (Table 7-9): REP starts at issue 0 and leaves the program counter at itself, over a
target of one word or of a word with its literal, and a REP over an instruction that may not be repeated, one of a
halfword among them, is an illegal encoding; a fetch of its target that fails is that fault; every hint writes s[d], 0
when its number is not implemented, and changes nothing else. R161, R162: where a REP may head its target, issue i of
the target has f + i × inc in each register field the target uses, with no wrap, and every bit outside a stepped field
is the target's own. -/
def Obligations.BlocksAndRepeats : Prop :=
  (∀ (s : State) (e : BitVec 1) (c : BitVec 2) (p : BitVec 1) (r : BitVec 6) (l : BitVec 12),
      (s.me.atHeader = true → c.toNat = s.who.num →
        ∃ t, exec (.blk e c p r l) s = .next t ∧ OnlyMe s t ∧
          t.me = { s.me with stall := 0, stallCycles := 0, hdr := s.me.pc, pc := s.me.pc + 4, left := r, pass := 0,
                             bodyEnd := s.me.pc + 4 + BitVec.ofNat 64 (2 * l.toNat), atHeader := false }) ∧
      (s.me.atHeader = false ∨ c.toNat ≠ s.who.num → s.cur.spec = none → Illegal s (.blk e c p r l))) ∧
  (∀ (s : State) (ib ia id : BitVec 3) (c : BitVec 6) (h : BitVec 14) (a d : Reg) (l : OptLit),
      let n := optLitLen l
      let r : RepState := { addr := s.me.pc, ib := ib, ia := ia, id := id, last := c, issue := 0 }
      (∀ ps bs, s.bodyBytes (s.me.pc + 4) = (.ok ps, bs) →
        (∀ w lit, ((frameBytes bs = some (.word w) ∧ lit = none) ∨ ∃ l, frameBytes bs = some (.wide w l) ∧ lit = some l) →
          ((s.me.rep = none ∧ repOk r w lit = true) →
            ∃ t, exec (.rep ib ia id c) s = .next t ∧ OnlyMe s t ∧
              t.me = { s.me with stall := 0, stallCycles := 0, rep := some r }) ∧
          ((s.me.rep ≠ none ∨ repOk r w lit = false) → s.cur.spec = none → Illegal s (.rep ib ia id c))) ∧
        ((∀ w, frameBytes bs ≠ some (.word w)) → (∀ w l, frameBytes bs ≠ some (.wide w l)) → s.cur.spec = none →
          Illegal s (.rep ib ia id c))) ∧
      (∀ e f bs, s.bodyBytes (s.me.pc + 4) = (.fault e f, bs) → s.cur.spec = none → FaultsAt s (.rep ib ia id c) e 4 f) ∧
      (∀ bs, s.bodyBytes (s.me.pc + 4) = (.wait, bs) → Idles s (.rep ib ia id c)) ∧
      Gives s (.hint h a d l) d 0 n ∧
      Gives s (.hintFreeQueueSlots a d l) d
        (wrap ((0x100 : Int) + 16 * (16 - s.cur.jobs.cpq.length : Nat) + (8 - s.cur.jobs.thq.length : Nat)) 64) n ∧
      (∀ i, (i = .hintLoopBufferResident a d l ∨ i = .hintPinRequest a d l) →
        ∃ t, exec i s = .next t ∧ t = { s.setMe t.me with fresh := s.fresh + 1 } ∧
          (s.me.Wrote t.me d 1 n ∨ s.me.Wrote t.me d 2 n))) ∧
  (∀ (r : RepState) (w : BitVec 32) (lit : OptLit) (fs : List RegField),
      repFields w lit = some fs → repOk r w lit = true → r.issue ≤ r.last.toNat →
      (∀ p ∈ fs.zip [r.id, r.ia, r.ib], p.2 ≠ 0 →
        (p.1.get (r.step w lit) : Int) = (p.1.get w : Int) + r.issue * p.2.toInt ∧ (p.1.get (r.step w lit)) < p.1.lim) ∧
      (∀ k < 32, (∀ p ∈ fs.zip [r.id, r.ia, r.ib], p.2 ≠ 0 → ¬(p.1.lo ≤ k ∧ k < p.1.lo + p.1.width)) →
        (r.step w lit).getLsbD k = w.getLsbD k))

/-- R189, R158: the conditional branches and B: taken, the instruction begins the block at H + off × 4 at pass 0 or takes
the fault of Table 7-7; not taken, it goes on and its target is never checked. R190: BQB pops the stream's own
branch-outcome queue whether or not it branches; on the empty queue it stalls with kind 2, and with a target that
faults it pops nothing; while the target's page moves it waits (R364). Table 7-7 (R158), R420: which transfers fault:
translation, an unexecutable or system page, poison in the header's line, no block start, an indirect transfer to a
header with EP 0, a header of another stream's class; and where none of them holds there is no fault. That a target of
2^56 or more fails translation is the model's choice (assumption log 78). -/
def Obligations.BranchInstructions : Prop :=
  (∀ (s : State) (a b : Reg) (o : Off11),
      let n := off11Len o
      let T : Word := wrap ((s.me.hdr.toNat : Int) + o.int * 4) 64
      let A := s.rd a
      let B := s.rd b
      let cond (i : Instr) (taken : Prop) : Prop := (taken → Branches s i T false) ∧ (¬taken → Passes s i n)
      cond (.cbEq a b o) (A = B) ∧ cond (.cbNe a b o) (A ≠ B) ∧
      cond (.cbLt a b o) (A.toInt < B.toInt) ∧ cond (.cbGe a b o) (B.toInt ≤ A.toInt) ∧
      cond (.cbLtU a b o) (A.toNat < B.toNat) ∧ cond (.cbGeU a b o) (B.toNat ≤ A.toNat) ∧
      cond (.b o) True) ∧
  (∀ (s : State) (p : BitVec 1) (o : Off11),
      let q := match s.who with
        | .c => 10
        | .a => 11
        | .x => 12
      let x := s.queue q
      let T : Word := wrap ((s.me.hdr.toNat : Int) + o.int * 4) 64
      (x.occ = 0 → Stalls s (.bqb p o) 2) ∧
      (x.occ ≠ 0 → x.Ok 64 →
        ((x.entries 64).head?.map (·.getLsbD 0) ≠ some (p == 1) →
          ∃ y, Does s (.bqb p o) (s.setQueue q y) (off11Len o) ∧ y.entries 64 = (x.entries 64).tail ∧ y.Ok 64) ∧
        ((x.entries 64).head?.map (·.getLsbD 0) = some (p == 1) →
          (s.transferWaits T = true → Idles s (.bqb p o)) ∧
          (s.transferWaits T = false →
            match s.transferFault s.who T false with
            | none => ∃ t w y, exec (.bqb p o) s = .next t ∧ s.codeWord T = some w ∧ t = (s.setQueue q y).setMe t.me ∧
                y.entries 64 = (x.entries 64).tail ∧ y.Ok 64 ∧ s.me.Entered t.me T w ∧ t.me.stack = s.me.stack
            | some (c, a, d) => s.cur.spec = none → FaultsAt s (.bqb p o) c d a)))) ∧
  (∀ (s : State) (st : StreamId) (target : Word) (indirect : Bool),
      let f := s.transferFault st target indirect
      let w := (s.codeWord target).getD 0
      (2 ^ 56 ≤ target.toNat → f = some (0x04, target, 4)) ∧
      (∀ c a, target.toNat < 2 ^ 56 → s.locateAll target (splits target 4) = .fault c a → f = some (c, a, 4)) ∧
      (∀ p, target.toNat < 2 ^ 56 → s.locateAll target (splits target 4) = .ok [p] →
        ((p.hit.x = false ∨ (s.cur.id.sys = false ∧ p.hit.u = false)) →
          f = some (0x05, target + BitVec.ofNat 64 p.start, 4)) ∧
        (p.hit.x = true → (s.cur.id.sys = true ∨ p.hit.u = true) → s.poisonIn [p] ≠ [] →
          f = some (0x10, s.poisonAddr target [p], 4)) ∧
        (p.hit.x = true → (s.cur.id.sys = true ∨ p.hit.u = true) → s.poisonIn [p] = [] →
          (s.isStart target = false → f = some (0x01, 0, 0)) ∧
          (s.isStart target = true →
            (indirect = true → w.getLsbD 28 = false → f = some (0x05, target, 4)) ∧
            ((indirect = false ∨ w.getLsbD 28 = true) →
              ((w.extractLsb' 26 2).toNat ≠ st.num → f = some (0x01, 0, 0)) ∧
              ((w.extractLsb' 26 2).toNat = st.num → f = none))))))

/-- R191, R192, R193: CALL, CALLR and JMPR. With a target that faults nothing changes, and while its page moves they wait
(R364). A call on a stack of fewer than 16 entries pushes the return point, H, LEFT and PASS, then transfers; JMPR
pushes nothing. A call on a stack of 16 entries, with fewer than 240 spilled, writes the oldest of them to the spill
area, here committed DRAM of the strand's own die, at cfg.rsbase + 16 × SPL, and SPL is one higher; a failed
translation there is a spill fault with DETAIL 1, and at depth 256 a call is a spill fault with DETAIL 0. R191, R192,
R193, R22: RET, in both its lengths, pops the newest entry and restores H, LEFT and PASS. With no entry on the core
and SPL > 0 it fills the entry that was spilled last, from memory of its own die that holds no poison, and SPL is one
lower; a failed translation there is a spill fault with DETAIL 1. With no entry on the core or spilled it ends the
stream. R192: a spilled entry has the return point in bits [55:0], LEFT in [61:56], H in [119:64] and PASS in
[125:120], and a fill restores the entry that was spilled. -/
def Obligations.CallsAndReturns : Prop :=
  (∀ (s : State) (a : Reg) (o : Off11),
      let call (i : Instr) (T : Word) (indirect : Bool) (n : Nat) : Prop :=
        (s.transferWaits T = true → Idles s i) ∧
        (s.transferWaits T = false →
          match s.transferFault s.who T indirect with
          | some (c, x, d) => s.cur.spec = none → FaultsAt s i c d x
          | none =>
            let e : RetEntry := { ret := s.me.pc + BitVec.ofNat 64 n, hdr := s.me.hdr, left := s.me.left, pass := s.me.pass }
            let spill := s.locateAll (s.me.spillAt s.me.spl) (splits (s.me.spillAt s.me.spl) 16)
            (s.me.stack.length < 16 → ∃ t w, exec i s = .next t ∧ s.codeWord T = some w ∧ OnlyMe s t ∧
              s.me.Entered t.me T w ∧
              t.me.stack = e :: s.me.stack) ∧
            (∀ p key old, s.me.stack.length = 16 → s.me.stack.getLast? = some old → s.me.spl < 240 → s.cur.spec = none →
              spill = .ok [p] → p.start = 0 → p.len = 16 → p.Dram key → s.logStall [p] = false →
              s.dev.mem.wf = true →
              ∃ t w, exec i s = .next t ∧ s.codeWord T = some w ∧ t.others = s.others ∧ t.cur = s.cur.setStream s.who t.me ∧
                ({ s.me with spl := s.me.spl + 1 }).Entered t.me T w ∧ t.me.stack = e :: s.me.stack.dropLast ∧
                t.dev.mem.Holds key (natLe 16 old.spill.toNat) s.dev.mem) ∧
            (∀ c f, 16 ≤ s.me.stack.length → s.me.spl < 240 → s.cur.spec = none → spill = .fault c f → c ≠ 0x10 →
              Faults s i 0x0D 1 f) ∧
            (16 ≤ s.me.stack.length → s.me.spl = 240 → s.cur.spec = none → Faults s i 0x0D 0 0))
      call (.call o) (wrap ((s.me.hdr.toNat : Int) + o.int * 4) 64) false (off11Len o) ∧ call (.callr a) (s.rd a) true 4 ∧
      Branches s (.jmpr a o) (wrap ((s.rd a).toInt + o.int * 4) 64) true) ∧
  (∀ (s : State) (i : Instr), (i = .ret ∨ i = .cret) →
      (∀ e rest, s.me.stack = e :: rest → ∃ t, exec i s = .next t ∧ OnlyMe s t ∧
        s.me.Returned t.me e.ret e.hdr (s.bodyEndAt e.hdr) e.left e.pass ∧ t.me.stack = rest ∧ t.me.regs = s.me.regs ∧
        t.me.spl = s.me.spl) ∧
      (s.me.stack = [] → s.me.spl ≠ 0 →
        let at_ := s.me.spillAt (s.me.spl - 1)
        (∀ ps, s.locateAll at_ (splits at_ 16) = .ok ps → (∀ p ∈ ps, p.hit.remote = false) → s.poisonIn ps = [] →
          let e := unspill (BitVec.ofNat 128 (leNat (s.loadBytes ps)))
          ∃ t, exec i s = .next t ∧ OnlyMe s t ∧ s.me.Returned t.me e.ret e.hdr (s.bodyEndAt e.hdr) e.left e.pass ∧
            t.me.stack = [] ∧ t.me.regs = s.me.regs ∧ t.me.spl = s.me.spl - 1) ∧
        (∀ c f, s.cur.spec = none → s.locateAll at_ (splits at_ 16) = .fault c f → c ≠ 0x10 → Faults s i 0x0D 1 f)) ∧
      (s.me.stack = [] → s.me.spl = 0 → ∃ t, exec i s = .next t ∧ OnlyMe s t ∧
        t.me = { s.me with stall := 0, stallCycles := 0, run := .ended })) ∧
  (∀ (e : RetEntry), e.ret.toNat < 2 ^ 56 → e.hdr.toNat < 2 ^ 56 →
      e.spill.extractLsb' 0 56 = e.ret.extractLsb' 0 56 ∧ e.spill.extractLsb' 56 6 = e.left ∧
      e.spill.extractLsb' 64 56 = e.hdr.extractLsb' 0 56 ∧ e.spill.extractLsb' 120 6 = e.pass ∧ unspill e.spill = e)

/-! ### Queues -/
/-- R194, R195, R61 (Table 3-6), R155: a push by a producer of the queue appends one entry (s[d] in lanes 0 and 1 of a
data queue, one bit for BQPUSH), and on a full queue, or one an unfinished LDQ owns, stalls with kind 1; any other
queue number is an illegal encoding. That a push on a queue an unfinished LDQ owns stalls with kind 1 is the model's
choice (assumption log 81). R194, R155: a pop by a consumer of the queue removes the oldest entry and writes its low
64 bits to s[d] (s0 discards them); on an empty queue, or one an unfinished STQ owns, it stalls with kind 2; any other
queue number is an illegal encoding. That the pop of a queue an unfinished STQ owns stalls with kind 2 is the model's
choice (assumption log 81). R194, R196, R197: QDROP of n removes the n oldest entries when that many are present, none
for a count of 0; a drop that has entries left to remove has removed those that were present, stalls with kind 2 and
keeps the count still to remove as state of its stream, which the drop goes on from, its stall begun anew (R74). -/
def Obligations.QueueInstructions : Prop :=
  (∀ (s : State) (q : BitVec 5) (r : Reg),
      let k := q.toNat
      let x := s.queue k
      let depth := queueDepth k
      let push (i : Instr) (role : Bool) (owned : Bool) (v : VReg) (n : Nat) : Prop :=
        (role = true → owned = false → x.occ < depth → x.Ok depth →
          ∃ y, Does s i (s.setQueue k y) n ∧ y.entries depth = x.entries depth ++ [v] ∧ y.Ok depth) ∧
        (role = true → (depth ≤ x.occ ∨ owned = true) → Stalls s i 1) ∧
        (role = false → s.cur.spec = none → Illegal s i)
      let data := produces s.who k && !(10 ≤ k && k ≤ 12)
      let branch := produces s.who k && (10 ≤ k && k ≤ 12)
      let bit : VReg := if s.rd r = 0 then 0 else 1
      push (.qpush q r) data (s.ownedQ k) ((s.rd r).setWidth 2048) 4 ∧
      push (.cqpush r q) data (s.ownedQ k) ((s.rd r).setWidth 2048) 2 ∧
      push (.bqpush q r) branch false bit 4 ∧ push (.cbqpush r q) branch false bit 2) ∧
  (∀ (s : State) (q : BitVec 5) (d : Reg) (i : Instr) (n : Nat),
      ((i = .qpop q d ∧ n = 4) ∨ (i = .cqpop d q ∧ n = 2)) →
      let k := q.toNat
      let x := s.queue k
      let depth := queueDepth k
      (∀ v rest, consumes s.who k = true → s.ownedQ k = false → x.Ok depth → x.entries depth = v :: rest →
        ∃ y, Yields s i (s.setQueue k y) d (v.extractLsb' 0 64) n ∧ y.entries depth = rest ∧ y.Ok depth) ∧
      (consumes s.who k = true → (x.occ = 0 ∨ s.ownedQ k = true) → Stalls s i 2) ∧
      (consumes s.who k = false → s.cur.spec = none → Illegal s i)) ∧
  (∀ (s : State) (q : BitVec 5) (b : Reg) (m : BitVec 6) (i : Instr) (count : Nat),
      ((i = .qdrop q b ∧ count = (s.rd b).toNat) ∨ (i = .qdropN q m ∧ count = m.toNat + 1)) →
      let k := q.toNat
      let x := s.queue k
      let depth := queueDepth k
      let left := match s.me.drop with
        | some l => l
        | none => count
      (consumes s.who k = true → s.ownedQ k = false → x.Ok depth → left ≤ x.occ →
        ∃ y t, exec i s = .next t ∧ t = (s.setQueue k y).setMe t.me ∧ s.me.Went { t.me with drop := s.me.drop } 4 ∧
          t.me.drop = none ∧ y.entries depth = (x.entries depth).drop left ∧ y.Ok depth) ∧
      (consumes s.who k = true → s.ownedQ k = false → x.Ok depth → 0 < x.occ → x.occ < left →
        ∃ y t, exec i s = .next t ∧ t = (s.setQueue k y).setMe t.me ∧ y.entries depth = [] ∧ y.Ok depth ∧
          t.me.stallCycles ≤ 1 ∧
          t.me = { s.me with drop := some (left - x.occ), stall := 2, stallCycles := t.me.stallCycles }) ∧
      (consumes s.who k = true → x.occ = 0 → 0 < left → Stalls s i 2) ∧
      (consumes s.who k = false → s.cur.spec = none → Illegal s i))

/-! ### Waiting, configuration registers, interrupts, traps -/
/-- R198, R199: WAIT completes when every counter whose field is not 15 is at or below its field and stalls with kind 5
else. PAUSE goes on and issues nothing for n + 1 cycles: a turn of its stream lowers a count above 1 by one and issues
nothing, and the last of them ends the PAUSE; its event changes nothing while more of them, or none, are left. That a
cycle of a stream is one of its turns is the model's choice (assumption logs 2 and 7). R207, R208: LAUNCH on a full
device launch queue, or from the system context, which has none, writes 0; else it stalls with kind 5 while stores of
the strand are in flight, while an access earlier than a token that the control stream has popped is not performed,
and while its tent's cached lines cannot be written back, and then, the cached lines of its tent dropped, copies the
descriptor's header and, for s[b] = 0, argument words of zero into a new record of the tent's queue under a nonzero
unused handle, which it writes to s[d], and sets the queue's kick bit. R404, R337: a fault of a speculative run leaves
no record: its speculation is discarded, every core it held is free, and one counter of the die it ran for rises (that
it is that die's DOTH is the model's reading: assumption log 27). -/
def Obligations.WaitsAndSpeculation : Prop :=
  (∀ (s : State) (l c t r : BitVec 4) (n : BitVec 12),
      let ok (count : Nat) (f : BitVec 4) : Prop := f.toNat = 15 ∨ count ≤ f.toNat
      let all := ok s.cur.ld l ∧ ok s.cur.st c ∧ ok s.cur.jobs.cpq.length t ∧ ok s.cur.jobs.thq.length r
      (all → Passes s (.wait l c t r) 4) ∧ (¬all → Stalls s (.wait l c t r) 5) ∧
      (∃ u, exec (.pause n) s = .next u ∧ OnlyMe s u ∧ u.me.pause = n.toNat + 1 ∧
        s.me.Went { u.me with pause := s.me.pause } 4) ∧
      (s.me.pause = 1 → exec .pauseExpiry s = .next (s.setMe { s.me with pause := 0 })) ∧
      (s.me.pause ≠ 1 → Waits s .pauseExpiry) ∧
      (∀ t, s.agenda = [] → s.dev.failed = false → s.turn = .stream t → s.mayRun = true → s.takesInterrupt = false →
        (1 < s.me.pause → step s = .next { s.setMe { s.me with pause := s.me.pause - 1 } with turn := s.turn.succ }) ∧
        (s.me.pause = 1 → step s = .next { s.setMe { s.me with pause := 0 } with turn := s.turn.succ }))) ∧
  (∀ (s : State) (d a b : Reg), s.who = .c → s.cur.spec = none →
      (s.cur.id.sys = true → Gives s (.launch d a b) d 0 4) ∧
      (∀ t, s.cur.id.sys = false → s.dev.tent s.cur.id.tid.toNat = some t → 64 ≤ t.devq.length → Gives s (.launch d a b) d 0 4) ∧
      (∀ t, s.cur.id.sys = false → s.dev.tent s.cur.id.tid.toNat = some t → t.devq.length < 64 → (s.storesInFlight ≠ [] ∨ s.beforeToken = true ∨ s.flushable 3 = false) →
        Stalls s (.launch d a b) 5) ∧
      (∀ t ps, s.cur.id.sys = false → s.dev.tent s.cur.id.tid.toNat = some t → t.devq.length < 64 →
        s.storesInFlight = [] → s.beforeToken = false → s.flushable 3 = true → (s.rd a).toNat < 2 ^ 56 →
        let w := s.acquired 3
        w.check .load 1 false (s.rd a) 64 = .ok ps → (∀ p ∈ ps, p.hit.remote = false) → w.poisonIn ps = [] → s.rd b = 0 →
        (w.dev.liveHandles t.tid).length < 2 ^ 63 →
        ∃ u r t', exec (.launch d a b) s = .next u ∧ s.me.Wrote u.me d r.handle 4 ∧
          u.cur = s.cur.setStream .c u.me ∧ u.others = s.others ∧ u.dev.mem = w.dev.mem ∧
          u.dev.tent t.tid = some t' ∧ t' = { t with devq := t.devq ++ [r] } ∧
          r.desc = s.rd a ∧ r.header = BitVec.ofNat 512 (leNat (w.loadBytes ps)) ∧
          r.args = List.replicate (((w.loadBytes ps)[13]?.getD 0).toNat + 1) 0 ∧
          r.handle ≠ 0 ∧ r.handle ∉ s.dev.liveHandles t.tid ∧
          (t.home < 8 → (8 * t.tid) ∈ (u.dev.die t.home).kicks))) ∧
  (∀ (s : State) (n : Nat) (p : Speculation), s.cur.spec = some n → s.dev.specs.find? (fun q => q.num == n) = some p →
      p.die < 8 →
      ∃ t, exec .illegalEncoding s = .next t ∧ (∀ q ∈ t.dev.specs, q.num ≠ n) ∧
        (∀ k, k = t.cur ∨ k ∈ t.others → k.spec = some n → False) ∧ t.cur.resident = false ∧
        t.dev.mem = s.dev.mem ∧ t.dev.tents = s.dev.tents ∧
        (t.dev.die p.die).win = { (s.dev.die p.die).win with doth := (s.dev.die p.die).win.doth + 1 } ∧
        (t.dev.die p.die).trapWait = (s.dev.die p.die).trapWait)

/-- R200: CFGR writes the register's value to s[d]; of a system register in user mode it is a privilege fault. R201 (Table
8-4): what the configuration registers read, field by field: Tables 1-1, 2-1 to 2-4, 3-3, 3-11, 3-12, 5-5, 5-9, 7-6,
8-2, R71, R73, Table 4-9. R200, R202, R49: CFGW from the control stream applies each field by its access code: RW
fields take the value, W1C bits clear where it holds a 1, a value outside a register's limits and every read-only
register ignore it; the system registers of the die take theirs in the system context and are a privilege fault in
user mode; another stream's CFGW is an illegal encoding. A new trap ring's control block takes the old one's place
among the persistent regions (R411). R203, R16 (Tables 1-4 and 1-5): CAPR gives entry s[a] of the capability list:
identifiers 1 to 12 in order, version 1, the image bytes of the entry, and zero at and past the end of the list; it
never faults. -/
def Obligations.ConfigurationRegisters : Prop :=
  (∀ (s : State) (d : Reg) (r : BitVec 14),
      ((r.toNat < 0x2000 ∨ s.cur.id.sys = true) → Gives s (.cfgr d r) d (s.cfgValue r) 4) ∧
      (0x2000 ≤ r.toNat → s.cur.id.sys = false → s.cur.spec = none → Faults s (.cfgr d r) 0x02 0 0)) ∧
  (∀ (s : State),
      let k := s.cur
      let f (r : BitVec 14) (lo w : Nat) : BitVec w := (s.cfgValue r).extractLsb' lo w
      (f 0x00 0 3 = k.id.core ∧ f 0x00 3 3 = k.id.clus ∧ f 0x00 6 3 = k.id.die ∧ f 0x00 16 8 = k.id.pkg) ∧
      (f 0x01 0 3 = k.id.six ∧ f 0x01 3 3 = k.id.scntM1 ∧ f 0x01 8 1 = BitVec.ofBool k.id.cor) ∧
      (f 0x02 0 16 = k.id.gx ∧ f 0x02 16 16 = k.id.gy ∧ f 0x02 32 16 = k.id.gz) ∧
      (f 0x03 0 16 = k.id.xm1 ∧ f 0x03 16 16 = k.id.ym1 ∧ f 0x03 32 16 = k.id.zm1) ∧
      (f 0x04 0 3 = k.id.stg ∧ f 0x04 3 3 = k.id.nstgM1) ∧
      (s.cfgValue 0x05 = k.id.ringin ∧ s.cfgValue 0x06 = k.id.ringout) ∧
      (f 0x07 0 8 = k.id.tid ∧ f 0x07 8 16 = k.id.asid ∧ f 0x07 24 4 = k.id.pri) ∧
      (f 0x10 0 5 = k.vrb ∧ f 0x10 8 6 = k.prb) ∧
      (f 0x13 0 6 = s.me.left ∧ f 0x13 6 6 = s.me.pass) ∧
      ((s.me.stack.length ≤ 16 → (f 0x14 0 5).toNat = s.me.stack.length) ∧
        (s.me.spl ≤ 240 → (f 0x14 16 8).toNat = s.me.spl) ∧ s.cfgValue 0x15 = s.me.rsbase) ∧
      (f 0x18 0 16 = BitVec.ofNat 16 k.ld ∧ f 0x18 16 16 = BitVec.ofNat 16 k.st ∧
        f 0x18 32 16 = BitVec.ofNat 16 k.jobs.cpq.length ∧ f 0x18 48 16 = BitVec.ofNat 16 k.jobs.thq.length) ∧
      (s.cfgValue 0x19 = k.jobs.seqcp ∧ s.cfgValue 0x1A = k.jobs.seqtl) ∧
      (f 0x20 0 8 = k.ui.pend ∧ f 0x20 8 1 = BitVec.ofBool k.ui.mask ∧ f 0x20 9 1 = BitVec.ofBool k.ui.inh ∧
        f 0x20 10 1 = BitVec.ofBool k.ui.ovf ∧ f 0x20 11 3 = k.ui.srcs ∧ f 0x20 14 50 = 0) ∧
      (s.cfgValue 0x21 = k.ui.vec ∧ s.cfgValue 0x22 = k.ui.ret ∧ s.cfgValue 0x23 = k.ui.hdr ∧ s.cfgValue 0x24 = k.ui.pass) ∧
      (f 0x28 0 5 = k.fflags ∧ f 0x28 5 59 = 0 ∧ f 0x29 0 8 = k.nbv ∧ f 0x29 8 56 = 0) ∧
      (f 0x38 0 32 = s.dev.rin ∧ f 0x38 32 32 = 0) ∧
      (f 0x2000 0 1 = BitVec.ofBool k.srt ∧ f 0x2001 0 5 = s.myDie.win.hangto ∧ s.cfgValue 0x2002 = s.myDie.win.traprcb ∧
        s.cfgValue 0x2003 = s.myDie.win.hangbuf ∧ f 0x2005 0 2 = k.ctxSt ∧ f 0x2007 0 16 = s.myDie.win.migthr)) ∧
  (∀ (s : State) (a : Reg) (r : BitVec 14),
      let w := s.rd a
      let k := s.cur
      let n := k.id.die.toNat
      let x := s.myDie
      let i : Instr := .cfgw a r
      let win (y : Window) : State := s.setDev (s.dev.setDie n { x with win := y })
      (s.who ≠ .c → s.cur.spec = none → Illegal s i) ∧
      (s.who = .c → 0x2000 ≤ r.toNat → k.id.sys = false → s.cur.spec = none → Faults s i 0x02 0 0) ∧
      (s.who = .c →
        (r = 0x21 → Does s i (s.setCur { k with ui := { k.ui with vec := w &&& 0x00FFFFFFFFFFFFFE } }) 4) ∧
        (r = 0x20 → Does s i (s.setCur { k with ui := { k.ui with ovf := k.ui.ovf && !w.getLsbD 10
                                                                  srcs := k.ui.srcs &&& ~~~w.extractLsb' 11 3 } }) 4) ∧
        (r = 0x28 → Does s i (s.setCur { k with fflags := w.extractLsb' 0 5 }) 4) ∧
        (r = 0x29 → (w.extractLsb' 0 8).toNat ≤ 1 → Does s i (s.setCur { k with nbv := w.extractLsb' 0 8 }) 4) ∧
        (r = 0x29 → 1 < (w.extractLsb' 0 8).toNat → Passes s i 4) ∧
        (r.toNat < 0x20 ∨ r = 0x22 ∨ r = 0x23 ∨ r = 0x24 ∨ r = 0x30 ∨ r = 0x38 → Passes s i 4) ∧
        (k.id.sys = true →
          (r = 0x2000 → Does s i (s.setCur { k with srt := w.getLsbD 0 }) 4) ∧
          (r = 0x2001 → 16 ≤ (w.extractLsb' 0 5).toNat → Does s i (win { x.win with hangto := w.extractLsb' 0 5 }) 4) ∧
          (r = 0x2001 → (w.extractLsb' 0 5).toNat < 16 → Passes s i 4) ∧
          (r = 0x2002 → ∃ p, Does s i ((win { x.win with traprcb := w }).setDev
              { (win { x.win with traprcb := w }).dev with persistPages := p }) 4 ∧
            (∀ g ∈ s.dev.persistPages, g.2.2 ≠ 256 + n → g ∈ p) ∧ ∀ g ∈ p, g ∈ s.dev.persistPages ∨ g.2.2 = 256 + n) ∧
          (r = 0x2003 → Does s i (win { x.win with hangbuf := w &&& ~~~0xFFF }) 4) ∧
          (r = 0x2007 → Does s i (win { x.win with migthr := w.extractLsb' 0 16 }) 4)))) ∧
  (∀ (s : State) (d a : Reg), ∃ v, Gives s (.capr d a) d v 4 ∧
      let i := (s.rd a).toNat
      (12 ≤ i → v = 0) ∧
      (i < 12 → (v.extractLsb' 0 16).toNat = i + 1 ∧ v.extractLsb' 16 8 = 1 ∧ v.extractLsb' 56 8 = 0 ∧
        (v.extractLsb' 24 32).toNat = (if i = 3 then 98368 else if i = 4 then 128 else if i = 5 then 4096 else 0)))

/-- R72, R73, Table 7-7: the control stream takes a pending user-level interrupt at a boundary where PEND is above 0, MASK
and INH are 0 and cfg.uivec is not: it saves the next instruction and the block state, lowers PEND, sets INH,
exchanges s24 to s31 with the shadow bank and begins the vector's block; where one of those fails it changes nothing.
Of the stalls of kind 5 those of a LAUNCH and of a PUBLISH are no boundary. A vector that no transfer may reach faults
with INH set, and one whose page moves is waited for (R364). That in the fault the saved registers are written, PEND
has fallen and s24 to s31 stay in their bank is the model's choice (assumption log 69). R205, R206, R72, R49: UIMASK
sets MASK; UIRET with INH 1 clears it, exchanges the bank back and continues at cfg.uiret in the saved block state;
with INH 0, or in another stream, it is an illegal encoding. R204, R337, R338, R339: TRAP raises a breakpoint with its
code precisely, and what does not decode an illegal encoding; RESUME of the frozen strand ends the freeze with no
other change than that a stream that raised a breakpoint goes on past its TRAP. -/
def Obligations.InterruptsAndTraps : Prop :=
  (∀ (s : State),
      let k := s.cur
      let x := k.ctl
      let c : State := { s with turn := .stream .c }
      let open_ := k.resident = true ∧ k.frozen = false ∧ k.parked = false ∧ k.spillReady = true ∧ x.run = .running ∧ x.rep = none ∧ x.drop = none ∧ x.reply = none ∧
        x.stall ≤ 5 ∧ (x.stall = 5 → s.atCopying = false)
      let due := k.ui.pend ≠ 0 ∧ k.ui.mask = false ∧ k.ui.inh = false ∧ k.ui.vec ≠ 0
      let saved : UiState := { k.ui with ret := x.pc, hdr := x.hdr, pend := k.ui.pend - 1, inh := true
                                         pass := x.left.setWidth 64 ||| (x.pass.setWidth 64 <<< 6) }
      (open_ → ¬due → Waits s .userInterruptTake) ∧
      (x.stall = 5 → s.atCopying = true → Waits s .userInterruptTake) ∧
      (open_ → due → s.transferWaits k.ui.vec = true → Waits s .userInterruptTake) ∧
      (open_ → due → s.transferWaits k.ui.vec = false → c.transferFault .c k.ui.vec true = none →
        ∃ t w, exec .userInterruptTake s = .next t ∧ c.codeWord k.ui.vec = some w ∧
          t = { s with cur := { k with ctl := t.cur.ctl, ui := t.cur.ui } } ∧
          t.cur.ui = { saved with shadow := t.cur.ui.shadow } ∧
          (∀ r : Reg, r.toNat < 24 → t.cur.ctl.get r = x.get r) ∧
          (∀ j : Fin 8, t.cur.ctl.regs[24 + j.val] = k.ui.shadow[j.val] ∧ t.cur.ui.shadow[j.val] = x.regs[24 + j.val]) ∧
          Stream.Entered { x with pause := 0, regs := t.cur.ctl.regs } t.cur.ctl k.ui.vec w ∧ t.cur.ctl.stack = x.stack) ∧
      (∀ e a d, open_ → due → s.transferWaits k.ui.vec = false → c.transferFault .c k.ui.vec true = some (e, a, d) → e ≠ 0x10 →
        k.spec = none →
        ∃ t r, exec .userInterruptTake s = .next t ∧
          t = { s with cur := { k with ui := saved, frozen := true, faults := k.faults ++ [r] } } ∧
          r.cause = e ∧ r.faddr = a ∧ r.detail = d ∧ r.iaddr = x.pc ∧ r.src = 0)) ∧
  (∀ (s : State) (v : BitVec 1),
      let k := s.cur
      let x := k.ctl
      (s.who = .c → Does s (.uimask v) (s.setCur { k with ui := { k.ui with mask := v == 1 } }) 4) ∧
      (s.who = .c → k.ui.inh = true →
        ∃ t, exec .uiret s = .next t ∧ t = { s with cur := { k with ctl := t.cur.ctl, ui := t.cur.ui } } ∧
          t.cur.ui = { k.ui with inh := false, shadow := t.cur.ui.shadow } ∧
          (∀ r : Reg, r.toNat < 24 → t.cur.ctl.get r = x.get r) ∧
          (∀ j : Fin 8, t.cur.ctl.regs[24 + j.val] = k.ui.shadow[j.val] ∧ t.cur.ui.shadow[j.val] = x.regs[24 + j.val]) ∧
          x.Returned t.cur.ctl k.ui.ret k.ui.hdr (s.bodyEndAt k.ui.hdr) (k.ui.pass.extractLsb' 0 6)
            (k.ui.pass.extractLsb' 6 6) ∧ t.cur.ctl.stack = x.stack ∧ t.cur.ctl.spl = x.spl) ∧
      (s.who = .c → k.ui.inh = false → k.spec = none → Illegal s .uiret) ∧
      (s.who ≠ .c → k.spec = none → Illegal s .uiret ∧ Illegal s (.uimask v))) ∧
  (∀ (s : State) (c : BitVec 16),
      let k := s.cur
      let resumed : Strand := { k with frozen := false, hung := false, faults := [], published := 0, turned := [] }
      (k.spec = none → Faults s (.trap c) 0x12 c 0 ∧ Illegal s .illegalEncoding) ∧
      (k.resident = true → k.frozen = true → k.hung = false → k.spillReady = true → k.badQueue = none →
        k.published = k.faults.length → (∀ o ∈ s.others, o.resident = true → o.id.coreNum ≠ k.id.coreNum) →
        (∀ r ∈ k.faults, r.src.toNat < 3) →
        ((∀ r ∈ k.faults, r.cause ≠ 0x12) → exec (.sresumeResume k.id.stag k.id.six) s = .next (s.setCur resumed)) ∧
        (∀ r, k.faults = [r] → r.cause = 0x12 →
          (r.src = 0 → exec (.sresumeResume k.id.stag k.id.six) s = .next (s.setCur { resumed with ctl := k.ctl.done 4 })) ∧
          (r.src = 1 → exec (.sresumeResume k.id.stag k.id.six) s = .next (s.setCur { resumed with acc := k.acc.done 4 })) ∧
          (r.src = 2 → exec (.sresumeResume k.id.stag k.id.six) s = .next (s.setCur { resumed with exe := k.exe.done 4 })))))

/-! ### Loads, stores, ordering -/
/-- R211 (Table 9-1, orders 2 to 6), R76, R79, R80, R100: the checks of an access in their order: privilege on the address
and on a system-only object behind a page, alignment, translation, whose failure is cause 0x04, or 0x10 where a walker
reads poison (R420), the permission of each part, the granary rule; and the parts when all pass. R82, R105, R220,
R226, Table 4-2: which accesses a page or an object denies: a page with U = 0 or, for reads, an irrevocable page to
user mode, a page without R or W, an irrevocable page to a release, and to an atomic of user mode (R333). -/
def Obligations.AccessRights : Prop :=
  (∀ (s : State) (kind : AccKind) (align : Nat) (gran : Bool) (ea : Word) (n : Nat),
      let f := s.check kind align gran ea n
      let user := s.cur.id.sys = false
      let space := ea.toNat / 2 ^ 56
      let barred := user ∧ (space = 4 ∨ (space = 3 ∧ ea.toNat / 2 ^ 24 % 16 = 6))
      (barred → f = .fault 0x02 ea) ∧
      (¬barred → user → space = 0 → ∀ ps p a b, s.locateAll ea (splits ea n) = .ok ps → ps = a ++ p :: b →
        (∀ q ∈ a, q.hit.queueObj = false) → p.hit.queueObj = true → f = .fault 0x02 (ea + BitVec.ofNat 64 p.start)) ∧
      (¬barred → s.systemOnly ea n = none → ea.toNat % align ≠ 0 → f = .fault 0x03 ea) ∧
      (¬barred → s.systemOnly ea n = none → ea.toNat % align = 0 →
        (∀ c a, s.locateAll ea (splits ea n) = .fault c a → f = .fault c a ∧ (c = 0x04 ∨ c = 0x10)) ∧
        (∀ ps, s.locateAll ea (splits ea n) = .ok ps →
          let bad (p : Piece) : Prop := s.denied kind p.hit = true
          (∀ a p b, ps = a ++ p :: b → (∀ q ∈ a, ¬bad q) → bad p → f = .fault 0x05 (ea + BitVec.ofNat 64 p.start)) ∧
          ((∀ p ∈ ps, ¬bad p) → (gran = false ∨ ∀ p ∈ ps, p.hit.gran = true) → f = .ok ps)))) ∧
  (∀ (s : State) (h : Hit), h.noLdst = false → h.queueObj = false → (s.cur.id.sys = true ∨ h.u = true) →
      let userIrr := s.cur.id.sys = false ∧ h.irr = true
      (s.denied .load h = true ↔ h.r = false ∨ userIrr) ∧
      (s.denied .store h = true ↔ h.w = false) ∧
      (s.denied .release h = true ↔ h.w = false ∨ h.irr = true) ∧
      (s.denied .atomic h = true ↔ h.r = false ∨ h.w = false ∨ userIrr))

/-- R213, R214: LD in both address forms, on parts of the strand's own die: s[d] takes the 2^SZ bytes of its range, low
byte first, sign-extended when X is 1 and zero-extended else; memory and every other register are unchanged. A failed
check is that precise fault. R86, R102: what a load reads of one byte of a page: the byte in memory, or zero in a unit
not yet committed; of an on-chip object, the object's byte. -/
def Obligations.LoadInstructions : Prop :=
  (∀ (s : State) (x : BitVec 1) (z c : BitVec 2) (a b d : Reg) (o : Off10) (i : Instr) (ea : Word) (n : Nat),
      ((i = .ld x z a d o ∧ ea = wrap ((s.rd a).toInt + o.int) 64 ∧ n = off10Len o) ∨
        (i = .ldIndexed c x z b a d ∧ ea = wrap ((s.rd a).toInt + (s.rd b).toInt * 2 ^ c.toNat) 64 ∧ n = 4)) →
      Quiet s →
      let bytes := 2 ^ z.toNat
      (∀ e f, s.check .load 1 false ea bytes = .fault e f → FaultsAt s i e 0 f) ∧
      (∀ ps, s.check .load 1 false ea bytes = .ok ps → (∀ p ∈ ps, p.hit.remote = false) → s.poisonIn ps = [] →
        let v : Int := leNat (s.loadBytes ps)
        ∃ e, SameButTlb s.dev e ∧
          Yields s i (s.setDev e) d (wrap (if x = 1 ∧ 2 ^ (8 * bytes - 1) ≤ v then v - 2 ^ (8 * bytes) else v) 64) n)) ∧
  (∀ (s : State) (h : Hit) (k : Nat), s.cur.spec = none →
      (∀ key, h.loc = .phys key → (h.remote = false ∨ h.mode ≠ 1) →
        s.loadByte h k = if h.cls.isSome = true ∧ h.committed = false then 0 else s.dev.mem.get (key + k)) ∧
      (∀ obj off, h.loc = .own obj off → s.loadByte h k = s.cur.objByte obj (off + k)))

/-- R213, R214, R408: ST in both address forms to committed DRAM of the strand's own die: the low 2^SZ bytes of s[d] are
stored from the address up, low byte first, EVERY other byte of memory is unchanged, every line written carries the
current interval's tag, and a line that did not has its old contents in the undo log, but for the lines of the die's
carve-outs, which are not logged. No register changes. A failed check is that precise fault. R213, R214, Table 4-2:
the same store to the strand's own LS or granary writes that object alone: its other bytes, the other objects and all
of memory are unchanged. -/
def Obligations.StoreInstructions : Prop :=
  (∀ (s : State) (z c : BitVec 2) (a b d : Reg) (o : Off10) (i : Instr) (ea : Word) (n : Nat),
      ((i = .st z a d o ∧ ea = wrap ((s.rd a).toInt + o.int) 64 ∧ n = off10Len o) ∨
        (i = .stIndexed c z b a d ∧ ea = wrap ((s.rd a).toInt + (s.rd b).toInt * 2 ^ c.toNat) 64 ∧ n = 4)) →
      Quiet s → s.dev.mem.wf = true →
      let bytes := 2 ^ z.toNat
      (∀ e f, s.check .store 1 false ea bytes = .fault e f → FaultsAt s i e (if e = 0x04 ∨ e = 0x05 then 1 else 0) f) ∧
      (∀ p key, s.check .store 1 false ea bytes = .ok [p] → p.Dram key → s.logStall [p] = false →
        ∃ t, exec i s = .next t ∧ s.me.Went t.me n ∧ t.cur = s.cur.setStream .a t.me ∧ t.others = s.others ∧
          t.dev = { s.dev with mem := t.dev.mem, tags := t.dev.tags, poison := t.dev.poison, restored := t.dev.restored
                               specs := t.dev.specs, dies := t.dev.dies, sealReq := t.dev.sealReq
                               nextSeal := t.dev.nextSeal } ∧
          (∀ k < bytes, t.dev.mem.get (key + k) = BitVec.ofNat 8 ((s.rd d).toNat / 256 ^ k)) ∧
          (∀ k, (k < key ∨ key + bytes ≤ k) → t.dev.mem.get k = s.dev.mem.get k) ∧
          (∀ l ∈ linesOf key bytes, s.dev.carved l = false → t.dev.tag l = s.dev.rin.setWidth 8) ∧
          (∀ l ∈ linesOf key bytes, s.dev.carved l = false → s.dev.tag l ≠ s.dev.rin.setWidth 8 →
              s.dev.owns (linePeer l) = true →
            ∃ u ∈ (t.dev.die (linePeer l % 8)).undo, u.line = l ∧ u.rin = s.dev.rin ∧ u.otag = s.dev.tag l ∧
              u.data = s.dev.lineData l))) ∧
  (∀ (s : State) (z : BitVec 2) (a d : Reg) (o : Off10) (p : Piece) (obj off : Nat), Quiet s →
      let ea : Word := wrap ((s.rd a).toInt + o.int) 64
      s.check .store 1 false ea (2 ^ z.toNat) = .ok [p] → p.hit.loc = .own obj off → obj < 2 → p.hit.irr = false →
      p.hit.cls = none → s.cur.ls.wf = true → s.cur.gr.wf = true →
      ∃ t e, exec (.st z a d o) s = .next t ∧ SameButTlb s.dev e ∧ s.me.Went t.me (off10Len o) ∧
        t = ((s.setDev e).setCur { s.cur with ls := t.cur.ls, gr := t.cur.gr }).setMe t.me ∧
        (∀ k < 2 ^ z.toNat, t.cur.objByte obj (off + k) = BitVec.ofNat 8 ((s.rd d).toNat / 256 ^ k)) ∧
        (∀ o' f, (o' ≠ obj ∨ f < off ∨ off + 2 ^ z.toNat ≤ f) → o' < 6 → t.cur.objByte o' f = s.cur.objByte o' f))

/-- R70, R97, R67, R91, R417, R210: what an access waits for: its counter at 65,535 (kind 5), the footprint of an
unretired job or an element of a queue stream not yet performed, whichever name the bytes go by (kind 6), room in a
full undo log (kind 7), for a load the accesses that Table 4-7 keeps before it; nothing of it is performed. A store
that Table 4-7 keeps behind a queue stream completes, counted on st and not yet performed. R281, R97: two ranges
conflict only within one space, and an access stalls on a job's write regions whatever it does and on its read regions
when it writes. R219 to R221: LDA loads, STREL stores, with alignment, on the strand's own die; FENCE completes when
nothing earlier is unfinished and waits else; PREF does nothing. A misaligned LDA or STREL is an alignment fault. That
the wait of FENCE has no stall kind (assumption log 41) and that a system-mode LDA of an irrevocable page, which R220
would fault, is performed (assumption log 54, after R333) are the model's choices. -/
def Obligations.AccessWaits : Prop :=
  (∀ (s : State) (x : BitVec 1) (z : BitVec 2) (a d : Reg) (o : Off10),
      let ea : Word := wrap ((s.rd a).toInt + o.int) 64
      let n := 2 ^ z.toNat
      s.who = .a → s.me.reply = none → s.cur.spec = none →
      (65535 ≤ s.cur.ld → Stalls s (.ld x z a d o) 5) ∧ (65535 ≤ s.cur.st → Stalls s (.st z a d o) 5) ∧
      (∀ ps, s.cur.ld < 65535 → s.check .load 1 false ea n = .ok ps →
        (s.cur.jobStall .load ea n = true ∨ s.elementStall ea n = true) → Stalls s (.ld x z a d o) 6) ∧
      (∀ ps, s.cur.ld < 65535 → s.check .load 1 false ea n = .ok ps → s.cur.jobStall .load ea n = false →
        s.elementStall ea n = false → s.kept .load ps = true → Idles s (.ld x z a d o)) ∧
      (∀ ps, s.cur.st < 65535 → s.check .store 1 false ea n = .ok ps → s.commitAll ea 1 ps = .full →
        Stalls s (.st z a d o) 7) ∧
      (∀ ps, s.cur.st < 65535 → s.check .store 1 false ea n = .ok ps → s.commitAll ea 1 ps = .done s →
        (s.cur.jobStall .store ea n = true ∨ s.elementStall ea n = true → Stalls s (.st z a d o) 6) ∧
        (s.cur.jobStall .store ea n = false → s.elementStall ea n = false →
          (s.logStall ps = true → Stalls s (.st z a d o) 7) ∧
          (∀ p ∈ ps, ∀ q ∈ s.cur.qstreams, s.logStall ps = false → q.keeps .store p.hit = true →
            ∃ t q', exec (.st z a d o) s = .next t ∧ s.me.Went t.me (off10Len o) ∧ t.dev.mem = s.dev.mem ∧
              t.cur.st = s.cur.st + 1 ∧ t.cur.qstreams = s.cur.qstreams ++ [q'] ∧ q'.plain = true)))) ∧
  (∀ (cs : List Card) (kind : AccKind) (a : Word) (n : Nat),
      (cardsStall cs kind a n = true ↔ ∃ c ∈ cs, ∃ r ∈ c.regions.toList,
        (r ∈ c.writes ∨ (kind ≠ .load ∧ r ∈ c.reads)) ∧ n ≠ 0 ∧ r.len.toNat ≠ 0 ∧
        r.base.toNat / 2 ^ 56 = a.toNat / 2 ^ 56 ∧ r.base.toNat < a.toNat + n ∧ a.toNat < r.base.toNat + r.len.toNat)) ∧
  (∀ (s : State) (sc : BitVec 3) (z : BitVec 2) (a d : Reg) (l : OptLit), Quiet s →
      let n := 2 ^ z.toNat
      let ea := s.rd a + optLitVal l
      (∀ ps, s.check .load n false ea n = .ok ps → (∀ p ∈ ps, p.hit.remote = false) → s.poisonIn ps = [] →
        ∃ e, SameButTlb s.dev e ∧ Yields s (.lda sc z a d l) (s.setDev e) d (BitVec.ofNat 64 (leNat (s.loadBytes ps))) (optLitLen l)) ∧
      (∀ p key, s.dev.mem.wf = true → s.check .release n false ea n = .ok [p] → p.Dram key → s.logStall [p] = false →
        ∃ t, exec (.strel sc z a d l) s = .next t ∧ s.me.Went t.me (optLitLen l) ∧ t.cur = s.cur.setStream .a t.me ∧
          t.others = s.others ∧
          (∀ k < n, t.dev.mem.get (key + k) = BitVec.ofNat 8 ((s.rd d).toNat / 256 ^ k)) ∧
          (∀ k, (k < key ∨ key + n ≤ k) → t.dev.mem.get k = s.dev.mem.get k)) ∧
      (s.privileged ea = false → s.systemOnly ea n = none → ea.toNat % n ≠ 0 → Faults s (.lda sc z a d l) 0x03 0 ea ∧ Faults s (.strel sc z a d l) 0x03 0 ea) ∧
      (s.cur.ld = 0 → s.cur.st = 0 → Passes s (.fence sc) 4) ∧
      ((s.cur.ld ≠ 0 ∨ s.cur.st ≠ 0) → Idles s (.fence sc)) ∧
      Passes s (.pref a l) (optLitLen l))

/-- R216 to R218: LDQ and STQ whose elements all pass their checks become unfinished queue streams of the strand, counted
on ld or st, at entry 0; the first failing element is a precise fault and nothing is recorded; an STQ whose commits
find the undo log full stalls with kind 7 (R417). R217, R218: the next entry of an LDQ, of elements on the strand's
own die, is loaded and pushed with element i in lane i (in lanes 2i and 2i + 1 for SZ 11), and the stream goes to its
next entry or ends, which lowers ld. R217, R218: the next element of an STQ goes to committed DRAM of the strand's own
die: the first element of an entry pops the queue, the element's bytes are stored at its address and no other byte of
memory changes, and the last element of the last entry ends the stream, which lowers st. -/
def Obligations.QueueStreams : Prop :=
  (∀ (s : State) (x : BitVec 1) (z : BitVec 2) (a b : Reg) (q : BitVec 5), Quiet s →
      let raw (store : Bool) (kinds : List Nat) : QStream :=
        { store := store, sext := !store && x == 1, sz := z, base := s.rd a, shape := s.rd b, queue := q.toNat, entry := 0
          elem := 0, held := none, replies := [], kinds := kinds, iaddr := s.me.pc, tl := s.cur.jobs.issuedTl
          cp := s.cur.jobs.issuedCp, toks := s.tokens }
      let es := (List.range ((s.rd b).toNat % 65536 + 1)).flatMap fun e =>
        (List.range (if z = 3 then 32 else 64)).map fun i => (raw false []).addr e i
      let st (store : Bool) : QStream := raw store (s.elemKinds (if store then .store else .load) (2 ^ z.toNat) es)
      (s.checkElems .load (2 ^ z.toNat) es = (none, false) →
        Does s (.ldq x z b a q) (s.setCur { s.cur with ld := s.cur.ld + 1, qstreams := [st false] }) 4) ∧
      (∀ c f w, s.checkElems .load (2 ^ z.toNat) es = (some (c, f), w) → FaultsAt s (.ldq x z b a q) c 0 f) ∧
      (s.checkElems .store (2 ^ z.toNat) es = (none, false) → s.commitElems (2 ^ z.toNat) es = .done s →
        Does s (.stq z b a q) (s.setCur { s.cur with st := s.cur.st + 1, qstreams := [st true] }) 4) ∧
      (s.checkElems .store (2 ^ z.toNat) es = (none, false) → s.commitElems (2 ^ z.toNat) es = .full →
        Stalls s (.stq z b a q) 7) ∧
      (∀ c f w, s.checkElems .store (2 ^ z.toNat) es = (some (c, f), w) →
        FaultsAt s (.stq z b a q) c (if c = 0x04 ∨ c = 0x05 then 1 else 0) f)) ∧
  (∀ (s : State) (q : QStream) (pss : List (List Piece)),
      let depth := queueDepth q.queue
      let x := s.queue q.queue
      s.cur.resident = true → s.cur.parked = false → s.cur.spec = none → s.cur.qstreams = [q] → q.store = false →
      q.replies = [] → q.queue < 13 → x.Ok depth → x.occ < depth → s.cur.cards = [] → s.myDie.requests = [] →
      pss.length = q.lanes →
      (∀ i ps, pss[i]? = some ps → s.check .load 1 false (q.addr q.entry i) q.width = .ok ps ∧
        (∀ p ∈ ps, p.hit.remote = false) ∧ s.poisonIn ps = []) →
      let v (i : Nat) : Nat := leNat (s.loadBytes (pss.getD i []))
      ∃ u y e, exec (.ldqEntryPush 0) s = .next u ∧ y.entries depth = x.entries depth ++ [e] ∧ y.Ok depth ∧
        u.cur.queues = s.cur.queues.setIfInBounds q.queue y ∧
        (∀ i < q.lanes,
          (q.sz = 3 → (e.extractLsb' (64 * i) 64).toNat = v i) ∧
          (q.sz ≠ 3 → q.sext = false → (e.extractLsb' (32 * i) 32).toNat = v i) ∧
          (q.sz = 0 → q.sext = true → e.extractLsb' (32 * i) 32 = (BitVec.ofNat 8 (v i)).signExtend 32) ∧
          (q.sz = 1 → q.sext = true → e.extractLsb' (32 * i) 32 = (BitVec.ofNat 16 (v i)).signExtend 32)) ∧
        (q.entry + 1 < q.count → u.cur.qstreams = [{ q with entry := q.entry + 1, elem := 0, held := none, replies := [] }] ∧
          u.cur.ld = s.cur.ld) ∧
        (q.count ≤ q.entry + 1 → u.cur.qstreams = [] ∧ u.cur.ld = s.cur.ld - 1)) ∧
  (∀ (s : State) (q : QStream) (p : Piece) (key : Nat) (v : VReg),
      let depth := queueDepth q.queue
      let x := s.queue q.queue
      let n := q.width
      s.cur.resident = true → s.cur.parked = false → s.cur.spec = none → s.cur.qstreams = [q] → q.store = true → q.queue < 13 → q.entry < q.count →
      q.elem < q.lanes → s.cur.cards = [] → s.myDie.requests = [] → s.dev.mem.wf = true → x.Ok depth →
      s.check .store 1 false (q.addr q.entry q.elem) n = .ok [p] → p.start = 0 → p.len = n → p.Dram key → s.logStall [p] = false →
      (q.held = some v ∨ (q.held = none ∧ (x.entries depth).head? = some v)) →
      ∃ u, exec (.stqElementStore 0) s = .next u ∧
        (∀ k < n, u.dev.mem.get (key + k) =
          (v >>> ((if q.sz = 3 then 64 else 32) * q.elem + 8 * k)).setWidth 8) ∧
        (∀ k, (k < key ∨ key + n ≤ k) → u.dev.mem.get k = s.dev.mem.get k) ∧
        (q.held = none → (u.queue q.queue).entries depth = (x.entries depth).tail) ∧
        (q.held = some v → u.queue q.queue = x) ∧
        (q.elem + 1 < q.lanes → u.cur.qstreams = [{ q with elem := q.elem + 1, held := some v }] ∧ u.cur.st = s.cur.st) ∧
        (q.elem + 1 = q.lanes → q.entry + 1 < q.count →
          u.cur.qstreams = [{ q with entry := q.entry + 1, elem := 0, held := none }] ∧ u.cur.st = s.cur.st) ∧
        (q.elem + 1 = q.lanes → q.entry + 1 = q.count → u.cur.qstreams = [] ∧ u.cur.st = s.cur.st - 1))

/-! ### Granary atomics, barriers, rings, seals -/
/-- R222 to R226 (Tables 9-2 and 9-3): the 32- and 64-bit atomics on a granary object of the strand's own die, under every
scope and order: the new value at the object, the old one zero-extended in s[d], no store where none is made, and
nothing else but the TLB changed. R227: the 128-bit atomics act on register pairs: b = 0 supplies zero, d = 0 writes
no result, GCAS compares with pair d; the old object returns in pair d. R83, R100, R211, R226: an atomic, barrier or
ring operation whose object fails its checks takes that precise fault with DETAIL 2 for translation and permission; a
misaligned address is one of them, and so is an object outside a granary. -/
def Obligations.AtomicInstructions : Prop :=
  (∀ (s : State) (sc : BitVec 3) (o : BitVec 2) (z : BitVec 1) (a b d : Reg) (p : Piece), Quiet s →
      let n := if z = 0 then 4 else 8
      let M := 256 ^ n
      s.check .atomic n true (s.rd a) n = .ok [p] → p.hit.remote = false →
      let loc := p.hit.loc
      let old := leNat (s.getBytes loc n)
      let B := (s.rd b).toNat % M
      let D := (s.rd d).toNat % M
      let sgn (v : Nat) : Int := if v < M / 2 then v else (v : Int) - M
      let bytes (v : Nat) : Option (List Byte) := some (natLe n (v % M))
      let gives (v : Nat) (x : Stream) : Prop := s.me.Wrote x d (BitVec.ofNat 64 v) 4
      let plain := s.isArming loc = false ∨ z = 0
      AtomicDone s (.gadd sc o z b a) loc (bytes (old + B)) (fun x => s.me.Went x 4) ∧
      (plain → AtomicDone s (.gswap sc o z b a d) loc (bytes B) (gives old)) ∧
      (plain → AtomicDone s (.gcas sc o z b a d) loc (if old = D then bytes B else none) (gives old)) ∧
      AtomicDone s (.gfadd sc o z b a d) loc (bytes (old + B)) (gives old) ∧
      AtomicDone s (.gincw sc o z b a d) loc (bytes (if B ≤ old then 0 else old + 1)) (gives old) ∧
      AtomicDone s (.gmin sc o z b a d) loc (bytes (if sgn old ≤ sgn B then old else B)) (gives old) ∧
      AtomicDone s (.gmax sc o z b a d) loc (bytes (if sgn old ≤ sgn B then B else old)) (gives old) ∧
      AtomicDone s (.gand sc o z b a d) loc (bytes (old &&& B)) (gives old) ∧
      AtomicDone s (.gor sc o z b a d) loc (bytes (old ||| B)) (gives old) ∧
      (z = 0 → let A := (s.rd b).toNat % 2 ^ 32
        let U := (s.rd b).toNat / 2 ^ 32
        let refused := U < old ∨ 2 ^ 32 ≤ old + A ∨ U < old + A
        (refused → AtomicDone s (.gbfadd sc o b a d) loc none (gives (2 ^ 63 + old))) ∧
        (¬refused → AtomicDone s (.gbfadd sc o b a d) loc (bytes (old + A)) (gives old)))) ∧
  (∀ (s : State) (sc : BitVec 3) (o : BitVec 2) (a b d : Reg) (p : Piece), Quiet s →
      b.toNat % 2 = 0 → d.toNat % 2 = 0 → s.check .atomic 16 true (s.rd a) 16 = .ok [p] → p.hit.remote = false →
      let loc := p.hit.loc
      let old : BitVec 128 := BitVec.ofNat 128 (leNat (s.getBytes loc 16))
      let pair (r : Reg) : BitVec 128 := if r = 0 then 0 else s.rd (r + 1) ++ s.rd r
      let bytes (v : BitVec 128) : Option (List Byte) := some (natLe 16 v.toNat)
      let res (x : Stream) : Prop := s.me.WrotePair x d old 4
      AtomicDone s (.gswapQ sc o b a d) loc (bytes (pair b)) res ∧
      AtomicDone s (.gcasQ sc o b a d) loc (if old = pair d then bytes (pair b) else none) res ∧
      AtomicDone s (.gandQ sc o b a d) loc (bytes (old &&& pair b)) res ∧
      AtomicDone s (.gorQ sc o b a d) loc (bytes (old ||| pair b)) res) ∧
  (∀ (s : State) (sc : BitVec 3) (o : BitVec 2) (z : BitVec 1) (a b d : Reg) (c : BitVec 8) (f : Word), Quiet s →
      let n := if z = 0 then 4 else 8
      let dt : BitVec 16 := if c = 0x04 ∨ c = 0x05 then 2 else 0
      (s.check .atomic n true (s.rd a) n = .fault c f →
        FaultsAt s (.gadd sc o z b a) c dt f ∧ FaultsAt s (.gfadd sc o z b a d) c dt f ∧ FaultsAt s (.gswap sc o z b a d) c dt f ∧
        FaultsAt s (.gcas sc o z b a d) c dt f) ∧
      (s.check .atomic 16 true (s.rd a) 16 = .fault c f →
        FaultsAt s (.gswapQ sc o b a d) c dt f ∧ FaultsAt s (.barinit sc o b a d) c dt f ∧ FaultsAt s (.barwait sc b a d) c dt f ∧
        FaultsAt s (.barqry sc o a d) c dt f) ∧
      (s.check .atomic 64 true (s.rd a) 64 = .fault c f →
        FaultsAt s (.rresv d a b) c dt f ∧ FaultsAt s (.wenq d a b) c dt f ∧ FaultsAt s (.rpop d a) c dt f ∧
        FaultsAt s (.rpeek d a) c dt f))

/-- R228 to R231, R233 (Tables 9-4 to 9-6): the fields a barrier operation leaves. BARINIT sets ARR 0, EXP, BYT, OVR 0,
LASTID 0 and keeps PH and WAITERS; an arrival adds to ARR, or at EXP completes the phase, with an excess setting OVR;
bad objects and empty operands change nothing. R229 to R233, R150: the barrier instructions on an object of the
strand's own die return, in pair d, the object's image after them with ST in bits [73:70] and zero in [79:74]; BARARR
that completes a phase releases every strand waiting on the object; BARWAIT returns at once from a bad object or a
phase that is past, and else counts itself in WAITERS and stalls with kind 9. R232: the end of a waiting BARWAIT of
the strand's own die: once released, or its bound expired, it takes itself off WAITERS, returns the image of its last
read with ST 3 if it was released and 4 else, and ld falls; until then it stalls with kind 9. The bound's expiry is
recorded only while no release has come. That the bound falls by one at each execution of the waiting BARWAIT is the
model's choice (assumption log 7). -/
def Obligations.BarrierObjects : Prop :=
  (∀ (x : Bar) (n who : BitVec 32),
      let r := x.arrive n who
      let y := r.1
      let bad := x.exp = 0 ∨ x.extractLsb' 70 10 ≠ 0
      let kept := y.exp = x.exp ∧ y.byt = x.byt ∧ y.waiters = x.waiters ∧ y.extractLsb' 70 10 = 0
      (bad → r = (x, 6, false)) ∧
      (¬bad → n = 0 → r = (x, 0, false)) ∧
      (¬bad → n ≠ 0 → x.arr.toNat + n.toNat < x.exp.toNat →
        kept ∧ y.lastId = who ∧ y.arr.toNat = x.arr.toNat + n.toNat ∧ y.ph = x.ph ∧ y.ovr = x.ovr ∧ r.2 = (0, false)) ∧
      (¬bad → n ≠ 0 → x.arr.toNat + n.toNat = x.exp.toNat →
        kept ∧ y.lastId = who ∧ y.arr = 0 ∧ y.ph = x.ph + 1 ∧ y.ovr = x.ovr ∧ r.2 = (1, true)) ∧
      (¬bad → n ≠ 0 → x.exp.toNat < x.arr.toNat + n.toNat →
        kept ∧ y.lastId = who ∧ y.arr = 0 ∧ y.ph = x.ph + 1 ∧ y.ovr = 1 ∧ r.2 = (2, true))) ∧
  (∀ (s : State) (sc : BitVec 3) (o : BitVec 2) (o1 : BitVec 1) (a b d : Reg) (p : Piece), Quiet s →
      d.toNat % 2 = 0 → d ≠ 0 → s.check .atomic 16 true (s.rd a) 16 = .ok [p] → p.hit.remote = false →
      let loc := p.hit.loc
      let x : Bar := BitVec.ofNat 128 (leNat (s.getBytes loc 16))
      let B := s.rd b
      let bytes (v : Bar) : Option (List Byte) := some (natLe 16 v.toNat)
      let img (v : Bar) (st : BitVec 4) : BitVec 128 := v.extractLsb' 80 48 ++ (0 : BitVec 6) ++ st ++ v.extractLsb' 0 70
      let res (v : BitVec 128) (m : Stream) : Prop := s.me.WrotePair m d v 4
      let bad := x.exp = 0 ∨ x.extractLsb' 70 10 ≠ 0
      let r := x.arrive (B.setWidth 32) (s.cur.id.tid ++ s.cur.id.pkg ++ (0 : BitVec 7) ++ s.cur.id.coreNum)
      (B.setWidth 32 = (0 : BitVec 32) → AtomicDone s (.barinit sc o b a d) loc none (res (img x 6))) ∧
      (B.setWidth 32 ≠ (0 : BitVec 32) → ∃ y : Bar, y.arr = 0 ∧ y.exp = B.setWidth 32 ∧ y.ph = x.ph ∧ y.ovr = 0 ∧
        y.byt = B.extractLsb' 32 1 ∧ y.waiters = x.waiters ∧ y.lastId = 0 ∧ y.extractLsb' 70 10 = 0 ∧
        AtomicDone s (.barinit sc o b a d) loc (bytes y) (res (img y 5))) ∧
      (r.2.2 = false → AtomicDone s (.bararr sc o1 b a d) loc (if r.2.1 = 6 then none else bytes r.1) (res (img r.1 r.2.1))) ∧
      (r.2.2 = true → ∃ t e, exec (.bararr sc o1 b a d) s = .next t ∧ SameButTlb s.dev e ∧ res (img r.1 r.2.1) t.me ∧
        t = (((s.setDev e).setBytes loc (natLe 16 r.1.toNat)).releaseBar loc).setMe t.me) ∧
      AtomicDone s (.barqry sc o a d) loc none (res (img x (if bad then 6 else 5))) ∧
      (bad → AtomicDone s (.barwait sc b a d) loc none (res (img x 6))) ∧
      (¬bad → x.ph ≠ B.extractLsb' 0 4 → AtomicDone s (.barwait sc b a d) loc none (res (img x 3))) ∧
      (¬bad → x.ph = B.extractLsb' 0 4 → x.waiters.toNat < 65535 →
        ∃ (t : State) (e : Device) (y : Bar) (w : BarWait), exec (.barwait sc b a d) s = .next t ∧ SameButTlb s.dev e ∧
          y.waiters = x.waiters + 1 ∧ (∀ k, (k < 80 ∨ 96 ≤ k) → y.getLsbD k = x.getLsbD k) ∧
          t = (((s.setDev e).setBytes loc (natLe 16 y.toNat)).count false (· + 1)).setMe t.me ∧
          t.me = { s.me with barwait := some w, stall := 9, stallCycles := t.me.stallCycles } ∧
          w.counted = true ∧ w.released = false ∧ w.expired = false ∧ w.bound = B.extractLsb' 32 32)) ∧
  (∀ (s : State) (sc : BitVec 3) (a b d : Reg) (p : Piece) (w : BarWait), s.who = .a → s.cur.spec = none → s.cur.cards = [] →
      s.cur.qstreams = [] → s.myDie.lines = [] → s.me.reply = none → s.me.barwait = some w →
      d.toNat % 2 = 0 → d ≠ 0 → s.check .atomic 16 true (s.rd a) 16 = .ok [p] →
      let loc := p.hit.loc
      let x : Bar := BitVec.ofNat 128 (leNat (s.getBytes loc 16))
      let img (v : Bar) (st : BitVec 4) : BitVec 128 := v.extractLsb' 80 48 ++ (0 : BitVec 6) ++ st ++ v.extractLsb' 0 70
      ((w.released = true ∨ w.expired = true) → w.counted = true →
        ∃ (t : State) (e : Device) (y : Bar), exec (.barwait sc b a d) s = .next t ∧ SameButTlb s.dev e ∧
          y.waiters = x.waiters - 1 ∧ (∀ k, (k < 80 ∨ 96 ≤ k) → y.getLsbD k = x.getLsbD k) ∧
          let u := (s.setDev e).setBytes loc (natLe 16 y.toNat)
          t = (u.count false (· - 1)).setMe t.me ∧ t.me.barwait = none ∧
          s.me.WrotePair { t.me with barwait := s.me.barwait } d
            (img (BitVec.ofNat 128 (leNat (u.getBytes loc 16))) (if w.released = true then 3 else 4)) 4) ∧
      ((w.released = true ∨ w.expired = true) → w.counted = false →
        ∃ t e, exec (.barwait sc b a d) s = .next t ∧ SameButTlb s.dev e ∧
          t = ((s.setDev e).count false (· - 1)).setMe t.me ∧ t.me.barwait = none ∧
          s.me.WrotePair { t.me with barwait := s.me.barwait } d (img x (if w.released = true then 3 else 4)) 4) ∧
      (w.released = false → w.expired = false →
        ∃ t e v, exec (.barwait sc b a d) s = .next t ∧ SameButTlb s.dev e ∧ t = (s.setDev e).setMe t.me ∧
          t.me = { s.me with barwait := some v, stall := 9, stallCycles := t.me.stallCycles } ∧
          v = { w with bound := if 1 < w.bound.toNat then w.bound - 1 else w.bound }) ∧
      (w.bound = 1 → w.released = false → exec .barwaitBoundExpiry s =
        .next (s.setCur { s.cur with acc := { s.cur.acc with barwait := some { w with expired := true } } })) ∧
      ((w.bound ≠ 1 ∨ w.released = true) → exec .barwaitBoundExpiry s = .next s))

/-- R236 to R242 (Tables 9-8 and 9-9): the ring operations on a block of the strand's own die. A broken block is BAD, an
issuer outside the scope or the wrong tent of a mailbox REJECT (a fault in strict mode of the system context), each
with nothing changed. R234 (Table 9-8): the fields of a ring control block as its 64 bytes hold them, and which blocks
are broken. R239, R240, R242: on a sound block whose issuer may use it. RRESV refuses a record larger than the ring or
of a TYPE above 0xFFEF with BAD, and WENQ too, which without room is FULL; MSEND needs a mailbox; RPEEK gives the
oldest record's payload address or EMPTY and changes nothing; RPOP moves HEAD past the oldest record, or is EMPTY;
RPUB of the oldest reservation moves TAIL past its record. R239, R241, R244: on a sound block in the strand's own
granary, with a buffer in committed DRAM of its die, and where no skip is needed: RRESV claims size bytes in RESV,
writes the header (LEN, TYPE, TAG of the descriptor, the producer's tent) and returns the payload address; WENQ, and
MSEND on a mailbox, write header and payload and publish, so that TAIL and RESV are past the record; no other byte of
memory changes. -/
def Obligations.Rings : Prop :=
  (∀ (s : State) (d a b : Reg) (p : Piece), Quiet s → s.check .atomic 64 true (s.rd a) 64 = .ok [p] → p.hit.remote = false →
      let r := s.rcbAt p.hit.loc
      let out (i : Instr) (v : Word) : Prop := ∃ e, SameButTlb s.dev e ∧ Yields s i (s.setDev e) d v 4
      let all (q : Instr → Prop) : Prop := q (.rresv d a b) ∧ q (.rpub d a b) ∧ q (.wenq d a b) ∧ q (.msend d a b) ∧
        q (.rpop d a) ∧ q (.rpeek d a)
      (r.bad = true → all fun i => out i 5) ∧
      (r.bad = false → s.insideRing r = false → ¬(s.cur.srt = true ∧ s.cur.id.sys = true) → all fun i => out i 4) ∧
      (r.bad = false → s.insideRing r = false → s.cur.srt = true → s.cur.id.sys = true → all fun i =>
        ∃ e t f, exec i s = .next t ∧ SameButTlb s.dev e ∧ Faulted (s.setDev e) t 0x08 0 0 f) ∧
      (r.bad = false → s.insideRing r = true → r.mbx = true → s.cur.id.tid ≠ r.ptid →
        ¬(s.cur.srt = true ∧ s.cur.id.sys = true) →
        out (.rresv d a b) 4 ∧ out (.rpub d a b) 4 ∧ out (.wenq d a b) 4 ∧ out (.msend d a b) 4) ∧
      (r.bad = false → s.insideRing r = true → r.mbx = true → s.cur.id.tid ≠ r.ctid →
        ¬(s.cur.srt = true ∧ s.cur.id.sys = true) → out (.rpop d a) 4 ∧ out (.rpeek d a) 4)) ∧
  (∀ (r : Rcb), r.head < 2 ^ 64 → r.tail < 2 ^ 64 → r.resv < 2 ^ 64 → r.sks < 2 ^ 64 → r.cap < 2 ^ 32 →
      r.bytes.length = 64 ∧ Rcb.ofBytes r.bytes = r ∧
      (r.bad = false ↔ r.head ≤ r.tail ∧ r.tail ≤ r.resv ∧ r.resv ≤ r.head + r.cap ∧ (∃ k, 6 ≤ k ∧ k ≤ 31 ∧ r.cap = 2 ^ k) ∧
        r.scope.toNat ≤ 4 ∧ r.ctl.extractLsb' 5 3 = 0 ∧ r.ctl.extractLsb' 24 8 = 0 ∧ r.buf.toNat % 64 = 0 ∧
        (r.buf.toNat / 2 ^ 56 = 0 ∨ r.buf.toNat / 2 ^ 56 = 3) ∧ r.own.extractLsb' 11 5 = 0 ∧ r.own.extractLsb' 35 29 = 0)) ∧
  (∀ (s : State) (d a b : Reg) (p : Piece), Quiet s → s.check .atomic 64 true (s.rd a) 64 = .ok [p] → p.hit.remote = false →
      let loc := p.hit.loc
      let r := s.rcbAt loc
      r.bad = false → s.insideRing r = true → (r.mbx = false ∨ (s.cur.id.tid = r.ptid ∧ s.cur.id.tid = r.ctid)) →
      (∀ t ∈ s.dev.tents, t.rings = []) → s.dev.eosWait = [] →
      let s1 := s.fillAll (s.rd a) [p]
      let size (w : Word) : Nat := 8 + 8 * ((w.toNat % 2 ^ 32 + 7) / 8)
      let big (w : Word) : Prop := r.cap < size w ∨ 0xFFEF < w.toNat / 2 ^ 32 % 65536
      let skip (n : Nat) : Nat := if r.cap < r.resv % r.cap + n then r.cap - r.resv % r.cap else 0
      let out (i : Instr) (v : Word) : Prop := ∃ e, SameButTlb s.dev e ∧ Yields s i (s.setDev e) d v 4
      let becomes (i : Instr) (y : Rcb) (v : Word) : Prop :=
        ∃ e, SameButTlb s.dev e ∧ Yields s i ((s.setDev e).setBytes loc y.bytes) d v 4
      let at_ (k : Nat) : Word := r.buf + BitVec.ofNat 64 (k % r.cap)
      let header (k : Nat) (h : Word) : Prop := ∃ ps, s1.check .load 1 false (at_ k) 8 = .ok ps ∧
        (∀ q ∈ ps, q.hit.remote = false) ∧ s1.poisonIn ps = [] ∧ BitVec.ofNat 64 (leNat (s1.loadBytes ps)) = h
      (big (s.rd b) → out (.rresv d a b) 5) ∧ (big (s.rd d) → out (.wenq d a b) 5) ∧
      (¬big (s.rd d) → r.cap < r.resv - r.head + skip (size (s.rd d)) + size (s.rd d) → out (.wenq d a b) 2) ∧
      (r.mbx = false → out (.msend d a b) 5) ∧
      (r.tail = r.head → out (.rpeek d a) 1 ∧ becomes (.rpop d a) r 1) ∧
      (∀ h, r.head < r.tail → header r.head h → h.toNat / 2 ^ 32 % 65536 ≠ 0xFFFF →
        out (.rpeek d a) (at_ r.head + 8) ∧ becomes (.rpop d a) { r with head := r.head + size h } 0) ∧
      (∀ h, s.rd b = at_ r.tail + 8 → r.tail % 8 = 0 → r.tail < r.resv → r.sks = 0 → header r.tail h →
        becomes (.rpub d a b) { r with tail := r.tail + size h } 0)) ∧
  (∀ (s : State) (d a b : Reg) (p q : Piece) (obj off key : Nat), Quiet s → s.dev.mem.wf = true →
      s.check .atomic 64 true (s.rd a) 64 = .ok [p] → p.hit.remote = false → p.hit.loc = .own obj off → obj = 1 →
      s.cur.gr.wf = true →
      let r := s.rcbAt p.hit.loc
      r.bad = false → s.insideRing r = true → (r.mbx = false ∨ s.cur.id.tid = r.ptid) → (∀ t ∈ s.dev.tents, t.rings = []) →
      let s1 := s.fillAll (s.rd a) [p]
      let size (w : Word) : Nat := 8 + 8 * ((w.toNat % 2 ^ 32 + 7) / 8)
      let fits (w : Word) : Prop := size w ≤ r.cap ∧ w.toNat / 2 ^ 32 % 65536 ≤ 0xFFEF ∧
        r.resv % r.cap + size w ≤ r.cap ∧ r.resv - r.head + size w ≤ r.cap
      let at_ : Word := r.buf + BitVec.ofNat 64 (r.resv % r.cap)
      let hdr (w : Word) : Word := s.cur.id.tid ++ w.extractLsb' 0 56
      let room (n : Nat) : Prop := s1.check .store 1 false at_ n = .ok [q] ∧ q.Dram key ∧ s1.logStall [q] = false
      let wrote (u t : State) (bs : List Byte) : Prop :=
        (∀ k, k < bs.length → t.dev.mem.get (key + k) = bs.getD k 0) ∧
        (∀ k, (k < key ∨ key + bs.length ≤ k) → t.dev.mem.get k = u.dev.mem.get k) ∧
        t.cur = u.cur.setStream .a t.me ∧ t.others = u.others
      (fits (s.rd b) → room 8 →
        ∃ t e, exec (.rresv d a b) s = .next t ∧ SameButTlb s.dev e ∧ s.me.Wrote t.me d (at_ + 8) 4 ∧
          wrote ((s.setDev e).setBytes p.hit.loc { r with resv := r.resv + size (s.rd b) }.bytes) t
            (natLe 8 (hdr (s.rd b)).toNat)) ∧
      (∀ i ps, (i = .wenq d a b ∨ (i = .msend d a b ∧ r.mbx = true ∧ r.uin = false)) →
        let len := (s.rd d).toNat % 2 ^ 32
        fits (s.rd d) → r.resv = r.tail → 0 < len → s1.check .load 1 false (s.rd b) len = .ok ps →
        (∀ x ∈ ps, x.hit.remote = false) → s1.poisonIn ps = [] → room (8 + len) →
        ∃ t e, exec i s = .next t ∧ SameButTlb s.dev e ∧ s.me.Wrote t.me d 0 4 ∧
          wrote ((s.setDev e).setBytes p.hit.loc
              { r with resv := r.resv + size (s.rd d), tail := r.resv + size (s.rd d) }.bytes) t
            (natLe 8 (hdr (s.rd d)).toNat ++ s1.loadBytes ps)))

/-- R247 to R249, R413, R416: SEAL requests a seal and returns the current RIN at once; RINR returns it; SEALW on a page
that is not irrevocable is a permission fault, and else, its address checked, it records its store behind those of
other strands that wait for the seal, requests a seal and stalls with kind 5, and goes on so while its own store
waits. That SEALWs of several strands wait for one seal is the model's choice (assumption log 76, deduced from R413).
R248, R416, R418: the COMMIT of a seal that a SEALW has forced completes the SEALW in its strand's saved image: s[d]
holds the new RIN, the strand goes on past the instruction and ld falls; the RELEASE after it performs the store.
Where the completion is seen, in the saved image, and the join of several SEALWs in one seal are the model's readings
(assumption logs 35 and 76). -/
def Obligations.SealInstructions : Prop :=
  (∀ (s : State) (z : BitVec 2) (a b d : Reg), Quiet s →
      let n := 2 ^ z.toNat
      let rin : Word := s.dev.rin.setWidth 64
      (∃ t, exec (.seal d) s = .next t ∧ t = (s.setDev s.dev.requestSeal).setMe t.me ∧ s.me.Wrote t.me d rin 4) ∧
      (∃ t, exec (.rinr d) s = .next t ∧ t = s.setMe t.me ∧ s.me.Wrote t.me d rin 4) ∧
      (∀ p, (∀ q ∈ s.dev.sealw, q.isOf s.cur = false) → s.check .store n false (s.rd a) n = .ok [p] → s.commitAll (s.rd a) 1 [p] = .done s →
        (p.hit.irr = false → Faults s (.sealw z b a d) 0x05 1 (s.rd a + BitVec.ofNat 64 p.start)) ∧
        (p.hit.irr = true → ∃ t q, exec (.sealw z b a d) s = .next t ∧
          t = ((s.setDev { s.dev.requestSeal with sealw := s.dev.sealw ++ [q] }).count false (· + 1)).setMe t.me ∧
          t.me = { s.me with stall := 5, stallCycles := t.me.stallCycles } ∧ q.ea = s.rd a ∧
          q.bytes = natLe n (s.rd b).toNat ∧ q.d = d ∧ q.committed = false ∧ q.isOf s.cur = true)) ∧
      (∀ q ∈ s.dev.sealw, q.isOf s.cur = true → Stalls s (.sealw z b a d) 5) ∧
      (s.dev.requestSeal.sealReq = true ∨ s.dev.requestSeal.nextSeal = true) ∧
      s.dev.requestSeal = { s.dev with sealReq := s.dev.requestSeal.sealReq, nextSeal := s.dev.requestSeal.nextSeal }) ∧
  (∀ (s : State) (c : Checkpoint) (q : SealwReq) (k : Strand) (p : Piece) (key : Nat), s.dev.man.isOpen = true →
      s.dev.failed = false → (∀ d < 8, (s.dev.die d).rph = 0) → s.dev.sealw = [q] →
      let out := (List.range q.bytes.length).map fun i => (key + i, q.bytes.getD i 0)
      (s.dev.pending = some c → (∀ d < 8, (s.dev.die d).sph = 4 ∧ (s.dev.die d).voted = true) → s.dev.images = [k] →
        q.isOf k = true → (s.enter k.agent).check .store 1 false q.ea q.bytes.length = .ok [p] → p.hit.key = key →
        p.start = 0 → p.len = q.bytes.length →
        ∃ u k', exec .commit s = .next u ∧ u.dev.images = [k'] ∧ k' = { k with acc := k'.acc, ld := k.ld - 1 } ∧
          k.acc.Wrote k'.acc q.d ((s.dev.rin + 1).setWidth 64) 4 ∧ u.dev.rin = s.dev.rin + 1 ∧
          u.dev.sealw = [{ q with committed := true, out := out }] ∧ u.dev.mem = s.dev.mem) ∧
      ((∀ d < 8, (s.dev.die d).sph = 5) → (∀ d < 8, (s.dev.die d).egress = []) → q.committed = true → q.out = out →
        q.bytes ≠ [] → key % 64 + q.bytes.length ≤ 64 → s.dev.mem.wf = true →
        ∃ u, exec .release s = .next u ∧ u.dev.sealw = [] ∧ u.dev.mem.Holds key q.bytes s.dev.mem ∧
          ∀ d < 8, (u.dev.die d).sph = 0))

/-! ### Vector instructions -/
/-- R254, R255, R123 (Table 10-1), R54: the integer functions on every lane the guard enables, with operand b from a
register or, in the immediate form, sext(IMM, 16); no flag is raised and nothing but vd changes. -/
def Obligations.VectorInteger : Prop :=  ∀ (s : State) (g : Guard) (d a b : VName) (im : BitVec 16), s.who = .x → s.cur.leaseHit g [d, a, b] [] = false →
    let both (i j : Instr) (n : Nat) (f : Lane → Lane → Lane) : Prop :=
      LanesBecome s i g d n (fun k => f (s.lane a k) (s.lane b k)) ∧
      LanesBecome s j g d 8 (fun k => f (s.lane a k) (im.signExtend 32))
    let one (i : Instr) (f : Lane → Lane) : Prop := LanesBecome s i g d 8 (fun k => f (s.lane a k))
    let clamp (v : Int) : Lane := wrap (max (-2 ^ 31) (min (2 ^ 31 - 1) v)) 32
    both (.vadd g d a b) (.vaddImm g d a im) 4 (fun x y => wrap (x.toInt + y.toInt) 32) ∧
    both (.vsub g d a b) (.vsubImm g d a im) 4 (fun x y => wrap (x.toInt - y.toInt) 32) ∧
    both (.vmul g d a b) (.vmulImm g d a im) 4 (fun x y => wrap (x.toInt * y.toInt) 32) ∧
    both (.vmin g d a b) (.vminImm g d a im) 4 (fun x y => wrap (min x.toInt y.toInt) 32) ∧
    both (.vmax g d a b) (.vmaxImm g d a im) 4 (fun x y => wrap (max x.toInt y.toInt) 32) ∧
    both (.vand g d a b) (.vandImm g d a im) 4 (fun x y => x &&& y) ∧
    both (.vor g d a b) (.vorImm g d a im) 4 (fun x y => x ||| y) ∧
    both (.vxor g d a b) (.vxorImm g d a im) 4 (fun x y => x ^^^ y) ∧
    both (.vmulh g d a b) (.vmulhImm g d a im) 8 (fun x y => wrap (x.toInt * y.toInt / 2 ^ 32) 32) ∧
    both (.vmulhU g d a b) (.vmulhUImm g d a im) 8 (fun x y => wrap ((x.toNat : Int) * y.toNat / 2 ^ 32) 32) ∧
    both (.vminU g d a b) (.vminUImm g d a im) 8 (fun x y => wrap (min (x.toNat : Int) y.toNat) 32) ∧
    both (.vmaxU g d a b) (.vmaxUImm g d a im) 8 (fun x y => wrap (max (x.toNat : Int) y.toNat) 32) ∧
    both (.vaddSat g d a b) (.vaddSatImm g d a im) 8 (fun x y => clamp (x.toInt + y.toInt)) ∧
    both (.vsubSat g d a b) (.vsubSatImm g d a im) 8 (fun x y => clamp (x.toInt - y.toInt)) ∧
    both (.vdiv g d a b) (.vdivImm g d a im) 8 (fun x y => if y.toNat = 0 then -1 else wrap (x.toInt.tdiv y.toInt) 32) ∧
    both (.vdivU g d a b) (.vdivUImm g d a im) 8 (fun x y => if y.toNat = 0 then -1 else wrap ((x.toNat : Int) / y.toNat) 32) ∧
    both (.vrem g d a b) (.vremImm g d a im) 8 (fun x y => if y.toNat = 0 then x else wrap (x.toInt - y.toInt * x.toInt.tdiv y.toInt) 32) ∧
    both (.vremU g d a b) (.vremUImm g d a im) 8 (fun x y => if y.toNat = 0 then x else wrap ((x.toNat : Int) - y.toNat * ((x.toNat : Int) / y.toNat)) 32) ∧
    both (.vshl g d a b) (.vshlImm g d a im) 8 (fun x y => wrap ((x.toNat : Int) * 2 ^ (y.toNat % 32)) 32) ∧
    both (.vshr g d a b) (.vshrImm g d a im) 8 (fun x y => wrap ((x.toNat : Int) / 2 ^ (y.toNat % 32)) 32) ∧
    both (.vsra g d a b) (.vsraImm g d a im) 8 (fun x y => wrap (x.toInt / 2 ^ (y.toNat % 32)) 32) ∧
    LanesBecome s (.vmadd g d a b) g d 8 (fun k => wrap ((s.lane d k).toInt + (s.lane a k).toInt * (s.lane b k).toInt) 32) ∧
    LanesBecome s (.vmaddImm g d a im) g d 8 (fun k => wrap ((s.lane d k).toInt + (s.lane a k).toInt * im.toInt) 32) ∧
    one (.vabs g d a) (fun x => wrap x.toInt.natAbs 32) ∧ one (.vnot g d a) (fun x => wrap (-x.toInt - 1) 32) ∧
    one (.vpopc g d a) (fun x => wrap (((List.range 32).filter fun i => x.getLsbD i).length : Nat) 32) ∧
    (∃ z : Lane → Nat, (∀ x, z x ≤ 32 ∧ x.toNat < 2 ^ (32 - z x) ∧ (z x < 32 → 2 ^ (31 - z x) ≤ x.toNat)) ∧
      one (.vclz g d a) (fun x => wrap (z x) 32))

/-- R256, R257, R121, R124 (Table 10-2): the FP32 functions on every enabled lane: operand b from a register or, in the
immediate form, IMM × 2^16 as a pattern; the mode RNE in the short form and RM in the long one; the flags of the
enabled lanes are raised. Sums, products, fused products and quotients are exact before their one rounding
(`Obligations.Numbers`); of the square root, the reciprocal square root, the exponential and the logarithm that
statement gives the special cases alone, and how far the last two are expanded before they are cut is the model's
choice (assumption log 16). R258, R260, R261, R117 to R120: VHALF works on both 16-bit elements of each enabled lane;
VCVT converts the low element of each enabled lane, signed integers sign-extended in the destination lane; VCVT.PK
packs 64 converted elements into part J and keeps the other bits; VCVT.UPK unpacks part J. That SAT leaves an exact
infinity of VHALF infinite is the model's choice (assumption log 18). -/
def Obligations.VectorFloat : Prop :=
  (∀ (s : State) (g : Guard) (d a b : VName) (rm : BitVec 2) (im : BitVec 16), s.who = .x → s.cur.leaseHit g [d, a, b] [] = false →
      let D (k : Nat) : Nat := (s.lane d k).toNat
      let A (k : Nat) : Nat := (s.lane a k).toNat
      let B (k : Nat) : Nat := (s.lane b k).toNat
      let I : Nat := im.toNat * 2 ^ 16
      let all (short long imm : Instr) (f : FpOp) : Prop :=
        LanesRound s short g d 4 (fun k => f fp32 0 false (D k) (A k) (B k)) ∧
        LanesRound s long g d 8 (fun k => f fp32 rm false (D k) (A k) (B k)) ∧
        LanesRound s imm g d 8 (fun k => f fp32 rm false (D k) (A k) I)
      let one (i : Instr) (f : Nat → Nat × Flags) : Prop := LanesRound s i g d 8 (fun k => f (A k))
      let dec := fp32.decode
      let fin (r : ExactNum × Flags) (m : RMode) : Nat × Flags := finishNum fp32 m false r
      all (.vfadd g d a b) (.vfaddRm rm g d a b) (.vfaddImm rm g d a im) (fun _ m _ _ x y => fin (ExactNum.add m (dec x) (dec y)) m) ∧
      all (.vfsub g d a b) (.vfsubRm rm g d a b) (.vfsubImm rm g d a im) (fun _ m _ _ x y => fin (ExactNum.add m (dec x) (dec y).negate) m) ∧
      all (.vfmul g d a b) (.vfmulRm rm g d a b) (.vfmulImm rm g d a im) (fun _ m _ _ x y => fin ((dec x).mul (dec y)) m) ∧
      all (.vfdiv g d a b) (.vfdivRm rm g d a b) (.vfdivImm rm g d a im) (fun _ m _ _ x y => fin ((dec x).div (dec y)) m) ∧
      all (.vfma g d a b) (.vfmaRm rm g d a b) (.vfmaImm rm g d a im) (fun _ m _ z x y => fin (ExactNum.fma m (dec x) (dec y) (dec z)) m) ∧
      all (.vfms g d a b) (.vfmsRm rm g d a b) (.vfmsImm rm g d a im) (fun _ m _ z x y => fin (ExactNum.fma m (dec x) (dec y) (dec z).negate) m) ∧
      all (.vfmin g d a b) (.vfminRm rm g d a b) (.vfminImm rm g d a im) (fun _ _ _ _ x y => (fp32.min x y, 0)) ∧
      all (.vfmax g d a b) (.vfmaxRm rm g d a b) (.vfmaxImm rm g d a im) (fun _ _ _ _ x y => (fp32.max x y, 0)) ∧
      LanesRound s (.vfnma rm g d a b) g d 8 (fun k => fin (ExactNum.fma rm (dec (A k)).negate (dec (B k)) (dec (D k))) rm) ∧
      LanesRound s (.vfnmaImm rm g d a im) g d 8 (fun k => fin (ExactNum.fma rm (dec (A k)).negate (dec I) (dec (D k))) rm) ∧
      one (.vfsqrt rm g d a) (fun x => roundFp32 rm (dec x).sqrt) ∧ one (.vfrcp g d a) (fun x => roundFp32 0 (dec x).rcp) ∧
      one (.vfrsq g d a) (fun x => roundFp32 0 (dec x).rsqrt) ∧ one (.vfexp2 g d a) (fun x => roundFp32 0 (dec x).exp2) ∧
      one (.vflog2 g d a) (fun x => roundFp32 0 (dec x).log2) ∧
      one (.vfabs g d a) (fun x => (if fp32.isNan x then 0x7FC00000 else x % 2 ^ 31, 0)) ∧
      one (.vfneg g d a) (fun x => (if fp32.isNan x then 0x7FC00000 else (x + 2 ^ 31) % 2 ^ 32, 0))) ∧
  (∀ (s : State) (f f2 : BitVec 4) (rm : BitVec 2) (sat : BitVec 1) (j : BitVec 5) (g : Guard) (d a b : VName), s.who = .x →
      s.cur.leaseHit g [d, a, b] [] = false →
      let t := ieeeOf f
      let sa := sat == 1
      let half (i : Instr) (op : FpOp) : Prop :=
        LanesRound s i g d 8 (fun k =>
          let D := (s.lane d k).toNat
          let A := (s.lane a k).toNat
          let B := (s.lane b k).toNat
          let lo := op t rm sa (D % 65536) (A % 65536) (B % 65536)
          let hi := op t rm sa (D / 65536) (A / 65536) (B / 65536)
          (lo.1 + 65536 * hi.1, lo.2 ||| hi.2))
      let w := formatWidth f
      let w2 := formatWidth f2
      let placed (c : Nat) : Lane := if f.toNat = 1 ∨ f.toNat = 2 ∨ f.toNat = 3 ∨ f.toNat = 5 then wrap (decodeInt f c) 32 else wrap c 32
      half (.vhadd f rm sat g d a b) fpAdd ∧ half (.vhsub f rm sat g d a b) fpSub ∧ half (.vhmul f rm sat g d a b) fpMul ∧
      half (.vhmin f rm sat g d a b) fpMin ∧ half (.vhmax f rm sat g d a b) fpMax ∧ half (.vhfma f rm sat g d a b) fpFma ∧
      LanesRound s (.vcvt f f2 rm sat g d a) g d 8 (fun k =>
        let r := convert f f2 rm sa ((s.lane a k).toNat % 2 ^ w2)
        ((placed r.1).toNat, r.2)) ∧
      (s.cur.leaseHit 0 [d, a] [] = false → LanesRound s (.vcvtUpk f f2 rm sat j d a) 0 d 8 (fun k =>
        let r := convert f f2 rm sa ((s.cur.vreg a).extractLsb' ((64 * j.toNat + k) * w2) w2).toNat
        ((placed r.1).toNat, r.2))) ∧
      (s.cur.leaseHit 0 [d, a] [] = false → (64 * j.toNat + 64) * w ≤ 2048 →
        let r (k : Nat) := convert f f2 rm sa ((s.lane a k).toNat % 2 ^ w2)
        ∃ v fl, Does s (.vcvtPk f f2 rm sat j d a) (s.setCur { s.cur.setV d v with fflags := s.cur.fflags ||| fl }) 8 ∧
          (∀ k < 64, v.extractLsb' ((64 * j.toNat + k) * w) w = BitVec.ofNat w (r k).1) ∧
          (∀ i < 2048, (i < 64 * j.toNat * w ∨ (64 * j.toNat + 64) * w ≤ i) → v.getLsbD i = (s.cur.vreg d).getLsbD i) ∧
          ∀ b < 5, fl.getLsbD b = true ↔ ∃ k < 64, (r k).2.getLsbD b = true))

/-- R262: the compares write the bits of pd that the guard enables. INT32 signed or unsigned; a float format with −0 equal
to +0 and NaN unordered: EQ, LT, LE false, NE true, UN true, ORD false, LT and LE then raising NV. R267, R268, R52,
R54: the predicate operations write pd whole, PCNT counts the common bits into a scalar, GMAP binds a name to a guard
alias; p0 and g0 keep their values. -/
def Obligations.ComparesAndPredicates : Prop :=
  (∀ (s : State) (f : BitVec 4) (hi : BitVec 1) (g : Guard) (p : PName) (a b : VName), s.who = .x →
      s.cur.leaseHit g [a, b] [p] = false →
      let cmp (i : Instr) (n : Nat) (c : Lane → Lane → Bool) : Prop := BitsBecome s i g p n (fun k => (c (s.lane a k) (s.lane b k), 0))
      let el (x : Lane) : Nat := if f.toNat = 12 ∨ f.toNat = 13 then (if hi = 1 then x.toNat / 65536 else x.toNat % 65536) else x.toNat
      let t := ieeeOf f
      let unordered (x y : Lane) : Bool := t.isNan (el x) || t.isNan (el y)
      let fmt (i : Instr) (ci : Lane → Lane → Bool) (cf : Int → Int → Bool) (nan : Bool) (fl : Flags) : Prop :=
        BitsBecome s i g p 8 (fun k =>
          let x := s.lane a k
          let y := s.lane b k
          if f.toNat = 6 then (ci x y, 0) else if unordered x y then (nan, fl) else (cf (t.key (el x)) (t.key (el y)), 0))
      cmp (.vcmpEq g p a b) 4 (fun x y => x == y) ∧ cmp (.vcmpNe g p a b) 4 (fun x y => x != y) ∧
      cmp (.vcmpLt g p a b) 4 (fun x y => x.toInt < y.toInt) ∧ cmp (.vcmpLe g p a b) 4 (fun x y => x.toInt ≤ y.toInt) ∧
      cmp (.vcmpLtU g p a b) 8 (fun x y => x.toNat < y.toNat) ∧ cmp (.vcmpLeU g p a b) 8 (fun x y => x.toNat ≤ y.toNat) ∧
      fmt (.vcmpEqFmt f hi g p a b) (fun x y => x == y) (fun x y => x == y) false 0 ∧
      fmt (.vcmpNeFmt f hi g p a b) (fun x y => x != y) (fun x y => x != y) true 0 ∧
      fmt (.vcmpLtFmt f hi g p a b) (fun x y => x.toInt < y.toInt) (fun x y => x < y) false 16 ∧
      fmt (.vcmpLeFmt f hi g p a b) (fun x y => x.toInt ≤ y.toInt) (fun x y => x ≤ y) false 16 ∧
      fmt (.vcmpUn f hi g p a b) (fun _ _ => false) (fun _ _ => false) true 0 ∧
      fmt (.vcmpOrd f hi g p a b) (fun _ _ => false) (fun _ _ => true) false 0 ∧
      (∀ u v, t.decode u ≠ .nan → t.decode v ≠ .nan → u < 2 ^ t.width → v < 2 ^ t.width → t ∈ [fp32, fp16, bf16] →
        ∀ x y, (t.decode u).val = some x → (t.decode v).val = some y → (t.key u < t.key v ↔ x < y))) ∧
  (∀ (s : State) (d a b : PName) (r : Reg) (n : BitVec 1) (g : Guard), s.who = .x → s.cur.leaseHit 0 [] [d, a, b] = false →
      let A := s.cur.preg a
      let B := s.cur.preg b
      let sets (i : Instr) (v : BitVec 64) : Prop := Does s i (s.setCur (s.cur.setP d v)) 4
      sets (.pand d a b) (A &&& B) ∧ sets (.por d a b) (A ||| B) ∧ sets (.pxor d a b) (A ^^^ B) ∧ sets (.pnot d a) (~~~A) ∧
      (∃ v, sets (.pfirst d a) v ∧ ∀ i < 64, v.getLsbD i = true ↔ (A.getLsbD i = true ∧ ∀ j < i, A.getLsbD j = false)) ∧
      Gives s (.pcnt r a b) r (wrap (((List.range 64).filter fun i => A.getLsbD i && B.getLsbD i).length : Nat) 64) 4 ∧
      (g = 0 → Passes s (.gmap a n g) 4) ∧
      (g ≠ 0 → ∃ y, Does s (.gmap a n g) (s.setCur { s.cur with gmap := y }) 4 ∧
        ({ s.cur with gmap := y } : Strand).mask g = (if n = 1 then ~~~A else A) ∧
        ∀ h : Guard, h ≠ g → ({ s.cur with gmap := y } : Strand).mask h = s.cur.mask h) ∧
      (s.cur.setP 0 A = s.cur ∧ s.cur.preg 0 = -1 ∧ s.cur.mask 0 = -1) ∧
      (∀ (k : Strand) (p q : PName) (v : BitVec 64), p ≠ 0 → p.toNat < 96 → (k.setP p v).preg p = v ∧
        (q ≠ p → q.toNat < 96 → (k.setP p v).preg q = k.preg q)))

/-- R263, R264 (Table 10-3): the moves and permutes, lane by lane, and the reductions of vb[0] and then the 64 lanes of va
in ascending order, one rounding a step, broadcast to the enabled lanes; with no enabled lane nothing is written or
raised. R269 to R271, R56 (Table 3-5), R265, R266: VPOP takes the oldest entry's enabled lanes, VPUSH appends an entry
with zero in the disabled lanes; TROW reads a row of a FULL tile, TWROW claims an EMPTY tile for X and writes the
enabled lanes of a row, TFILL, TEMPTY and TWAIT move and await a tile's state, each stalling where Table 3-7 says; BRC
counts down and branches while the count is not 0, BRC.Q on the popped bit, both turning the rotation bases by one,
taken or not, and waiting while the target's page moves (R364). -/
def Obligations.VectorMoves : Prop :=
  (∀ (s : State) (n : PName) (m : BitVec 6) (im : BitVec 16) (rm : BitVec 2) (g : Guard) (d a b : VName) (r : Reg), s.who = .x →
      s.cur.leaseHit g [d, a, b] [n] = false →
      let A (k : Nat) : Lane := s.lane a k
      let B (k : Nat) : Lane := s.lane b k
      let fold (f : Lane → Lane → Lane) : Lane := (List.range 64).foldl (fun x k => f x (A k)) (B 0)
      let ffold (f : Nat → Nat → Nat × Flags) : Nat × Flags :=
        (List.range 64).foldl (fun x k => ((f x.1 (A k).toNat).1, x.2 ||| (f x.1 (A k).toNat).2)) ((B 0).toNat, 0)
      LanesBecome s (.vmov g d a) g d 4 A ∧
      LanesBecome s (.vsel n g d a b) g d 8 (fun k => if (s.cur.preg n).getLsbD k then A k else B k) ∧
      LanesBecome s (.vperm g d a b) g d 8 (fun k => A ((B k).toNat % 64)) ∧
      LanesBecome s (.vbcast m g d a) g d 8 (fun _ => A m.toNat) ∧
      LanesBecome s (.vshup m g d a b) g d 8 (fun k => if m.toNat ≤ k then A (k - m.toNat) else B (64 + k - m.toNat)) ∧
      LanesBecome s (.vshdn m g d a b) g d 8 (fun k => if k + m.toNat < 64 then A (k + m.toNat) else B (k + m.toNat - 64)) ∧
      LanesBecome s (.vidx im g d) g d 8 (fun k => wrap (im.toInt + k) 32) ∧
      LanesBecome s (.vbcasts g d r) g d 8 (fun _ => (s.rd r).extractLsb' 0 32) ∧
      LanesBecome s (.vredadd g d a b) g d 8 (fun _ => fold (fun x y => wrap (x.toInt + y.toInt) 32)) ∧
      LanesBecome s (.vredmin g d a b) g d 8 (fun _ => fold (fun x y => wrap (min x.toInt y.toInt) 32)) ∧
      LanesBecome s (.vredmax g d a b) g d 8 (fun _ => fold (fun x y => wrap (max x.toInt y.toInt) 32)) ∧
      LanesRound s (.vfredadd rm g d a b) g d 8 (fun _ => ffold (fun x y => fpAdd fp32 rm false 0 x y)) ∧
      LanesRound s (.vfredmin g d a b) g d 8 (fun _ => ffold (fun x y => (fp32.min x y, 0))) ∧
      LanesRound s (.vfredmax g d a b) g d 8 (fun _ => ffold (fun x y => (fp32.max x y, 0)))) ∧
  (∀ (s : State) (g : Guard) (v : VName) (q : BitVec 6) (a : Reg) (t : BitVec 4) (o : Off11), s.who = .x →
      s.cur.leaseHit g [v] [] = false →
      let k := q.toNat
      let x := s.queue k
      let depth := queueDepth k
      let tile := s.tile t.toNat
      let row := (s.rd a).toNat % 64
      let m := s.cur.mask g
      let turned (c : Strand) : Strand := { c with vrb := c.vrb - 1, prb := c.prb - 1 }
      let T : Word := wrap ((s.me.hdr.toNat : Int) + o.int * 4) 64
      (∀ e rest, k < 13 → x.Ok depth → x.entries depth = e :: rest →
        ∃ y w, Does s (.vpop g v q) ((s.setQueue k y).setCur ((s.setQueue k y).cur.setV v w)) 4 ∧ y.entries depth = rest ∧ y.Ok depth ∧
          ∀ j < 64, laneOf w j = if m.getLsbD j then laneOf e j else s.lane v j) ∧
      (x.occ = 0 → Stalls s (.vpop g v q) 2) ∧
      (k < 13 → x.Ok depth → x.occ < depth →
        ∃ y e, Does s (.vpush g v q) (s.setQueue k y) 4 ∧ y.entries depth = x.entries depth ++ [e] ∧ y.Ok depth ∧
          ∀ j < 64, laneOf e j = if m.getLsbD j then s.lane v j else 0) ∧
      (depth ≤ x.occ → Stalls s (.vpush g v q) 1) ∧
      (tile.st = .full → LanesBecome s (.trow g v a t) g v 4 (fun j => laneOf (tile.row row) j)) ∧
      (tile.st ≠ .full → Stalls s (.trow g v a t) 3 ∧ Stalls s (.twait t) 3) ∧
      (tile.st = .full → Passes s (.twait t) 4 ∧ Passes s (.tfill t) 4 ∧ Stalls s (.twrow g v a t) 4 ∧
        Does s (.tempty t) (s.setTile t.toNat { tile with st := .empty }) 4) ∧
      ((tile.st = .empty ∨ tile.st = .claimed 0) → tile.data.wf = true →
        Does s (.tfill t) (s.setTile t.toNat { tile with st := .full }) 4 ∧
        ∃ y : Tile, Does s (.twrow g v a t) (s.setTile t.toNat y) 4 ∧ y.st = .claimed 0 ∧ y.data.wf = true ∧
          (∀ j < 64, laneOf (y.row row) j = if m.getLsbD j then s.lane v j else laneOf (tile.row row) j) ∧
          ∀ r < 64, r ≠ row → y.row r = tile.row r) ∧
      (tile.st = .empty → Passes s (.tempty t) 4) ∧
      (∀ c, tile.st = .claimed c → Stalls s (.tempty t) 3 ∧ (c ≠ 0 → Stalls s (.tfill t) 4 ∧ Stalls s (.twrow g v a t) 4)) ∧
      (s.rd a = 1 → Yields s (.brc a o) (s.setCur (turned s.cur)) a 0 (off11Len o)) ∧
      (s.rd a ≠ 1 → s.transferWaits T = true → Idles s (.brc a o)) ∧
      (s.rd a ≠ 1 → s.transferWaits T = false → s.transferFault s.who T false = none →
        ∃ u w, exec (.brc a o) s = .next u ∧ s.codeWord T = some w ∧ u = (s.setCur (turned s.cur)).setMe u.me ∧
          Stream.Entered { s.me with regs := u.me.regs } u.me T w ∧ u.me.stack = s.me.stack ∧
          (a ≠ 0 → u.rd a = s.rd a - 1) ∧ ∀ r, r ≠ a → u.rd r = s.rd r) ∧
      (∀ e c f, s.rd a ≠ 1 → s.transferWaits T = false → s.transferFault s.who T false = some (e, f, c) → s.cur.spec = none →
        FaultsAt s (.brc a o) e c f) ∧
      (let x := s.queue 12
       (x.occ = 0 → Stalls s (.brcQ o) 2) ∧
       (∀ e rest, x.Ok 64 → x.entries 64 = e :: rest →
         (e.getLsbD 0 = false → ∃ y, Does s (.brcQ o) ((s.setQueue 12 y).setCur (turned (s.setQueue 12 y).cur)) (off11Len o) ∧
            y.entries 64 = rest ∧ y.Ok 64) ∧
         (e.getLsbD 0 = true → s.transferWaits T = true → Idles s (.brcQ o)) ∧
         (e.getLsbD 0 = true → s.transferWaits T = false → s.transferFault s.who T false = none →
            ∃ u w y, exec (.brcQ o) s = .next u ∧ s.codeWord T = some w ∧
              u = ((s.setQueue 12 y).setCur (turned (s.setQueue 12 y).cur)).setMe u.me ∧ y.entries 64 = rest ∧ y.Ok 64 ∧
              s.me.Entered u.me T w ∧ u.me.stack = s.me.stack))))

/-- R53: a vector register name below 32 is that register; a name above selects 32 + (n − 32 + VRB) mod 32; a write
through a name is read back through it, and through no other. R49, R50, R59, R252, R170: outside the execute stream a
vector, tile, predicate or loop instruction is an illegal encoding, and an access family outside the access stream, a
job or user-interrupt family outside the control stream too; a vector instruction that names a leased register or
predicate takes a lease fault before any effect. R68, R273 to R275: GLEAN appends one entry for each enabled lane in
ascending order, or, with too few free entries, none and stalls with kind 8; GDRAIN moves up to 64 entries, oldest
first, into the lanes of its destinations and marks the lanes filled in its predicate. -/
def Obligations.VectorNames : Prop :=
  (∀ (k : Strand) (n m : VName) (v : VReg),
      (n.toNat < 32 → k.physV n = n.toNat) ∧ (32 ≤ n.toNat → k.physV n = 32 + (n.toNat - 32 + k.vrb.toNat) % 32) ∧
      (k.physV n = k.physV m ↔ n = m) ∧ (k.setV n v).vreg n = v ∧ (m ≠ n → (k.setV n v).vreg m = k.vreg m)) ∧
  (∀ (s : State) (g : Guard) (d a b : VName) (p : PName) (q : BitVec 6) (t : BitVec 4) (r : Reg) (o : Off11) (x : BitVec 1)
      (z : BitVec 2) (c : BitVec 2) (f : BitVec 4) (sc : BitVec 3), s.cur.spec = none →
      (s.who ≠ .x → Illegal s (.vadd g d a b) ∧ Illegal s (.vfadd g d a b) ∧ Illegal s (.vcmpEq g p a b) ∧
        Illegal s (.vmov g d a) ∧ Illegal s (.vpop g d q) ∧ Illegal s (.vpush g a q) ∧ Illegal s (.trow g d r t) ∧
        Illegal s (.twrow g d r t) ∧ Illegal s (.tempty t) ∧ Illegal s (.tfill t) ∧ Illegal s (.twait t) ∧
        Illegal s (.pand p p p) ∧ Illegal s (.glean 0 z g a) ∧ Illegal s (.gdrain p z x d) ∧ Illegal s (.brc r o) ∧
        Illegal s (.brcQ o)) ∧
      (s.who ≠ .a → Illegal s (.ldIndexed c x z r r r) ∧ Illegal s (.stIndexed c z r r r) ∧ Illegal s (.ldq x z r r 0) ∧
        Illegal s (.stq z r r 2) ∧ Illegal s (.lda sc z r r none) ∧ Illegal s (.strel sc z r r none) ∧ Illegal s (.fence sc) ∧
        Illegal s (.pref r none) ∧ Illegal s (.gadd sc 0 x r r) ∧ Illegal s (.gcasQ sc 0 r r r) ∧ Illegal s (.barinit sc 0 r r r) ∧
        Illegal s (.barwait sc r r r) ∧ Illegal s (.rresv r r r) ∧ Illegal s (.msend r r r) ∧ Illegal s (.mstore r r r) ∧
        Illegal s (.seal r) ∧ Illegal s (.sealw z r r r) ∧ Illegal s (.rinr r)) ∧
      (s.who ≠ .c → Illegal s (.nset 0 (.reg r)) ∧ Illegal s (.mma x x f f r) ∧ Illegal s (.plane x x f r) ∧
        Illegal s (.sacc x x f f r r) ∧ Illegal s (.kld f r f) ∧ Illegal s (.drain x x f f r) ∧ Illegal s (.gclr x r r) ∧
        Illegal s (.copyj x r) ∧ Illegal s (.jobw x r r) ∧ Illegal s (.publish r r) ∧ Illegal s (.launch r r r)) ∧
      (s.who = .x → s.cur.leaseHit g [d, a, b] [] = true → Faults s (.vadd g d a b) 0x07 0 0 ∧ Faults s (.vfadd g d a b) 0x07 0 0 ∧
        Faults s (.vperm g d a b) 0x07 0 0)) ∧
  (∀ (s : State) (tag : BitVec 16) (nv : BitVec 2) (m : BitVec 1) (g : Guard) (n : PName) (a : VName), s.who = .x →
      let k := s.cur
      let cnt := nv.toNat + 1
      let lanes := (List.range 64).filter fun i => (k.mask g).getLsbD i
      let entries (c : Strand) : List (BitVec 192) := (List.range c.gleanOcc).map fun j => c.gleanAt j
      let c := min 64 k.gleanOcc
      (k.leaseHit g (nameRange a cnt) [] = false → 4096 < k.gleanOcc + lanes.length → Stalls s (.glean tag nv g a) 8) ∧
      (k.leaseHit g (nameRange a cnt) [] = false → k.gleanOcc + lanes.length ≤ 4096 → Cells.wf k.glean = true →
        ∃ y, Does s (.glean tag nv g a) (s.setCur y) 8 ∧ y = { k with glean := y.glean, gleanOcc := y.gleanOcc } ∧
          ∃ es : List (BitVec 192), entries y = entries k ++ es ∧ es.length = lanes.length ∧
            ∀ (j i : Nat) (e : BitVec 192), lanes[j]? = some i → es[j]? = some e →
              (e.extractLsb' 0 6).toNat = i ∧ (e.extractLsb' 6 3).toNat = cnt ∧ e.extractLsb' 16 16 = tag ∧
              (∀ p < cnt, e.extractLsb' (64 + 32 * p) 32 = s.lane (a + BitVec.ofNat 6 p) i) ∧
              (∀ p < 4, cnt ≤ p → e.extractLsb' (64 + 32 * p) 32 = 0)) ∧
      (k.leaseHit 0 (nameRange a (cnt + m.toNat)) [n] = false → a.toNat + cnt + m.toNat ≤ 64 → Cells.wf k.glean = true →
        k.gleanOcc ≤ 4096 → k.gleanHead < 4096 →
        ∃ y, Does s (.gdrain n nv m a) (s.setCur y) 8 ∧
          y = { k with v := y.v, p := y.p, glean := y.glean, gleanOcc := y.gleanOcc, gleanHead := y.gleanHead } ∧
          entries y = (entries k).drop c ∧ (n ≠ 0 → n.toNat < 96 → y.preg n = BitVec.ofNat 64 (2 ^ c - 1)) ∧
          (∀ (p j : Nat), p < cnt → j < c →
            laneOf (y.vreg (a + BitVec.ofNat 6 p)) j =
              if ((k.gleanAt j).extractLsb' 6 3).toNat ≤ p then 0 else (k.gleanAt j).extractLsb' (64 + 32 * p) 32) ∧
          (∀ j < c, m = 1 → laneOf (y.vreg (a + BitVec.ofNat 6 cnt)) j = (k.gleanAt j).extractLsb' 0 32) ∧
          (∀ p < cnt + m.toNat, ∀ j < 64, c ≤ j →
            laneOf (y.vreg (a + BitVec.ofNat 6 p)) j = laneOf (k.vreg (a + BitVec.ofNat 6 p)) j)))

/-- R116, R117: rounding m × 2^e (and more, below its last place, when sticky) to a multiple of 2^q: exact where it is a
multiple; RTZ below, RDN and RUP away from zero on their side alone; RNE to the nearer multiple, a tie to the even
one. R111, R113, R117, R118 (Table 5-2): a code that is no NaN, converted to its own format, is that code, with no
flag: every finite code and infinity of FP32, FP16, BF16, F8E5 and F8E4 under every mode, and every T6 and T8 code but
NaR. R122, R257: sums, products and fused products of finite values are exact before the one rounding; a quotient is
exact to 64 bits and more, with what is left below its last place as its sticky part; a product of zero and an
infinity, a difference of infinities, 0/0 and ∞/∞ are invalid, and a finite number over zero is an infinity with DZ.
R117 (Tables 5-2 to 5-5): a finite nonzero value rounded to a float format: the rounding of R116 at frac bits below
the leading one, or at the last place of the subnormals where that is higher; within the format's finite range the
code holds that multiple with the value's sign, beyond it the overflow of Table 5-4; NX, OF and UF as Table 5-5 has
them, UF here for values below the normal range by a binade and more, and for no normal one. R124 (Table 5-6), R257:
the special cases of the square root, the reciprocal square root, the exponential and the logarithm, and the arguments
where the last two are exact; the reciprocal is the quotient of 1; a minimum and a maximum are one of the two
operands, with no NaN among them the one that the order of the values picks. -/
def Obligations.Numbers : Prop :=
  (∀ (rm : RMode) (neg sticky : Bool) (m : Nat) (e : Int) (j : Nat),
      let r := roundAt rm neg m e sticky (e + j)
      let lo := m / 2 ^ j
      let part := m % 2 ^ j
      (r.2 = true ↔ part = 0 ∧ sticky = false) ∧ (r.2 = true → r.1 = lo) ∧ (r.1 = lo ∨ r.1 = lo + 1) ∧
      (0 < j → r.2 = false →
        (rm.toNat = 1 → r.1 = lo) ∧ (rm.toNat = 2 → r.1 = if neg then lo + 1 else lo) ∧
        (rm.toNat = 3 → r.1 = if neg then lo else lo + 1) ∧
        (rm.toNat = 0 → r.1 = if 2 * part < 2 ^ j then lo else if 2 ^ j < 2 * part then lo + 1
          else if sticky = true then lo + 1 else lo + lo % 2)) ∧
      (∀ k : Nat, roundAt rm neg m e false (e - k) = (m * 2 ^ k, true))) ∧
  (∀ (rm : RMode) (c : Nat),
      (∀ f ∈ [fp32, fp16, bf16, f8e5, f8e4], c < 2 ^ f.width → f.decode c ≠ .nan → f.round rm false (f.decode c) = (c, 0)) ∧
      (c < 64 → c ≠ 32 → roundTapered 6 rm (decodeTapered 6 c) = (c, 0)) ∧
      (c < 256 → c ≠ 128 → roundTapered 8 rm (decodeTapered 8 c) = (c, 0)) ∧
      decodeTapered 6 32 = .nan ∧ decodeTapered 8 128 = .nan ∧ decodeTapered 6 0 = .zero false ∧ decodeTapered 8 0 = .zero false) ∧
  (∀ (rm : RMode) (x y z : ExactNum) (a b c : Rat),
      let abs (r : Rat) : Rat := max r (-r)
      x.exact = true → y.exact = true → z.exact = true → x.val = some a →
      y.val = some b → z.val = some c →
      ((ExactNum.add rm x y).1.val = some (a + b) ∧ (ExactNum.add rm x y).2 = 0) ∧
      ((ExactNum.sub rm x y).1.val = some (a - b) ∧ (ExactNum.sub rm x y).2 = 0) ∧
      ((x.mul y).1.val = some (a * b) ∧ (x.mul y).2 = 0) ∧
      ((ExactNum.fma rm x y z).1.val = some (a * b + c) ∧ (ExactNum.fma rm x y z).2 = 0) ∧
      (b ≠ 0 → ∃ q n m e t, x.div y = (.fin n m e t, 0) ∧ (ExactNum.fin n m e t).val = some q ∧
        (t = false ↔ q = a / b) ∧ abs q ≤ abs (a / b) ∧ abs (a / b) < abs q + 2 ^ e ∧ (a ≠ 0 → 2 ^ 63 ≤ m)) ∧
      (a = 0 → b = 0 → x.div y = (.nan, 16)) ∧ (a ≠ 0 → b = 0 → ∃ n, x.div y = (.inf n, 8)) ∧
      (∀ n k, (a = 0 → x.mul (.inf n) = (.nan, 16)) ∧ (a ≠ 0 → ∃ n', x.mul (.inf n) = (.inf n', 0)) ∧
        ExactNum.add rm (.inf n) (.inf k) = (if n = k then (.inf n, 0) else (.nan, 16)) ∧ (ExactNum.inf n).div (.inf k) = (.nan, 16)) ∧
      (ExactNum.add rm .nan x = (.nan, 0) ∧ ExactNum.nan.mul x = (.nan, 0) ∧ ExactNum.nan.div x = (.nan, 0))) ∧
  (∀ (f : Ieee) (rm : RMode) (sat neg sticky : Bool) (m : Nat) (e top : Int) (b : Rat), f ∈ [fp32, fp16, bf16, f8e5, f8e4] →
      m ≠ 0 → (2 : Rat) ^ top ≤ m * 2 ^ e → (m : Rat) * 2 ^ e < 2 ^ (top + 1) → (f.decode f.maxFinite).val = some b →
      let out := f.round rm sat (.fin neg m e sticky)
      let q := max (top - f.frac) (1 - f.bias - f.frac)
      let r := roundAt rm neg m e sticky q
      let v : Rat := r.1 * 2 ^ q
      let sign := if neg then f.signBit else 0
      (v ≤ b → (f.decode out.1).val = some (if neg then -v else v) ∧ out.1 / f.signBit = (if neg then 1 else 0) ∧
        out.2.getLsbD 0 = !r.2 ∧ out.2.getLsbD 2 = false ∧ (out.2.getLsbD 1 = true → r.2 = false ∧ top < 1 - f.bias) ∧
        (r.2 = false → top < -f.bias → out.2.getLsbD 1 = true)) ∧
      (b < v → out.2 = 5 ∧ (sat = true → out.1 = sign + f.maxFinite) ∧
        (sat = false → f.hasInf = false → out.1 = f.nan) ∧
        (sat = false → f.hasInf = true → out.1 = sign + f.maxFinite +
          (if rm = 0 ∨ (rm = 2 ∧ neg = true) ∨ (rm = 3 ∧ neg = false) then 1 else 0)))) ∧
  (∀ (x : ExactNum) (neg : Bool) (n : Int),
      (ExactNum.nan.sqrt = (.nan, 0) ∧ (ExactNum.inf neg).sqrt = (if neg then (.nan, 16) else (.inf false, 0)) ∧
        (ExactNum.zero neg).sqrt = (.zero neg, 0)) ∧
      (ExactNum.nan.rsqrt = (.nan, 0) ∧ (ExactNum.inf neg).rsqrt = (if neg then (.nan, 16) else (.zero false, 0)) ∧
        (ExactNum.zero neg).rsqrt = (.inf neg, 8)) ∧
      (x.exact = true → (∃ a, x.val = some a ∧ a < 0) → x.sqrt = (.nan, 16) ∧ x.rsqrt = (.nan, 16) ∧ x.log2 = (.nan, 16)) ∧
      x.rcp = (ExactNum.fin false 1 0 false).div x ∧
      (ExactNum.nan.exp2 = (.nan, 0) ∧ (ExactNum.inf neg).exp2 = (if neg then .zero false else .inf false, 0)) ∧
      (x.exact = true → x.val = some (n : Rat) → -149 ≤ n → n ≤ 127 → x.exp2 = (.fin false 1 n false, 0)) ∧
      (ExactNum.nan.log2 = (.nan, 0) ∧ (ExactNum.inf neg).log2 = (if neg then (.nan, 16) else (.inf false, 0)) ∧
        (ExactNum.zero neg).log2 = (.inf true, 8)) ∧
      (x.exact = true → x.val = some ((2 : Rat) ^ n) → x.log2 = (.ofInt n, 0)) ∧
      (∀ f ∈ [fp32, fp16, bf16], ∀ u v, u < 2 ^ f.width → v < 2 ^ f.width →
        ((f.decode u = .nan ∨ f.decode v = .nan) → f.min u v = f.nan ∧ f.max u v = f.nan) ∧
        ∀ a b, (f.decode u).val = some a → (f.decode v).val = some b →
          (a < b → f.min u v = u ∧ f.max u v = v) ∧ (b < a → f.min u v = v ∧ f.max u v = u)))

/-! ### Jobs -/
/-- R279 (Table 11-3), R293, R277, R151, R278: NSET writes the named field, truncated to its width, and no other; JOBW
waits, with kind 5, until the retired prefix of its class reaches s[a], and returns it; an issue into a full queue
stalls with kind 1. R284, R285, R278, R280, R281 (Tables 6-2, 11-2, 11-3): MMA, MMAG and MMAGS snapshot the nest
fields and the declared regions; a field outside its limits is an illegal encoding, a region that fails its checks
that fault, and else the card enters the tl queue. -/
def Obligations.JobFields : Prop :=
  (∀ (s : State) (f : BitVec 8) (v : NSrc) (a d : Reg) (u m : BitVec 1) (x y : BitVec 4), s.who = .c →
      let j := s.cur.jobs
      let value : Int := match v with
        | .reg r => ((s.rd r).toNat : Int)
        | .lit l => l.toInt
      (∃ t : Vector Word 256, t[f.toNat] = wrap (value % 2 ^ fieldWidth f) 64 ∧ (∀ n : Fin 256, n.val ≠ f.toNat → t[n] = j.table[n]) ∧
        Does s (.nset f v) (s.setCur { s.cur with jobs := { j with table := t } }) (match v with | .reg _ => 4 | .lit _ => 8)) ∧
      ((s.rd a).toNat ≤ j.seqcp.toNat → Gives s (.jobw 0 a d) d j.seqcp 4) ∧
      (j.seqcp.toNat < (s.rd a).toNat → Stalls s (.jobw 0 a d) 5) ∧
      ((∀ c ∈ j.thq, 0 < c.ord) → j.issuedTl < 2 ^ 64 →
        ∃ n ≤ j.issuedTl, (∀ c ∈ j.thq, n < c.ord) ∧ (n = j.issuedTl ∨ ∃ c ∈ j.thq, c.ord = n + 1) ∧
          ((s.rd a).toNat ≤ n → Gives s (.jobw 1 a d) d (BitVec.ofNat 64 n) 4) ∧
          (n < (s.rd a).toNat → Stalls s (.jobw 1 a d) 5)) ∧
      (8 ≤ j.thq.length → Stalls s (.mma u m x y d) 1 ∧ Stalls s (.mmag u m x y d) 1 ∧ Stalls s (.mmags u m x y d) 1 ∧
        Stalls s (.plane u m x d) 1 ∧ Stalls s (.sacc u m x y a d) 1 ∧ Stalls s (.drain u m x y d) 1 ∧ Stalls s (.gclr u a d) 1) ∧
      (16 ≤ j.cpq.length → Stalls s (.copyj u d) 1)) ∧
  (∀ (s : State) (u m : BitVec 1) (f g : BitVec 4) (d : Reg), s.who = .c → s.cur.jobs.thq.length < 8 →
      let T (n : Nat) : Word := vget s.cur.jobs.table n 0
      let F (n : Nat) : Nat := (T n).toNat
      let base (i : Nat) : Word := if i < 4 then T (0x60 + i) else T (0x64 + i)
      let len (i : Nat) : Nat := if i < 4 then F (0x64 + i) else F (0x66 + i)
      let size (space : Nat) : Nat := if space = 0 then 2 ^ 56 else if space = 1 then 2 ^ 21 else if space = 2 then 2 ^ 19
        else if space = 3 then 2 ^ 31 else if space = 4 then 2 ^ 52 else 0
      let used := (List.range 6).filter fun i => len i != 0
      let ok (gather scatter : Prop) : Prop :=
        F 0 % 128 = 0 ∧ F 1 % 128 = 0 ∧ F 2 % 4 = 0 ∧ F 8 ≠ 3 ∧ (F 8 ≠ 0 → F 7 % 256 = 0 ∧ 256 ≤ F 7 ∧ F 7 ≤ 32768) ∧
        (gather → F 6 % 128 = 0 ∧ 128 ≤ F 6 ∧ F 6 ≤ 32768 ∧ F 3 % 2 = 0) ∧ (scatter → F 8 ≠ 0 ∧ F 4 % 2 = 0) ∧
        ∀ i ∈ used, (base i).toNat % 2 ^ 56 + len i ≤ size ((base i).toNat / 2 ^ 56)
      let nest (i : Instr) (kind : Nat) (gather scatter : Prop) : Prop :=
        (¬ok gather scatter → s.cur.spec = none → Illegal s i) ∧
        (ok gather scatter → IssuesTl s i d none (used.map fun i => { ea := base i, n := len i, write := 4 ≤ i }) none fun c =>
          c.kind.toNat = kind ∧ c.fa = f ∧ c.fb = g ∧ c.im = m ∧ c.ui = u ∧ c.nest = Vector.replicate 6 0 ∧
          (∀ n ∈ kindFields kind, c.field n = T n) ∧
          ∀ i : Fin 6, (len i = 0 → c.regions[i] = { base := 0, len := 0 }) ∧
            (len i ≠ 0 → c.regions[i] = { base := base i, len := BitVec.ofNat 32 (min (len i) (2 ^ 32 - 1)) }))
      nest (.mma u m f g d) 0 False False ∧ nest (.mmag u m f g d) 1 True False ∧ nest (.mmags u m f g d) 2 True True)

/-- R283, R288 to R291, R278, R58 (Tables 11-2, 11-3, 11-6): PLANE, SACC, DRAIN and GCLR: the limits of their fields and
operands, the ranges they derive, the overlaps they forbid, and the card they enter, an SACC's with the scale
registers as they stand. R292, R147, R278 (Tables 6-6, 11-2, 11-3), R287: COPYJ without a grant checks its rows and
its barrier object and enters a card of the cp queue; a count outside its limits is an illegal encoding. KLD converts
64 elements of the strand's own LS or granary, exactly, into a scale register at once. -/
def Obligations.JobIssues : Prop :=
  (∀ (s : State) (u m : BitVec 1) (f g : BitVec 4) (a d : Reg), s.who = .c → s.cur.jobs.thq.length < 8 →
      let F (n : Nat) : Nat := (vget s.cur.jobs.table n 0).toNat
      let w := s.rd a
      let wf := formatWidth f
      let illegalElse (i : Instr) (ok : Prop) (k : Prop) : Prop := (¬ok → s.cur.spec = none → Illegal s i) ∧ (ok → k)
      let is (c : Card) (kind : Nat) (x y : BitVec 4) (im : BitVec 1) : Prop :=
        c.kind.toNat = kind ∧ c.fa = x ∧ c.fb = y ∧ c.im = im ∧ c.ui = u ∧ ∀ n ∈ kindFields kind, c.field n = vget s.cur.jobs.table n 0
      let pitchOk (p : Nat) : Prop := p % 256 = 0 ∧ 256 ≤ p ∧ p ≤ 32768
      -- PLANE
      let es := (F 0xB4 / 2 - 1) * F 0xB1 + 2 * wf * (F 0xB3 + 1)
      let gs := (F 0xB3 + 1) * groupSize f (F 0xB4)
      let e0 := F 0xB0
      let g0 := F 0xB2
      illegalElse (.plane u m f d) (2 * wf * (F 0xB3 + 1) ≤ F 0xB1 ∧ g0 % 128 = 0 ∧ F 0xB4 % 128 = 0 ∧ 128 ≤ F 0xB4 ∧ F 0xB4 ≤ 32768)
        (IssuesTl s (.plane u m f d) d none
          [{ ea := lsAddr e0, n := es, write := m == 1 }, { ea := lsAddr g0, n := gs, write := !(m == 1) }]
          (if e0 < g0 + gs ∧ g0 < e0 + es then some (lsAddr (max e0 g0)) else none) fun c => is c 3 f (m.setWidth 4) 0) ∧
      -- SACC
      (let acc := w.toNat % 2 ^ 19
       let pitch := w.toNat / 2 ^ 32 % 2 ^ 16
       let pb := 0x70000 + 0x8000 * (w.toNat / 2 ^ 19 % 2)
       let n := 63 * pitch + 256
       illegalElse (.sacc u m f g a d) (pitchOk pitch)
        (IssuesTl s (.sacc u m f g a d) d (if acc % 4 ≠ 0 then some (grAddr acc) else none) [{ ea := grAddr acc, n := n, write := true }]
          (if acc < pb + 0x8000 ∧ pb < acc + n then some (grAddr (max acc pb)) else none) fun c => is c 4 f g m ∧ c.operand = w ∧
            c.row = vget s.cur.k f.toNat 0 ∧ c.col = vget s.cur.k g.toNat 0)) ∧
      -- GCLR
      (let off := w.toNat % 2 ^ 19
       let n := w.toNat / 2 ^ 32 % 2 ^ 20
       IssuesTl s (.gclr u a d) d (if n = 0 ∨ off % 4 ≠ 0 ∨ n % 4 ≠ 0 then some (grAddr off) else none)
         [{ ea := grAddr off, n := n, write := true }] none fun c => is c 6 0 0 0 ∧ c.operand = w) ∧
      -- DRAIN
      (let bit (b : Nat) : Bool := (vget s.cur.jobs.table 0xAD 0).getLsbD b
       let src := F 0xA0
       let n := 63 * F 0xA1 + 256
       let all : List (Bool × JobRange) :=
         [(true, { ea := grAddr src, n := n, write := false }),
          (bit 7, { ea := lsAddr (F 0xA4), n := 63 * F 0xA5 + 8 * formatWidth g, write := false }),
          (!bit 6, { ea := lsAddr (F 0xA2), n := 63 * F 0xA3 + 8 * wf, write := true }),
          (bit 3, { ea := grAddr src, n := n, write := true })]
       let ok : Prop := src % 4 = 0 ∧ pitchOk (F 0xA1) ∧ src + 63 * F 0xA1 + 255 ≤ 0x7FFFF ∧ (bit 7 = false → g = 0) ∧
         (bit 5 = true → m = 1 ∧ isFloat f = false ∧ bit 7 = false ∧ bit 4 = false) ∧
         (bit 6 = true → (f = 14 ∨ f = 6) ∧ F 0xA2 < 16 ∧ F 0xA3 = 0) ∧ (bit 6 = false → 8 * wf ≤ F 0xA3) ∧
         (bit 7 = true → 8 * formatWidth g ≤ F 0xA5)
       illegalElse (.drain u m f g d) ok (IssuesTl s (.drain u m f g d) d none ((all.filter (·.1)).map (·.2)) none fun c => is c 5 f g m))) ∧
  (∀ (s : State) (u : BitVec 1) (d a : Reg) (f : BitVec 4) (k : BitVec 4), s.who = .c →
      let T (n : Nat) : Word := vget s.cur.jobs.table n 0
      let F (n : Nat) : Nat := (T n).toNat
      let stride (n : Nat) : Int := ((T n).setWidth 32).toInt
      let row (base : Word) (s1 s2 : Int) (i j : Nat) : Word := base + BitVec.ofInt 64 (j * s2 + i * s1)
      let rows (base : Word) (s1 s2 : Int) : List Word :=
        (List.range (F 0x84)).flatMap fun j => (List.range (F 0x83)).map fun i => row base s1 s2 i j
      let src := rows (T 0x80) (stride 0x85) (stride 0x86)
      let dst := rows (T 0x81) (stride 0x87) (stride 0x88)
      let ranges : List JobRange := (src.map fun x => { ea := x, n := F 0x82, write := false }) ++
        (dst.map fun x => { ea := x, n := F 0x82, write := true }) ++
        (if T 0x8B = 0 then [] else [{ ea := T 0x8B, n := 16, write := true, bar := true }])
      let spans (all : List Word) (base : Word) (s1 s2 : Int) (r : Region) : Prop :=
        (∀ i < F 0x83, ∀ j < F 0x84, let o : Int := j * s2 + i * s1;
          -2 ^ 30 ≤ o ∧ o < 2 ^ 30 ∧ 0 ≤ base.toNat + o ∧ base.toNat + o < 2 ^ 63) →
        ∀ x ∈ all, r.base.toNat ≤ x.toNat ∧ x.toNat + F 0x82 ≤ r.base.toNat + r.len.toNat
      let ok : Prop := 0 < F 0x82 ∧ 0 < F 0x83 ∧ 0 < F 0x84 ∧ F 0x82 ≤ 65536 ∧ F 0x83 ≤ 65536 ∧ F 0x84 ≤ 65536 ∧
        F 0x82 * F 0x83 * F 0x84 ≤ 65536 ∧ F 0x8C ≤ 4
      let aligned : Prop := (F 0x89 ≠ 0 → F 0x81 % 4 = 0 ∧ F 0x82 % 4 = 0 ∧ stride 0x87 % 4 = 0 ∧ stride 0x88 % 4 = 0) ∧ F 0x8B % 16 = 0
      (s.cur.jobs.cpq.length < 16 →
        (¬ok → s.cur.spec = none → Illegal s (.copyj u d)) ∧
        (ok → aligned → T 0x8A = 0 → s.cur.id.sys = true →
          (∀ c x, s.cur.spec = none → s.jobCheck false none none ranges = .fault c x →
            FaultsAt s (.copyj u d) c (if c = 0x04 ∨ c = 0x05 then 3 else 0) x) ∧
          (∀ ps e, s.jobCheck false none none ranges = .ok ps → heldLines ps = [] → s.jobBarred ps = false →
            (∀ p ∈ ps, p.1.write = true → (F 0x89 ≠ 0 ∨ p.1.bar = true) → ∀ q ∈ p.2, q.hit.gran = true) →
            s.myDie.egress.length ≤ 4096 → s.commitJob ps = .done (s.setDev e) →
            Issues s (.copyj u d) true d (ps.foldl (fun (t : State) p => t.fillAll p.1.ea p.2) (s.setDev e)).dev fun c => c.kind = 8 ∧ c.ui = u ∧ (∀ n ∈ kindFields 8, c.field n = T n) ∧
              c.target = none ∧ c.hold = 0 ∧
              spans src (T 0x80) (stride 0x85) (stride 0x86) c.regions[0] ∧ spans dst (T 0x81) (stride 0x87) (stride 0x88) c.regions[4] ∧
              (T 0x8B = 0 → c.regions[5].len = 0) ∧ (T 0x8B ≠ 0 → c.regions[5] = { base := T 0x8B, len := 16 })))) ∧
      (let ea := s.rd a
       let w := formatWidth f / 8
       let space := ea.toNat / 2 ^ 56
       (space ≠ 1 → space ≠ 2 → s.cur.spec = none → Faults s (.kld f a k) 0x05 0 ea) ∧
       ((space = 1 ∨ space = 2) →
         (∀ c x, s.cur.spec = none → s.check .load w false ea (64 * w) = .fault c x → FaultsAt s (.kld f a k) c 0 x) ∧
         (∀ ps, s.check .load w false ea (64 * w) = .ok ps → s.poisonIn ps = [] → kldFormat f = true → s.cur.cards = [] → s.cur.qstreams = [] →
           let e (i : Nat) : Nat := leNat (((s.loadBytes ps).drop (i * w)).take w)
           ∃ v : VReg, Does s (.kld f a k) (s.setCur { s.cur with k := s.cur.k.set k.toNat v k.isLt }) 4 ∧
             ∀ i < 64, (decodeFmt f (e i) = .nan → laneOf v i = 0x7FC00000) ∧
               (decodeFmt f (e i) ≠ .nan → (fp32.decode (laneOf v i).toNat).val = (decodeFmt f (e i)).val)))))

/-! ### The engines -/
/-- R151, R152, R95, R96, R71, R72, R121, R294: a thresher unit takes the oldest card of its queue when nothing earlier
conflicts with it, and not while something does, the barrier regions of two copies on one object being no conflict
(Table 13-7; assumption log 72); the copy engine runs four jobs and takes the oldest card that nothing earlier
conflicts with (the model's choice of the oldest: assumption log 74); a finished job retires, thresher jobs in the
order in which they finished: its card leaves the queue, its flags are raised, its sequence number rises and UI makes
an interrupt pending. An access outside the card's regions, or a copy's request that has had no answer for the fabric
time-out, freezes the strand with the card's record; that a step of a job other than a nest looks at all of its
accesses first is the model's choice (assumption log 92). -/
def Obligations.JobUnits : Prop :=  ∀ (s : State) (u : JobUnit) (a b : List Card) (c : Card),
    let k := s.cur
    let j := k.jobs
    let mine : Prop := u ≠ .copy ∧ (c.isMul = true ↔ u = .mul)
    let alone : Prop := k.resident = true ∧ k.hung = false ∧ k.parked = false ∧ c.phase = .queued ∧ k.qstreams = [] ∧
      s.myDie.requests = []
    let blocked (c : Card) : Prop := ∃ e ∈ k.cards, e.stamp < c.stamp ∧
      ∃ i j : Fin 6, (4 ≤ i.val ∨ 4 ≤ j.val) ∧ e.regions[i].meets c.regions[j] = true ∧
        ¬(i = 5 ∧ j = 5 ∧ e.kind = 8 ∧ c.kind = 8 ∧ e.regions[5] = c.regions[5])
    let conflict : Prop := blocked c
    let ends (n : Nat) : UiState := if c.ui = 1 then
      { k.ui with pend := if k.ui.pend = 255 then 255 else k.ui.pend + 1, ovf := k.ui.ovf || k.ui.pend == 255
                  srcs := k.ui.srcs ||| BitVec.ofNat 3 (2 ^ n) } else k.ui
    (mine → alone → j.thq = a ++ c :: b → (∀ e ∈ a ++ b, e.ord ≠ c.ord ∧ e.phase ≠ .faulted) → (∀ e ∈ a, e.phase ≠ .queued) →
      (∀ e ∈ a ++ b, e.isMul = c.isMul → e.phase = .queued) →
      (¬conflict → exec (.jobHandoff u) s = .next (s.setCur (k.withThq (a ++ { c with phase := .running } :: b)))) ∧
      (conflict → exec (.jobHandoff u) s = .next s)) ∧
    (alone → j.cpq = a ++ c :: b → (∀ e ∈ a ++ b, e.ord ≠ c.ord ∧ e.phase ≠ .faulted) →
      (∀ e ∈ a, e.phase = .queued → blocked e) →
      (¬conflict → (j.cpq.filter fun e => e.phase == .running).length < 4 →
        exec (.jobHandoff .copy) s = .next (s.setCur { k with jobs :=
          { j with cpq := a ++ { c with phase := .running } :: b } })) ∧
      (4 ≤ (j.cpq.filter fun e => e.phase == .running).length → exec (.jobHandoff .copy) s = .next s) ∧
      (conflict → (∀ e ∈ b, e.phase = .queued → blocked e) → exec (.jobHandoff .copy) s = .next s)) ∧
    (mine → OnThresher s a c b → c.phase = .finished → c.kind ≠ 8 → c.tags = [] →
      (∀ e ∈ a ++ b, e.phase = .finished → c.fin ≤ e.fin) →
      exec (.jobRetire u) s = .next (s.setCur { k with
        jobs := { j with thq := a ++ b, seqtl := j.seqtl + 1 }, fflags := k.fflags ||| c.flags, ui := ends 1 })) ∧
    (∀ e ∈ a ++ b, mine → OnThresher s a c b → c.kind ≠ 8 → c.phase = .finished → e.phase = .finished → e.fin < c.fin → Waits s (.jobRetire u)) ∧
    (OnCopy s c b → c.phase = .finished → c.tags = [] → (c.field 0x8B = 0 ∨ c.arrived = true) →
      exec (.jobRetire .copy) s = .next (s.setCur { k with
        jobs := { j with cpq := b, seqcp := j.seqcp + 1, overruns := if c.overrun = true then c.ord :: j.overruns else j.overruns }
        fflags := k.fflags ||| c.flags, ui := ends 0 })) ∧
    (∀ x, OnThresher s a c b → c.isMul = true → c.kind.toNat ≤ 2 → c.phase = .running → c.bodyRead k.ls = .bad x → c.tags = [] →
      k.spec = none → s.myDie.egress = [] → k.id.die.toNat < 8 →
      ∃ r, exec (.jobRunningFault .mul 0x0E x) s = .next (s.setCur { k.withThq (a ++ { c with phase := .faulted, started := true } :: b) with
          frozen := true, faults := k.faults ++ [r] }) ∧
        r.cause = 0x0E ∧ r.src = 3 ∧ r.faddr = x ∧ r.iaddr = 0 ∧ r.detail = 0 ∧ r.aux = BitVec.ofNat 64 c.ord) ∧
    (∀ x, OnThresher s a c b → c.isMul = false → c.kind ≠ 4 → c.phase = .running → c.outside = some x → c.tags = [] →
      k.spec = none → s.myDie.egress = [] →
      ∃ r, exec (.jobRunningFault .port 0x0E x) s = .next (s.setCur { k.withThq (a ++ { c with phase := .faulted, started := true } :: b) with
          frozen := true, faults := k.faults ++ [r] }) ∧
        r.cause = 0x0E ∧ r.src = 4 ∧ r.faddr = x ∧ r.iaddr = 0 ∧ r.detail = 0 ∧ r.aux = BitVec.ofNat 64 c.ord) ∧
    (∀ tag r, OnCopy s c b → c.phase = .running → c.tags = [tag] → s.myDie.request tag = some r → r.replied = false →
      2 ^ s.myDie.win.ftimeout.toNat ≤ r.age → (r.kind ≠ 1 ∨ r.performed = false) → k.spec = none →
      ∃ t f, exec (.jobRunningFault .copy 0x11 r.faddr) s = .next t ∧ t.cur.frozen = true ∧ t.cur.faults = k.faults ++ [f] ∧
        f.cause = 0x11 ∧ f.src = 5 ∧ f.faddr = r.faddr ∧ f.iaddr = 0 ∧ f.detail = 0 ∧ f.aux = BitVec.ofNat 64 c.ord ∧
        t.cur.jobs.cpq = { c with phase := .faulted, started := true, tags := [] } :: b ∧
        (∀ q ∈ t.myDie.requests, q.tag ≠ tag) ∧ t.dev.mem = s.dev.mem)

/-- R137, R138, R139, R140, R144: the next body of the running nest emits its block: with OUT 00 into the EMPTY buffer at
the write pointer, which is FILLING until its last word is in and then FULL, else word by word into the granary; the
indices advance with level 0 innermost. An SACC's FULL buffer is DRAINING while it is read into the accumulator and
then EMPTY. No other byte of the granary changes. R132, R137, R125, R126, R128, R129: what a block is: the groups it
reads from LS halfword by halfword; in the integer class each cell the exact sum of its products, narrowed by the
mode; a float K-step the sum of its products cut to a window below the largest, rounded once; an SACC word one
rounding of acc + k_a × k_b × P. -/
def Obligations.ThresherResults : Prop :=
  (∀ (s : State) (a b : List Card) (c : Card) (as bs : List Group) (arow srow : List Nat),
      let k := s.cur
      OnThresher s a c b → c.phase = .running → k.gr.wf = true →
      let pair := c.nat 9
      let buf := pairBuffer pair k.wptr
      let P := c.block as bs arow
      let cell (i j : Nat) : Nat × Flags := ((P[i]?.getD [])[j]?).getD (0, 0)
      let word (m : Memory) (o : Nat) : Nat := m.nat o 4
      let CNT (l : Nat) : Nat := c.nat (0x10 + l)
      let moved (d : Card) : Prop := d = { c with started := true, flags := d.flags, phase := d.phase, nest := d.nest, fin := d.fin } ∧
        (∀ n : Fin 6, CNT n < 65536 → c.nest[n].toNat < CNT n → (∀ l : Fin 6, l < n → CNT l ≤ c.nest[l].toNat) → d.phase = .running ∧
          ∀ l : Fin 6, d.nest[l] = if l < n then 0 else if l = n then c.nest[n] + 1 else c.nest[l]) ∧
        ((∀ n : Fin 6, CNT n ≤ c.nest[n].toNat) → d.phase = .finished ∧ d.nest = Vector.replicate 6 0)
      (c.isMul = true → c.kind.toNat ≤ 2 → c.bodyRead k.ls = .ok as bs arow srow → arow.length = 64 → pair < 2 →
        (c.nat 8 = 0 → vget k.pbst buf 0 = 0 →
          exec .blockEmit s = .next (s.setCur { k with pbst := k.pbst.setIfInBounds buf 1 })) ∧
        (c.nat 8 = 0 → vget k.pbst buf 0 = 1 →
          ∃ t d, exec .blockEmit s = .next t ∧ moved d ∧
            t.cur = { k.withThq (a ++ d :: b) with gr := t.cur.gr, pbst := k.pbst.setIfInBounds buf 2
                                                   wptr := k.wptr ^^^ BitVec.ofNat 2 (2 ^ pair) } ∧ t = s.setCur t.cur ∧
            (∀ i < 64, ∀ j < 64, word t.cur.gr (0x70000 + 0x4000 * buf + 256 * i + 4 * j) = (cell i j).1 % 2 ^ 32) ∧
            (∀ o, (o < 0x70000 + 0x4000 * buf ∨ 0x74000 + 0x4000 * buf ≤ o) → t.cur.gr.get o = k.gr.get o) ∧
            (∀ f < 5, d.flags.getLsbD f = true ↔ c.flags.getLsbD f = true ∨ ∃ i < 64, ∃ j < 64, (cell i j).2.getLsbD f = true)) ∧
        (c.nat 8 = 0 → 2 ≤ vget k.pbst buf 0 → exec .blockEmit s = .next s) ∧
        (let d0 := c.stride (c.nat 2) 0x40
         let at_ (i j : Nat) : Nat := d0.toNat + i * c.nat 7 + 4 * j
         (c.nat 8 = 1 ∨ c.nat 8 = 2) → c.kind.toNat ≠ 2 → 0 ≤ d0 → 256 ≤ c.nat 7 →
          (∀ i < 64, ∀ j < 64, c.allows true 2 (at_ i j) 4 = true) →
          ∃ t d, exec .blockEmit s = .next t ∧ moved d ∧ t.cur = { k.withThq (a ++ d :: b) with gr := t.cur.gr } ∧ t = s.setCur t.cur ∧
            (∀ i < 64, ∀ j < 64, word t.cur.gr (at_ i j) =
              (if c.nat 8 = 1 then (cell i j).1
               else if isFloat c.fa = true then (roundFp32 0 (ExactNum.add 0 (fp32.decode (word k.gr (at_ i j))) (fp32.decode (cell i j).1))).1
               else intMode c.im ((BitVec.ofNat 32 (word k.gr (at_ i j))).toInt + (BitVec.ofNat 32 (cell i j).1).toInt)) % 2 ^ 32) ∧
            (∀ o, (∀ i < 64, o < at_ i 0 ∨ at_ i 0 + 256 ≤ o) → t.cur.gr.get o = k.gr.get o))) ∧
      (let sb := pairBuffer (saccPair c.operand) k.cptr
       let at_ (i j : Nat) : Nat := saccAcc c.operand + i * saccPitch c.operand + 4 * j
       let out (i j : Nat) : Nat × Flags := saccWord (word k.gr (at_ i j)) (fp32.decode (laneOf c.row i).toNat)
         (fp32.decode (laneOf c.col j).toNat) (partialValue c.im (word k.gr (0x70000 + 0x4000 * sb + 256 * i + 4 * j)))
       c.kind = 4 → 256 ≤ saccPitch c.operand → saccPair c.operand < 2 → c.outside = none →
        (vget k.pbst sb 0 = 2 → exec .saccBufferRead s = .next (s.setCur
          { k.withThq (a ++ { c with started := true } :: b) with pbst := k.pbst.setIfInBounds sb 3 })) ∧
        (vget k.pbst sb 0 = 3 →
          ∃ t d, exec .saccBufferRead s = .next t ∧ d = { c with phase := .finished, started := true, flags := d.flags, fin := d.fin } ∧
            t.cur = { k.withThq (a ++ d :: b) with gr := t.cur.gr, pbst := k.pbst.setIfInBounds sb 0
                                                   cptr := k.cptr ^^^ BitVec.ofNat 2 (2 ^ saccPair c.operand) } ∧ t = s.setCur t.cur ∧
            (∀ i < 64, ∀ j < 64, word t.cur.gr (at_ i j) = (out i j).1 % 2 ^ 32) ∧
            (∀ o, (∀ i < 64, o < at_ i 0 ∨ at_ i 0 + 256 ≤ o) → t.cur.gr.get o = k.gr.get o) ∧
            (∀ f < 5, d.flags.getLsbD f = true ↔ c.flags.getLsbD f = true ∨ ∃ i < 64, ∃ j < 64, (out i j).2.getLsbD f = true)) ∧
        (vget k.pbst sb 0 < 2 → exec .saccBufferRead s = .next s))) ∧
  ((∀ (c : Card) (ls : Memory) (as bs : List Group) (arow srow : List Nat), ls.wf = true → c.bodyRead ls = .ok as bs arow srow →
      let ga := groupSize c.fa c.ppA
      let gb := groupSize c.fb 128
      let half (o : Nat) : Nat := (ls.get o).toNat + 256 * (ls.get (o + 1)).toNat
      let sum (base f : Nat) : Int := (List.range 6).foldl (fun x l => x + (vget c.nest l 0).toNat * c.int (f + l)) (base : Int)
      as.length = c.nat 5 + 1 ∧ bs.length = c.nat 5 + 1 ∧ (c.kind = 0 → arow = List.range 64) ∧
      ∀ (i : Nat) (g h : Group), as[i]? = some g → bs[i]? = some h →
        (∀ x < ga / 2, g.getD x 0 = half ((sum (c.nat 0) 0x20).toNat + i * ga + 2 * x)) ∧
        (∀ x < gb / 2, h.getD x 0 = half ((sum (c.nat 1) 0x30).toNat + i * gb + 2 * x))) ∧
    (∀ (g : Group) (q pp r κ : Nat), (∀ j, Nat.testBit (g.planes q pp r κ) j = (decide (j < q) && Nat.testBit (g.getD (j * (pp / 2) + r) 0) κ))) ∧
    (∀ (c : Card) (as bs : List Group) (arow : List Nat) (i j r : Nat), isFloat c.fa = false → arow[i]? = some r → j < 64 →
      let value (g : Group) (f : BitVec 4) (pp r κ : Nat) : Int := decodeInt f (g.planes (serialWidth f) pp r κ)
      let total : Int := ((as.zip bs).map fun p => ((List.range 16).map fun κ => value p.1 c.fa c.ppA r κ * value p.2 c.fb 128 j κ).sum).sum
      ∃ row, (c.block as bs arow)[i]? = some row ∧ row[j]? = some
        ((if c.im = 1 then (wrap (max (-2 ^ 31) (min (2 ^ 31 - 1) total)) 32 : Lane) else wrap total 32).toNat, 0)) ∧
    (∀ (win : Nat) (ps : List (Bool × Nat × Int)) (E : Int),
      let val (p : Bool × Nat × Int) : Rat := p.2.1 * 2 ^ p.2.2
      (∀ p ∈ ps, val p < 2 ^ (E + 1)) → (∃ p ∈ ps, 2 ^ E ≤ val p) →
      let unit : Rat := 2 ^ (E - win)
      let cut (p : Bool × Nat × Int) : Rat := (if p.1 then -1 else 1) * (val p / unit).floor * unit
      ∃ x : ExactNum, x.exact = true ∧ x.val = some (ps.map cut).sum ∧ (windowSum win ps).1 = (fp32.round 0 false x).1) ∧
    (∀ (acc : Nat) (ka kb p : ExactNum) (a x y z : Rat), (fp32.decode acc).val = some a → ka.val = some x → kb.val = some y → p.val = some z →
      ka.exact = true → kb.exact = true → p.exact = true →
      ∃ r : ExactNum, r.exact = true ∧ r.val = some (a + x * y * z) ∧ saccWord acc ka kb p = fp32.round 0 false r))

/-- R291, R146, R148, R150, R56, R57: a running GCLR clears its range; a running copy of one row within LS writes the
bytes its source held before; a claimed tile becomes CLAIMED by its port, and a waiting delivery fills an EMPTY tile;
a finished copy arrives on its barrier object. Nothing else changes. -/
def Obligations.JobEffects : Prop :=  ∀ (s : State) (a b : List Card) (c : Card),
    let k := s.cur
    (OnThresher s a c b → c.kind = 6 → c.phase = .running → k.gr.wf = true → c.flags = 0 → c.ui = 0 → c.outside = none → c.tags = [] →
      (∀ e ∈ a ++ b, e.phase ≠ .finished) →
      ∃ t, exec (.jobRetire .port) s = .next t ∧ t = s.setCur { k with
          gr := t.cur.gr, jobs := { k.jobs with thq := a ++ b, seqtl := k.jobs.seqtl + 1 } } ∧
        ∀ o, t.cur.gr.get o = if gclrOff c.operand ≤ o ∧ o < gclrOff c.operand + gclrLen c.operand then 0 else k.gr.get o) ∧
    (∀ x y n : Nat, OnCopy s c b → c.kind = 8 → c.phase = .running → c.flags = 0 → c.ui = 0 → c.target = none → c.hold = 0 →
      c.field 0x80 = lsAddr x → c.field 0x81 = lsAddr y → c.nat 0x82 = n → 0 < n → c.nat 0x83 = 1 → c.nat 0x84 = 1 →
      c.nat 0x89 = 0 → c.field 0x8B = 0 → c.overrun = false → x + n ≤ 0x200000 → y + n ≤ 0x200000 → k.ls.wf = true → s.myDie.egress = [] →
      c.outside = none → c.tags = [] → s.dev.poison = [] →
      ∃ t, exec (.jobRetire .copy) s = .next t ∧ t = s.setCur { k with
          ls := t.cur.ls, jobs := { k.jobs with cpq := b, seqcp := k.jobs.seqcp + 1 } } ∧
        (∀ i < n, t.cur.ls.get (y + i) = k.ls.get (x + i)) ∧ ∀ o, (o < y ∨ y + n ≤ o) → t.cur.ls.get o = k.ls.get o) ∧
    (∀ t : Nat, OnThresher s a c b → c.kind = 5 → c.phase = .running → c.dctl 6 = true → c.nat 0xA2 = t → t < 16 → c.claims = [] →
      (s.tile t).st = .empty →
      exec (.tilePortClaim .drain) s = .next (s.setCur { k.withThq (a ++ { c with claims := [0], started := true } :: b) with
        tiles := k.tiles.setIfInBounds t { s.tile t with st := .claimed 1 } })) ∧
    (∀ (n : Nat) (f : TileFill), k.resident = true → k.jobs.fills[n]? = some f → f.tile < 16 → (s.tile f.tile).data.wf = true →
      ((s.tile f.tile).st = .empty → (f.bytes.map (·.1)).Nodup →
        ∃ x : Tile, exec (.tilePortClaim (.remote n)) s = .next (s.setCur { k with
            tiles := k.tiles.setIfInBounds f.tile x, jobs := { k.jobs with fills := k.jobs.fills.eraseIdx n } }) ∧
          x.st = .full ∧ (∀ p ∈ f.bytes, x.data.get p.1 = p.2) ∧
          ∀ o, (∀ p ∈ f.bytes, p.1 ≠ o) → x.data.get o = (s.tile f.tile).data.get o) ∧
      ((s.tile f.tile).st ≠ .empty → exec (.tilePortClaim (.remote n)) s = .next s)) ∧
    (∀ (h : Hit) (off : Nat), OnCopy s c b → c.phase = .finished → c.tags = [] → c.arrived = false → c.field 0x8B ≠ 0 → s.myDie.lines = [] →
      s.locate (c.field 0x8B) 0 16 = .hit h → h.loc = .own 1 off → k.gr.wf = true → k.acc.barwait = none → (∀ o ∈ s.others, o.acc.barwait = none) →
      let old := s.barAt h.loc
      let n : BitVec 32 := if old.byt = 1 then BitVec.ofNat 32 (c.nat 0x82 * c.nat 0x83 * c.nat 0x84) else 1
      let r := old.arrive n (k.id.lastId true)
      ∃ t, exec (.copyBarrierArrival 0) s = .next t ∧
        t = s.setCur { k with gr := t.cur.gr, jobs := { k.jobs with cpq := { c with arrived := true, overrun := r.2.1 == 2 } :: b } } ∧
        t.barAt h.loc = r.1 ∧
        ∀ o, (o < off ∨ off + 16 ≤ o) → t.cur.gr.get o = k.gr.get o)

/-- R295, R296, R297, R211 (Tables 9-1, 11-10, 11-11): PUBLISH checks its descriptor as Table 9-1 orders, its space and
its lengths; with every check passed it writes DIGEST, SHAKE-256 of code and attributes, into the descriptor, makes a
code object of the code on pages of its own, and returns the object's address. -/
def Obligations.Publish : Prop :=  ∀ (s : State) (d a : Reg) (rs ws cs : List Piece) (p : Piece) (off : Nat), s.who = .c → s.cur.spec = none →
    let ea := s.rd a
    (s.privileged ea = true → Faults s (.publish a d) 0x02 0 ea) ∧
    (s.privileged ea = false → s.systemOnly ea 64 = none → ea.toNat % 8 ≠ 0 → Faults s (.publish a d) 0x03 0 ea) ∧
    (∀ c f, s.check .load 8 false ea 64 = .fault c f → FaultsAt s (.publish a d) c 0 f) ∧
    (s.check .load 8 false ea 64 = .ok rs → s.check .store 1 false (ea + 0x20) 32 = .ok ws → 2 ≤ ea.toNat / 2 ^ 56 →
      Faults s (.publish a d) 0x05 0 ea) ∧
    (ea.toNat / 2 ^ 56 = 1 → s.check .load 8 false ea 64 = .ok rs →
      s.check .store 1 false (ea + 0x20) 32 = .ok [p] → p.start = 0 → p.len = 32 → p.hit.loc = .own 0 off → p.hit.cls = none → p.hit.irr = false →
      s.cur.cards = [] → s.cur.qstreams = [] → s.storesInFlight = [] → s.poisonIn rs = [] →
      let bs := s.loadBytes rs
      let code : Word := BitVec.ofNat 64 (recNat bs 0 8)
      let len := recNat bs 8 4
      let alen := recNat bs 12 4
      let entries := [recNat bs 16 4, recNat bs 20 4, recNat bs 24 4]
      let flags := recNat bs 28 4
      let bad : Prop := code.toNat % 4 ≠ 0 ∨ len % 4 ≠ 0 ∨ len < 4 ∨ 1048576 < len ∨ 2 ≤ flags ∨ (flags = 1 ∧ s.cur.id.sys = false)
      (bad → Faults s (.publish a d) 0x0F 1 0) ∧
      (¬bad → (alen % 8 ≠ 0 ∨ 65536 < alen) → Faults s (.publish a d) 0x0F 7 0) ∧
      (¬bad → alen % 8 = 0 → alen ≤ 65536 → code.toNat / 2 ^ 56 ≤ 1 → s.check .load 1 false code (len + alen) = .ok cs →
        (∀ q ∈ cs, q.hit.remote = false) → s.poisonIn cs = [] → s.cur.id.sys = true →
        let image := s.loadBytes cs
        let f := walkCode len 0 (image.take len)
        let digest := shake256 image
        (∀ r x, code.toNat / 2 ^ 56 = 1 → publishFault false f entries len (image.drop len) = some (r, x) →
          Faults s (.publish a d) 0x0F (BitVec.ofNat 16 r) 0) ∧
        (publishFault false f entries len (image.drop len) = none → image.length = len + alen → digest.length = 32 → s.cur.ls.wf = true → s.dev.mem.wf = true →
          ∃ t o m, exec (.publish a d) s = .next t ∧ s.me.Wrote t.me d o.base 4 ∧
            t.dev.objects = s.dev.objects ++ [o] ∧ t.dev.maps = s.dev.maps ++ [m] ∧
            o.asid = s.cur.id.asid.toNat ∧ o.len = len ∧ (o.sys = true ↔ flags = 1) ∧ o.attr = image.drop len ∧ o.rin = s.dev.rin ∧
            o.digest = BitVec.ofNat 256 (leNat digest) ∧ o.base ≠ 0 ∧ o.base.toNat % 65536 = 0 ∧
            m.asid = o.asid ∧ m.base = o.base ∧ m.units = (len + 65535) / 65536 ∧
            (∀ (i : Nat) (x : Byte), (image.take len)[i]? = some x → t.dev.mem.get (m.key + i) = x) ∧
            (∀ (i : Nat) (x : Byte), digest[i]? = some x → t.cur.ls.get (off + i) = x) ∧
            (∀ i, (i < off ∨ off + 32 ≤ i) → t.cur.ls.get i = s.cur.ls.get i) ∧
            t.cur = { (s.cur.setStream .c t.me) with ls := t.cur.ls } ∧ t.others = s.others)))

/-! ### Ends, records, images -/
/-- R22, R25, R31, R382: a strand ends once its streams have ended and nothing of it is outstanding: what its queues and
tiles hold is discarded; the last strand of a sheaf ends the sheaf, frees its cores, counts it at its task and puts
the completion into the FIFO of the tent's dispatcher, and waits while that is full. R339, R306: END written to
cfg.sresume for a frozen strand ends its task: none of the task's strands, sheaves, images and units is left, and its
instance fails at its node with code 10; a tag that names no frozen strand changes nothing. -/
def Obligations.Ends : Prop :=
  (∀ (s : State) (h : Sheaf) (t : Task),
      (¬s.cur.Finished → Waits s .strandEnd) ∧
      (s.cur.Finished → s.dev.sheaf s.cur.id.die.toNat s.cur.id.stag.toNat = some h →
        let srv := s.dev.server s.cur.id.tid.toNat
        let fifo (d : Device) : List Nat := ((d.die srv.1).slot srv.2).fifo
        (h.endedStrands + 1 ≠ h.cores.length →
          exec .strandEnd s = .next ((s.setCur { s.cur with
              ended := true, queues := Vector.replicate 13 { occ := 0, head := 0, tail := 0, slots := [] }, glean := []
              gleanOcc := 0, gleanHead := 0, tiles := s.cur.tiles.map fun t => { t with st := .empty } }).setDev
            { s.dev with sheaves := s.dev.sheaves.map fun x =>
                if x.die = h.die ∧ x.stag = h.stag then { h with endedStrands := h.endedStrands + 1 } else x })) ∧
        (h.endedStrands + 1 = h.cores.length → s.cur.spec = none → 1024 ≤ (fifo s.dev).length → Waits s .strandEnd) ∧
        (h.endedStrands + 1 = h.cores.length → s.cur.spec = none → (fifo s.dev).length < 1024 → srv.1 < 8 →
          s.dev.dispatchOpen h.die = false → s.dev.consumerOf h = none → s.dev.task h.task = some t → t.spec = none →
          t.tid = s.cur.id.tid.toNat →
          ∃ u, exec .strandEnd s = .next u ∧ u.dev.sheaf h.die h.stag.toNat = none ∧
            u.dev.task h.task = some { t with ended := t.ended + 1 } ∧ fifo u.dev = fifo s.dev ++ [t.num] ∧
            ∀ k ∈ u.cur :: u.others, ¬(k.resident = true ∧ k.id.die.toNat = h.die ∧ k.id.stag = h.stag)))) ∧
  (∀ (s : State) (stag : BitVec 16) (six : BitVec 3) (t o : Task) (i : Instance),
      ((∀ k ∈ s.cur :: s.others, ¬(k.resident = true ∧ k.frozen = true ∧ k.id.die = s.cur.id.die ∧ k.id.stag = stag ∧
          k.id.six = six)) → Waits s (.sresumeEnd stag six)) ∧
      (s.cur.resident = true → s.cur.frozen = true → s.cur.id.stag = stag → s.cur.id.six = six →
        s.dev.task s.cur.id.task = some t → s.dev.instance_ t.inst = some i → i.code = 0 → o ∈ s.dev.tasks → o.num ≠ t.num →
        o.inst = t.inst → o.spec = none →
        ∃ u j, exec (.sresumeEnd stag six) s = .next u ∧ u.dev.instance_ t.inst = some j ∧ j.code = 10 ∧
          j.node = BitVec.ofNat 16 t.node ∧ j.state = i.state ∧
          (∀ k ∈ u.cur :: u.others, ¬(k.resident = true ∧ k.id.task = t.num ∧ k.spec = none)) ∧
          (∀ h ∈ u.dev.sheaves, h.task ≠ t.num) ∧ (∀ k ∈ u.dev.images, k.id.task ≠ t.num) ∧
          (∀ x ∈ u.dev.tasks, x.num ≠ t.num) ∧
          ∀ n < 8, ∀ d ∈ (u.dev.die n).ready ++ (u.dev.die n).slot0.held ++ (u.dev.die n).slot1.held, d.task ≠ t.num))

/-- R74, R336, Table 15-10: a stream that has stalled for 2^HANGTO cycles freezes its strand with its jobs held and cause
0x09; the hang record is written to the core's 4 KiB block of cfg.hangbuf where that can be written; that the trap is
taken where it cannot is the model's choice (assumption log 22), as is that the record of a stream at the target of a
REP gives the REP's address (log 96). R338: the next fault record waits while cfg.traprcb is 0 or the ring has no room
or an open reservation; else its header of TYPE 0xFFF0 and its 64 bytes enter the trap ring, whose TAIL and RESV go
past them, and the record has left. Nothing is published while no store may be performed, and a rollback that waits
for the record of its poison ends with the try (R415, R424, R428; the model's event for it: assumption log 36). -/
def Obligations.FaultRecords : Prop :=
  (∀ (s : State) (t : StreamId), s.cur.resident = true → s.cur.frozen = false → s.cur.spec = none →
      s.dev.man.armed = false → s.dev.man.latching = false →
      let g := Agent.system s.cur.id.die.toNat
      let at_ := s.myDie.win.hangbuf + BitVec.ofNat 64 (4096 * (s.cur.id.coreNum.toNat % 64))
      let bs := s.hangRecord
      let frozen (u : State) : Prop := ∃ r : FaultRec,
        u.cur = { s.cur with frozen := true, hung := true, faults := s.cur.faults ++ [r] } ∧ u.others = s.others ∧
        r.cause = 0x09 ∧ r.src.toNat = t.num ∧ r.defer = false ∧ r.iaddr = (s.cur.stream t).iaddr ∧ r.faddr = 0 ∧ r.aux = at_
      ((∀ u, ¬s.Hung u) → Waits s .hangCapture) ∧
      (s.Hung t → (∀ u, s.Hung u → u = t) →
        (∀ c a, (s.enter g).check .store 1 false at_ bs.length = .fault c a → c ≠ 0x10 →
          ∃ u, exec .hangCapture s = .next u ∧ frozen u ∧ u.dev = s.dev) ∧
        (∀ key, s.FwRoom g at_ bs.length key → s.dev.mem.wf = true →
          ∃ u, exec .hangCapture s = .next u ∧ frozen u ∧ u.dev.mem.Holds key bs s.dev.mem))) ∧
  (∀ (s : State) (r : FaultRec) (rest : List FaultRec) (k key : Nat),
      let h := s.myDie.win.traprcb
      let g := s.enter (Agent.system s.cur.id.die.toNat)
      let b := g.rcbAt (.phys k)
      let skip := if b.cap < b.resv % b.cap + 72 then b.cap - b.resv % b.cap else 0
      (s.dev.publishing = false → Waits s .faultRecordPublish) ∧
      (h = 0 → s.myDie.rph ≠ 6 → Waits s .faultRecordPublish) ∧
      (h = 0 → s.dev.publishing = true → s.myDie.trapWait = r :: rest → s.myDie.rph = 6 →
        exec .faultRecordPublish s = .next (s.setMyDie { s.myDie with rph := 0 })) ∧
      (s.myDie.trapWait = [] → s.cur.frozen = false → Waits s .faultRecordPublish) ∧
      (s.dev.publishing = true → s.myDie.trapWait = r :: rest → h ≠ 0 → g.ringAt h = some (.phys k) → b.bad = false →
        (72 ≤ b.cap → b.cap < b.resv - b.head + skip + 72 → s.myDie.rph ≠ 6 → Waits s .faultRecordPublish) ∧
        (b.resv ≠ b.tail → s.myDie.rph ≠ 6 → Waits s .faultRecordPublish) ∧
        (skip = 0 → b.resv - b.head + 72 ≤ b.cap → b.resv = b.tail →
          s.FwRoom (Agent.system s.cur.id.die.toNat) (b.buf + BitVec.ofNat 64 (b.resv % b.cap)) 72 key →
          s.dev.mem.wf = true → (∀ t ∈ s.dev.tents, t.rings = []) →
          ∃ u m, exec .faultRecordPublish s = .next u ∧ u.cur = s.cur ∧ u.others = s.others ∧ u.myDie.trapWait = rest ∧
            u.myDie.rph = (if s.myDie.rph = 6 then 0 else s.myDie.rph) ∧ Memory.Holds m key (natLe 8 (64 + 0xFFF0 * 2 ^ 32) ++ r.bytes) s.dev.mem ∧
            u.dev.mem.Holds k { b with resv := b.resv + 72, tail := b.resv + 72 }.bytes m)))

/-- R42, R390, R344, R345: a unit of one strand at step 5 of Table 15-13 is pre-empted for held work of a strictly higher
level, a system operation of level 10 or 11 among it, that needs its cluster and finds no other unit to yield first,
or for the suspension of its tent (which the move names as level 12, the model's choice: assumption log 67), and for
nothing else while it is not frozen. Its core is then free, the saved strand is the running one (that a stalled stream
keeps its kind and count is the model's choice: assumption log 83; that the image stands as the record its bytes are
of: log 65), the sheaf is marked saved, and its unit is ready again at the level of its task. R348, R349: a save
through cfg.ctxop of the current core writes the strand's image at ADDR, frees the core, keeps the strand among the
scheduler's images, parks the strands of its unit that stay on cores, and sets ST to 10; where a byte of the image may
not be written ST becomes 11 and nothing else changes. On a core without a strand nothing happens (these two are the
model's choices: assumption log 95; what the scheduler keeps: log 65). R348, R349: a restore on the current core,
which holds no strand, checks the whole image first: one that cannot be read or is malformed sets ST to 11 and changes
nothing else of the core, and a malformed one leaves a record with SRC 6 to publish; else the strand of the image
stands on the core and ST is 10, with what an image does not hold from the scheduler's own record of it, and where its
sheaf stands on one cluster (the model's choices: assumption log 65 and 68). A core that holds a strand ignores it,
and the failure of a read leaves no record (log 95). -/
def Obligations.Contexts : Prop :=
  (∀ (s : State) (lvl : Nat) (t : Task) (h : Sheaf), s.cur.resident = true → s.cur.spec = none →
      s.dev.task s.cur.id.task = some t → s.dev.sheaf s.cur.id.die.toNat s.cur.id.stag.toNat = some h →
      s.dev.unitOf t h = [h] → s.strandsOf h = [s.cur] → s.savable s.cur = true → h.saved = false →
      h.stopping = false → s.cur.frozen = false → s.cur.acc.barwait = none → s.dev.sealw = [] → (∀ k ∈ s.others, k.id.coreNum ≠ s.cur.id.coreNum) →
      (lvl ≤ t.pri → lvl ≠ 12 → Waits s (.preemption lvl)) ∧
      (lvl ≠ 12 → (∀ n < 8, ∀ u ∈ (s.dev.die n).slot0.held ++ (s.dev.die n).slot1.held, u.level ≠ lvl) →
        Waits s (.preemption lvl)) ∧
      (lvl = 12 ∨ (t.pri < lvl ∧ s.needs lvl [h] = true ∧ s.firstToYield lvl t [h] = true) → ∃ u v, exec (.preemption lvl) s = .next u ∧ u.cur = s.cur.vacate ∧ u.cur.resident = false ∧
        u.others = s.others ∧ u.dev.images = s.dev.images ++ [s.cur.stopped] ∧ u.dev.mem = s.dev.mem ∧
        s.cur.stopped.v = s.cur.v ∧ s.cur.stopped.p = s.cur.p ∧ s.cur.stopped.queues = s.cur.queues ∧
        s.cur.stopped.acc.stall = s.cur.acc.stall ∧ s.cur.stopped.acc.stallCycles = s.cur.acc.stallCycles ∧
        s.cur.stopped.acc.regs = s.cur.acc.regs ∧ s.cur.stopped.acc.pc = s.cur.acc.pc ∧ s.cur.stopped.ls = s.cur.ls ∧
        s.cur.stopped.gr = s.cur.gr ∧
        u.dev.sheaves = s.dev.sheaves.map (fun x => if x.die = h.die ∧ x.stag = h.stag then { x with saved := true, stopping := false } else x) ∧
        (u.dev.die h.die).ready = (s.dev.die h.die).ready ++ [v] ∧ v.task = t.num ∧ v.level = t.pri ∧ v.saved = true ∧
        v.sheaves = [(h.x, h.y, h.z, h.stage)])) ∧
  (∀ (s : State) (w : Word) (ps : List Piece),
      let core := s.cur.id.coreNum.toNat
      let g := s.enter (Agent.system (core / 64))
      let at_ := w &&& 0x00FFFFFFFFFFFFC0
      ((∀ k ∈ s.cur :: s.others, k.resident = true → k.id.coreNum.toNat ≠ core) → Waits s (.contextSave core w)) ∧
      (s.cur.resident = true → s.cur.spec = none → (s.savedWith s.cur).all s.savable = true → s.cur.acc.barwait = none → s.dev.sealw = [] →
        (∀ c a, g.check .store 1 false at_ imageSize = .fault c a → c ≠ 0x10 →
          exec (.contextSave core w) s = .next (s.setCur { s.cur with ctxSt := 3 })) ∧
        (g.check .store 1 false at_ imageSize = .ok ps → (∀ p ∈ ps, ∃ key, p.Dram key) → g.logStall ps = false →
          (∀ k ∈ s.others, k.id.coreNum ≠ s.cur.id.coreNum) → s.dev.mem.wf = true →
          ps.Pairwise (fun p q => ∀ a b, p.Dram a → q.Dram b → a + p.len ≤ b ∨ b + q.len ≤ a) →
          let unit := match s.unitOfStrand s.cur with
            | some (_, hs) => hs
            | none => []
          ∃ u, exec (.contextSave core w) s = .next u ∧ u.cur = { s.cur.vacate with ctxSt := 2 } ∧
            u.others = s.others.map (fun k => if k.resident = true ∧ (unit.any fun h => k.id.die.toNat == h.die && k.id.stag == h.stag) = true
              then { k with parked := true } else k) ∧
            (∀ h ∈ unit, ∀ x ∈ u.dev.sheaves, x.die = h.die → x.stag = h.stag → x.saved = true) ∧
            u.dev.images = s.dev.images ++ [{ s.cur.stopped with imageAt := ps.map fun p => (p.start, p.hit.key, p.len) }] ∧
            ∀ p ∈ ps, ∀ key, p.Dram key → ∀ j < p.len, u.dev.mem.get (key + j) = (s.imageOf s.cur.stopped).get (p.start + j)))) ∧
  (∀ (s v : State) (w : Word) (bs : List Byte),
      let core := s.cur.id.coreNum.toNat
      let g := Agent.system (core / 64)
      let at_ := w &&& 0x00FFFFFFFFFFFFC0
      let m := listed 0 bs
      (s.cur.resident = true → Waits s (.contextRestore core w)) ∧
      ((∀ k ∈ s.cur :: s.others, k.id.coreNum = s.cur.id.coreNum → k.resident = false) → s.dev.isHost core = false →
        (∀ c a, (s.enter g).check .load 1 false at_ imageSize = .fault c a → c ≠ 0x10 →
          exec (.contextRestore core w) s = .next (s.setCur { s.cur with ctxSt := 3 })) ∧
        (∀ c aux, bs.length = imageSize → s.FwRead g at_ bs v → imageFault m = some (c, aux) →
          ∃ u r, exec (.contextRestore core w) s = .next u ∧ u.cur = { s.cur with ctxSt := 3 } ∧ u.others = s.others ∧
            u.myDie.trapWait = s.myDie.trapWait ++ [r] ∧ r.cause = c ∧ r.src = 6 ∧ r.aux = BitVec.ofNat 64 aux) ∧
        (bs.length = imageSize → s.FwRead g at_ bs v → imageFault m = none →
          let i := v.restoreId core m
          let at0 : State := { v with cur := { Strand.blank with id := i } }
          let k := at0.strandOf m (v.dev.recordOf i)
          v.misplaced i = false → k.id.coreNum = s.cur.id.coreNum →
          ∃ u, exec (.contextRestore core w) s = .next u ∧ u.others = s.others ∧
            u.cur = { k with ctxSt := 2, snapshot := s.cur.snapshot, table := s.cur.table })))

/-- R351, R434: a write of cfg.xtctl while no load is under way takes a table that is signed, for this part and not older
than the one in force (ST 10, with its generation); any other, and one that cannot be read, is refused with ST 11 and
the table in force stays. A core goes over to the table in force with no other change. That GEN is compared whole and
that an unreadable table is refused are the model's choices (assumption log 96). R5, R440 (Tables 15-2, 16-3, 17-2,
18-4, 19-1, 20-4, 20-6): the registers of a window as one that may write them leaves them: each writable field takes
its bits of the word, HANGTO, FTIMEOUT and SBTO only values of their range, LATE, FRZ and SRC clear the bits written
as 1, DGEN ignores 0; a 1 in FLUSH, SREQ, RBREQ, GO or SWTRIG then acts as its event does; writes of read-only
registers change nothing. TRAPRCB makes its ring's block a persistent region of the die (R411). A master reaches the
windows by its route (R440): firmware its own die's, the other masters all eight. -/
def Obligations.ExpansionTablesAndWindows : Prop :=
  (∀ (s u v : State) (die : Nat) (w : Word) (hb pb : List Byte), die < 8 →
      let g := Agent.system die
      let at_ := w &&& 0x00FFFFFFFFFFFFC0
      let old := (s.dev.die die).win
      ((s.dev.die die).win.xtSt = 1 → Waits s (.expansionTableLoad die w)) ∧
      (old.xtSt ≠ 1 →
        (∀ c a, (s.enter g).check .load 1 false at_ 256 = .fault c a → c ≠ 0x10 →
          exec (.expansionTableLoad die w) s = .next (s.setWin die fun x => { x with xtSt := 3 })) ∧
        (hb.length = 256 → s.FwRead g at_ hb u → pb.length = recNat hb 0x10 8 → u.FwRead g (at_ + 256) pb v →
          let gen := recNat hb 8 4
          (imageValid 2 hb pb = true → old.xtGen.toNat ≤ gen →
            exec (.expansionTableLoad die w) s = .next (v.setWin die fun x => { x with
              xtSt := 2, xtGen := BitVec.ofNat 32 gen, xtDigest := BitVec.ofNat 512 (recNat hb 0x20 64) })) ∧
          ((imageValid 2 hb pb = false ∨ gen < old.xtGen.toNat) →
            exec (.expansionTableLoad die w) s = .next (v.setWin die fun x => { x with xtSt := 3 })))) ∧
      exec (.expansionTableSwitch s.cur.id.coreNum.toNat) s =
        .next (s.setCur { s.cur with table := (s.dev.die s.cur.id.die.toNat).win.xtGen })) ∧
  (∀ (s : State) (m : Master) (n : Nat) (w : Word), n < 8 → s.MayWrite m →
      let wr (off : BitVec 16) (t : State) : Prop := exec (.registerWrite m n off w) s = .next t
      let win (f : Window → Window) : State := s.setDev (s.dev.onDie n fun x => { x with win := f x.win })
      let low : BitVec 5 := w.extractLsb' 0 5
      let sbto : BitVec 5 := w.extractLsb' 2 5
      wr 0x0808 (if 16 ≤ low.toNat then win fun x => { x with hangto := low } else s) ∧
      (let t : State := win fun x => { x with traprcb := w }
       let kept := t.dev.persistPages.filter fun r => r.2.2 != 256 + n
       let place := ((t.enter (Agent.system n)).ringAt w).bind Loc.physKey?
       let put (p : List (Nat × Nat × Nat)) : State := t.setDev { t.dev with persistPages := p }
       (place = none → wr 0x0810 (put kept)) ∧
       ∀ key, place = some key →
         ((∃ r ∈ kept, r.1 ≤ key ∧ key + 64 ≤ r.1 + r.2.1) → wr 0x0810 (put kept)) ∧
         ((∀ r ∈ kept, ¬(r.1 ≤ key ∧ key + 64 ≤ r.1 + r.2.1)) → wr 0x0810 (put (kept ++ [(key, 64, 256 + n)])))) ∧
      wr 0x0818 (win fun x => { x with hangbuf := w &&& ~~~0xFFF }) ∧
      wr 0x0838 (win fun x => { x with migthr := w.extractLsb' 0 16 }) ∧
      wr 0x1000 (win fun x => { x with astbase := w &&& 0x000FFFFFFFFFE000 }) ∧
      wr 0x1008 (win fun x => { x with xsva := w &&& 0x00FFFFFFFFFF0000 }) ∧
      wr 0x1020 (if 16 ≤ low.toNat then win fun x => { x with ftimeout := low } else s) ∧
      wr 0x1028 (win fun x => { x with late := x.late &&& ~~~w.extractLsb' 0 32 }) ∧
      wr 0x1118 (if w.extractLsb' 0 32 = 0 then s else win fun x => { x with dgen := w.extractLsb' 0 32 }) ∧
      wr 0x0000 (s.setDev { s.dev with man := { s.dev.man with frz := s.dev.man.frz &&& ~~~w.extractLsb' 2 3 } }) ∧
      (let pred : State := win fun x => { x with predEn := w.getLsbD 0 }
       (w.getLsbD 1 = false → wr 0x1120 pred) ∧
       (w.getLsbD 1 = true → exec (.registerWrite m n 0x1120 w) s = exec (.predctlFlush .firmware n) pred)) ∧
      (let ri : State := if 16 ≤ sbto.toNat ∧ sbto.toNat ≤ 23 then win fun x => { x with sbto := sbto } else s
       ∀ u, (w.getLsbD 0 = false → u = ri) → (w.getLsbD 0 = true → exec (.sreq .firmware n) ri = .next u) →
        (w.getLsbD 1 = false → wr 0x1208 u) ∧
        (w.getLsbD 1 = true → exec (.registerWrite m n 0x1208 w) s = exec (.rbreq .firmware n) u)) ∧
      (let lant : State := s.setDev { s.dev with man := { s.dev.man with
         armed := w.getLsbD 0, en := w.extractLsb' 1 4, src := s.dev.man.src &&& ~~~w.extractLsb' 6 4, latching := false } }
       (w.getLsbD 5 = false → wr 0x1300 lant) ∧
       (w.getLsbD 5 = true → exec (.registerWrite m n 0x1300 w) s = exec (.swtrig .firmware) lant)) ∧
      exec (.registerWrite m n 0x1230 w) s = exec (.errinj m n w) s ∧
      (n = 0 → exec (.registerWrite m n 0x0028 w) s = exec (.attctl m w) s) ∧
      (∀ off, off < 65536 → windowRoute m n (windowAddress m n off) = some (n, off)) ∧
      exec (.registerWrite m n 0x1010 w) s = exec (.xshoot m n w) s ∧
      (∀ off ∈ ([0x0010, 0x0018, 0x0020, 0x1018, 0x1100, 0x1108, 0x1110, 0x1128, 0x1130, 0x1138, 0x1200, 0x1210, 0x1218, 0x1220,
        0x1228, 0x1400, 0x8000] : List (BitVec 16)), wr off s))

/-! ### Windows and management -/
/-- R440, R441: a write of a die control window by a master that neither is the owner nor scheduler firmware is not
performed and freezes the master; a frozen master's writes are discarded and its reads are all ones. A claim takes
effect only while nobody owns the windows; it raises vector 3, and so does a release that changes OWNER (R443); a
release clears the successor's FRZ bit. The command of a word written to OWNCTL is that claim, release or package
reset. The doorbell at 0x1500 to 0x151F is each master's own (R305): who owns the windows does not matter there. R442,
Table 20-6: an enabled source fires the armed lantern: every core's snapshot is latched, ARMED falls, the source is
recorded in SRC and vector 1 raised; an enabled source that fires before the cycle of the latch is over is recorded in
SRC (where that cycle ends is the model's choice: assumption log 7); a source that is not enabled, or while ARMED is
0, does nothing. SWTRIG is source 0, the external pin source 3. R441: THAW clears the FRZ bits written as 1. -/
def Obligations.Ownership : Prop :=
  (∀ (s : State) (m : Master) (n : Nat) (off : BitVec 16) (w : Word) (bits : BitVec 3) (succ : BitVec 2), n < 8 →
      masterNum m ≠ 0 → (off.toNat < 0x1500 ∨ 0x1520 ≤ off.toNat) → off ≠ 0x0008 →
      let man := s.dev.man
      let each (q : Instr → Prop) : Prop := q (.registerWrite m n off w) ∧ q (.ownctlRelease m succ) ∧ q (.frzThaw m bits) ∧
        q (.packageReset m) ∧ q (.attctl m w) ∧ q (.swtrig m) ∧ q (.xshoot m n w) ∧ q (.predctlFlush m n) ∧ q (.errinj m n w) ∧
        q (.sreq m n) ∧ q (.rbreq m n)
      (man.frozen m = true → (each fun i => Waits s i) ∧ Waits s (.ownctlClaim m) ∧ s.windowRead m n off.toNat = -1) ∧
      (man.frozen m = false → man.owner ≠ masterNum m → each fun i =>
        exec i s = .next (s.setDev { s.dev with man := { man with frz := man.frz ||| 1#3 <<< ((masterNum m).toNat - 1) } })) ∧
      (man.frozen m = false → man.owner ≠ 0 → Waits s (.ownctlClaim m)) ∧
      (man.frozen m = false → man.owner = 0 → exec (.ownctlClaim m) s =
        .next (s.setDev { s.dev with man := { man with owner := masterNum m, msix := man.msix ++ [3] } })) ∧
      (s.MayWrite m → exec (.ownctlRelease m succ) s = .next (s.setDev { s.dev with man := { man with
        owner := succ, frz := man.frz &&& ~~~frzBit succ, msix := man.msix ++ if man.owner = succ then [] else [3] } })) ∧
      (let own : Res := exec (.registerWrite m n 0x0008 w) s
       (w.extractLsb' 0 2 = 1 → own = exec (.ownctlClaim m) s) ∧
       (w.extractLsb' 0 2 = 2 → own = exec (.ownctlRelease m (w.extractLsb' 2 2)) s) ∧
       (w.extractLsb' 0 2 = 3 → own = exec (.packageReset m) s) ∧
       (w.extractLsb' 0 2 = 0 → (man.frozen m = true ∨ man.owner = masterNum m) → own = .next s)) ∧
      (∀ b : Nat, bellOf m = some b →
        let bell (f : Doorbell → Doorbell) : State := s.setDev (s.dev.onDie n fun x => { x with
          bells := x.bells.setIfInBounds b (f (vget x.bells b Doorbell.blank)) })
        (man.frozen m = true → ∀ o : BitVec 16, 0x1500 ≤ o.toNat → o.toNat < 0x1520 → Waits s (.registerWrite m n o w)) ∧
        (man.frozen m = false →
          exec (.registerWrite m n 0x1500 w) s = .next (bell fun x => { x with desc := w }) ∧
          exec (.registerWrite m n 0x1508 w) s = .next (bell fun x => { x with args := w }) ∧
          exec (.registerWrite m n 0x1510 w) s = exec (.hlctlGo m n w) s ∧ Waits s (.registerWrite m n 0x1518 w)))) ∧
  (∀ (s : State) (m : Master) (bits : BitVec 3), s.MayWrite m →
      let man := s.dev.man
      let fires (i : Instr) (b : Nat) : Prop :=
        (((man.latching = false ∧ man.armed = false) ∨ man.en.getLsbD b = false) → Waits s i) ∧
        (man.latching = true → man.en.getLsbD b = true →
          exec i s = .next (s.setDev { s.dev with man := { man with src := man.src ||| 1#4 <<< b } })) ∧
        (man.latching = false → man.armed = true → man.en.getLsbD b = true →
          exec i s = .next { s with
            cur := { s.cur with snapshot := s.cur.shot }, others := s.others.map fun k => { k with snapshot := k.shot }
            dev := { s.dev with man := { man with armed := false, latching := true, src := man.src ||| 1#4 <<< b, msix := man.msix ++ [1] } } })
      fires (.swtrig m) 0 ∧ fires .externalPin 3 ∧
      exec (.frzThaw m bits) s = .next (s.setDev { s.dev with man := { man with frz := man.frz &&& ~~~bits } }))

/-- R441, R420, R436: a package reset, which the owner alone may ask for, reboots every die out of the state right after
reset: what lies outside the package stays (host memory, memory of other packages with the record of its lines), and
so do the vectors raised so far and the moves still to come; it does nothing when firmware asks. POWER_UP of a package
after reset takes every die's boot core through the steps until one fails: its STEP is the last one passed and REASON
the failed one's; a die that passes them has from the manifest the bases and sizes of its carve-outs and its
thresholds, and from the boot table the table in force; when all dies pass, the carve-outs are zeroed, RIN is 0 and
every tag 0xFF, the links of a rack ring have their keys, and dispatch opens. IDENT is the first 16 bytes of SHAKE256
of the device public key (R437). One in boot already stays so. R438: a write of ATTCTL while BUSY is 0 is a request,
which clears DONE: the signed report is written over its buffer and DONE set, where the buffer can be read and
written; where it cannot be read DONE stays 0, after an earlier request too, and while no store may be performed the
request is BUSY. The event ATTCTL is the register of die 0. The report's layout, the die whose table it holds and a
request's end in its own step are the model's choices (assumption log 14). -/
def Obligations.ResetAndBoot : Prop :=
  (∀ (s : State) (m : Master),
      (masterNum m = 0 → Waits s (.packageReset m)) ∧
      (masterNum m ≠ 0 → s.MayWrite m → ∃ b : State, exec (.packageReset m) s = exec .powerUp b ∧
        b = { State.reset with agenda := s.agenda, fresh := s.fresh, dev := b.dev } ∧
        b.dev = { State.reset.dev with mem := b.dev.mem, poison := b.dev.poison, restored := b.dev.restored, away := s.dev.away
                                       man := { State.reset.dev.man with msix := s.dev.man.msix ++ [3] } } ∧
        (∀ l, l ∈ b.dev.poison ↔ l ∈ s.dev.poison ∧ s.dev.owns (linePeer l) = false) ∧
        (s.dev.mem.wf = true → b.dev.mem.wf = true) ∧
        ∀ a, s.dev.mem.wf = true → b.dev.mem.get a = if s.dev.outside (a, 0) = true then s.dev.mem.get a else 0) ∧
      ((∃ n < 8, (s.dev.die n).win.bootStep ≠ 0) → Waits s .powerUp) ∧
      ((∀ n < 8, (s.dev.die n).win.bootStep = 0 ∧ (s.dev.die n).win.bootReason = 0) →
        let passes (n : Nat) : Prop := ∀ k, 1 ≤ k → k ≤ 7 → bootStepOk n k = true
        ∃ u, exec .powerUp s = .next u ∧ u.cur = s.cur ∧ u.others = s.others ∧
          u.dev.man.ident = BitVec.ofNat 128 (leNat ((shake256 devicePublicKey).take 16)) ∧
          (∀ n < 8, passes n →
            let w := (u.dev.die n).win
            w.bootStep = 7 ∧ w.bootReason = 0 ∧ w.silo = Config.manifestSiloMiB n ∧ w.biv = Config.manifestBivouacMiB n ∧
            w.ckSize = Config.manifestCheckpointMiB n ∧ w.jrnl = Config.manifestJournalA n &&& 0x000FFFFFFFFF0000 ∧
            w.jrnlb = Config.manifestJournalB n &&& 0x000FFFFFFFFF0000 ∧
            w.ckbase = Config.manifestCheckpoint n &&& 0x000FFFFFFFFF0000 ∧
            w.undoCap = Config.manifestUndoCap n % 2 ^ 32 ∧ w.warn = Config.thermWarn n ∧ w.crit = Config.thermCrit n ∧
            w.yieldMap = Config.yieldMap n ∧ w.xtGen = BitVec.ofNat 32 (imageGen (Config.bootImage 2)) ∧
            w.xtDigest = BitVec.ofNat 512 (leNat (imageDigest (Config.bootImage 2)))) ∧
          (∀ n < 8, ∀ k, 1 ≤ k → k ≤ 7 → (∀ j, 1 ≤ j → j < k → bootStepOk n j = true) → bootStepOk n k = false →
            (u.dev.die n).win.bootStep = BitVec.ofNat 3 (k - 1) ∧ (u.dev.die n).win.bootReason = bootReasonOf k ∧
              u.dev.man.isOpen = false) ∧
          ((∀ n < 8, passes n) → u.dev.man.isOpen = true ∧ u.dev.rin = 0 ∧
            (∀ l, u.dev.tag l = 0xFF) ∧ u.dev.pkg = Config.packageNumber ∧
            (s.dev.mem.wf = true → ∀ a, u.dev.mem.get a = if u.dev.carved (a / 64) = true then 0 else s.dev.mem.get a) ∧
            (1 < Config.domainPackages.length → u.dev.links = [Link.fresh 0 s.fresh, Link.fresh 1 s.fresh] ∧
              u.dev.routes = Config.domainPackages.map fun p => (p, Config.rackRoute p))))) ∧
  (∀ (s u : State) (m : Master) (n : Nat) (w : Word) (nonce : List Byte) (key : Nat), n < 8 → s.MayWrite m →
      s.dev.man.attBusy = false →
      let req : Instr := .registerWrite m n 0x0028 w
      let g := Agent.system n
      let at_ := w &&& 0x00FFFFFFFFFFFFC0
      let fields := u.reportFields n nonce
      let report := (fields ++ Config.ed448Sign Config.deviceSeed (shake256 fields)).take 512
      let man (busy done : Bool) (r : Option (Nat × Word)) : Manage :=
        { s.dev.man with attBusy := busy, attDone := done, attReq := r }
      let begun : State := s.setMan (man true false (some (n, w)))
      (n = 0 → exec (.attctl m w) s = exec req s) ∧
      (s.dev.storing = false → exec req s = .next begun) ∧
      (s.dev.storing = true →
        (∀ c a, (begun.enter g).check .load 1 false at_ 32 = .fault c a → c ≠ 0x10 →
          exec req s = .next (s.setMan (man false false none))) ∧
        (nonce.length = 32 → begun.FwRead g at_ nonce u → u.FwRoom g at_ report.length key → s.dev.mem.wf = true →
          ∃ v, exec req s = .next v ∧ v.dev.man = man false true none ∧ v.cur = s.cur ∧
            v.dev.mem.Holds key report s.dev.mem)))

/-- R444, R420: a temperature reading is stored in its die's window: above WARN the die throttles, below WARN throttling
ends (at WARN it stays as it was), and at CRIT or above the domain enters FAIL, which every die shows and vector 2
tells. PWR is a free value (the model's: assumption log 3). The three events are such readings. R443, R408: a write of
the host into the LPDDR of die 0 or 4, which the host ports expose, changes those bytes alone, with undo entries but
in a carve-out; it waits while the log is full and changes nothing outside that LPDDR. A snoop changes nothing. R409:
the scrubber lifts a tag that lags by 64 or more intervals to RIN - 1, and no other. R420: a patrol error and an
injected one poison their line; a write of ERRINJ whose PADDR lies outside the die's DRAM is ignored (R427). -/
def Obligations.HeatHostAndScrubbers : Prop :=
  (∀ (s : State) (n : Nat) (t : BitVec 8), n < 8 →
      let w := (s.dev.die n).win
      let hot := decide (w.warn.toNat < t.toNat) || (w.thr && decide (w.warn = t))
      ∀ i ∈ ([.thermalWarn n t, .thermalRecovery n t, .thermalCrit n t] : List Instr),
        ((t.toNat < w.crit.toNat ∨ s.dev.failed = true) → ∃ p : BitVec 16, exec i s =
          .next { s with fresh := s.fresh + 1
                         dev := s.dev.onDie n fun x => { x with win := { x.win with temp := t, thr := hot, pwr := p } } }) ∧
        (w.crit.toNat ≤ t.toNat → s.dev.failed = false → ∃ u, exec i s = .next u ∧ u.cur = s.cur ∧
          u.others = s.others ∧ u.dev.failed = true ∧ (∀ d < 8, (u.dev.die d).rph = 7) ∧ u.dev.mem = s.dev.mem ∧
          u.dev.man.msix = s.dev.man.msix ++ [2] ∧ (u.dev.die n).win.temp = t ∧ (u.dev.die n).win.thr = hot)) ∧
  (∀ (s : State) (m : Master) (n line : Nat) (pa w : Word) (bs : List Byte), n < 8 →
      let key := (s.dev.pkg.toNat * 8 + n) * 2 ^ 52 + pa.toNat
      let dram (a : Nat) : Prop := (n = 0 ∨ n = 4) ∧ 0x1000000000 ≤ a ∧ a + bs.length ≤ 0x4000000000
      let lag := (s.dev.rin.toNat - (s.dev.tag line).toNat : Int) % 256
      let mine := line / 2 ^ 46 = s.dev.pkg.toNat * 8 + n ∧
        (line * 64 % 2 ^ 52 < 0x800000000 ∨ (0x1000000000 ≤ line * 64 % 2 ^ 52 ∧ line * 64 % 2 ^ 52 < 0x4000000000))
      Waits s (.hostSnoop n pa) ∧
      (¬dram pa.toNat → Waits s (.hostWrite n pa bs)) ∧
      (dram pa.toNat → bs ≠ [] → s.dev.storing = true → s.dev.undoLacks (linesOf key bs.length) = true →
        Waits s (.hostWrite n pa bs)) ∧
      (dram pa.toNat → bs ≠ [] → s.dev.storing = true → s.dev.undoLacks (linesOf key bs.length) = false →
        s.dev.mem.wf = true →
        ∃ u, exec (.hostWrite n pa bs) s = .next u ∧ u.cur = s.cur ∧ u.others = s.others ∧
          u.dev.mem.Holds key bs s.dev.mem ∧ ∀ l ∈ linesOf key bs.length, s.dev.carved l = false → u.dev.tag l = s.dev.rin.setWidth 8) ∧
      (¬(mine ∧ 64 ≤ lag) → Waits s (.metadataScrub n line)) ∧
      (mine → 64 ≤ lag → ∃ u, exec (.metadataScrub n line) s = .next u ∧ u = s.setDev { s.dev with tags := u.dev.tags } ∧
        u.dev.tag line = s.dev.rin.setWidth 8 - 1 ∧ ∀ l, l ≠ line → u.dev.tag l = s.dev.tag l) ∧
      (¬mine → Waits s (.patrolScrub n line)) ∧
      (mine → ∃ u, exec (.patrolScrub n line) s = .next u ∧
        u = s.setDev { s.dev with poison := u.dev.poison, restored := u.dev.restored } ∧
        ∀ l, l ∈ u.dev.poison ↔ l = line ∨ l ∈ s.dev.poison) ∧
      (s.MayWrite m →
        let a := (w &&& 0x000FFFFFFFFFFFC0).toNat
        let inDram := a < 0x800000000 ∨ (0x1000000000 ≤ a ∧ a < 0x4000000000)
        (¬inDram → Waits s (.errinj m n w)) ∧ (inDram → ∃ u, exec (.errinj m n w) s = .next u ∧ (u.dev.die n).win.injPaddr = w &&& 0x000FFFFFFFFFFFC0 ∧
          u.dev.mem = s.dev.mem ∧
          ∀ l, l ∈ u.dev.poison ↔
            l ∈ s.dev.poison ∨ (w.getLsbD 0 = true ∧ l = ((s.dev.pkg.toNat * 8 + n) * 2 ^ 52 + a) / 64))))

/-! ### The fabric -/
/-- R366, R367, R371, R372: a request whose turn it is reaches its owner: a load is read there, an atomic performed in its
strand's name where that can be, a store younger than T/2 performed (an adding copy's words added, R142) and an older
one discarded though it is accepted; one older than 2T is discarded and counted in LATE of the destination's die in
this package, else of the source's (the model's reading: assumption log 56), which saturates. A request that waits
behind another, is backing off or was accepted is not sent. The values are those of a request of one part in DRAM.
R366: a request refused twice comes back, and its source sends nothing to that destination for 16·2^k cycles, at most
4,096, where k counts its refusals; when the wait is over it sends again. That the back-off is kept for each
destination and holds every request to it is the model's reading (assumption log 57). -/
def Obligations.RemoteRequests : Prop :=
  (∀ (s : State) (n tag : Nat) (r : Request) (p : ReqPart), n < 8 → (s.dev.die n).request tag = some r → r.parts = [p] →
      p.strand = none → (∀ y ∈ (s.dev.die n).strays, y.req.tag = tag → y.req.performed = true ∨ y.req.kind = 3) →
      let x := s.dev.die n
      let T := 2 ^ x.win.ftimeout.toNat
      let a := p.key % 2 ^ 52
      let dram := 0 < p.len ∧ (a + p.len ≤ 0x800000000 ∨ (0x1000000000 ≤ a ∧ a + p.len ≤ 0x4000000000))
      let becomes (q : Request) : Prop :=
        exec (.remoteRequest n tag) s = .next (s.setDev (s.dev.onDie n fun x => x.setRequest q))
      ((r.served = true ∨ s.dev.maySend n r = false ∨ s.dev.storing = false) → Waits s (.remoteRequest n tag)) ∧
      (r.served = false → r.kind ≠ 3 → s.dev.maySend n r = true → s.dev.storing = true →
        (2 * T < r.age → let o := if p.key / 2 ^ 52 / 8 = s.dev.pkg.toNat then p.key / 2 ^ 52 % 8 else n
          let d := s.dev.onDie n fun x => x.setRequest { r with served := true, dropped := true }
          exec (.remoteRequest n tag) s = .next (s.setDev (d.onDie o fun y => { y with win := { y.win with
            late := if y.win.late = -1 then -1 else y.win.late + 1 } }))) ∧
        (r.age ≤ 2 * T →
          (r.kind = 0 → dram → p.counted = false → p.line = false →
            ∃ bs ls, becomes { r with served := true, performed := true, bytes := bs, poison := ls } ∧
              (p.start + p.len ≤ r.bytes.length → bs.length = r.bytes.length ∧ ∀ k < r.bytes.length,
                bs.getD k 0 = if p.start ≤ k ∧ k < p.start + p.len then s.dev.mem.get (p.key + (k - p.start))
                  else r.bytes.getD k 0) ∧
              ∀ l, l ∈ ls ↔ l ∈ r.poison ∨ (l ∈ linesOf p.key p.len ∧ l ∈ s.dev.poison)) ∧
          (r.kind = 2 → (∀ k ∈ s.cur :: s.others, r.from_ n k = false) → becomes { r with served := true }) ∧
          (r.kind = 2 → s.cur.resident = true → s.cur.named n r.stag.toNat r.six.toNat = true →
            ∀ t q, s.performAtomic n s.cur r = some (t, q) → q.served = true ∧ q.performed = true ∧
              exec (.remoteRequest n tag) s = .next (t.setDev (t.dev.onDie n fun x => x.setRequest q))) ∧
          (r.kind = 1 → T ≤ 2 * r.age → becomes { r with served := true }) ∧
          (r.kind = 1 → 2 * r.age < T → dram → s.dev.undoLacks (linesOf p.key p.len) = true →
            Waits s (.remoteRequest n tag)) ∧
          (r.kind = 1 → 2 * r.age < T → dram → s.dev.undoLacks (linesOf p.key p.len) = false → p.counted = false →
            p.start + p.len ≤ r.bytes.length → s.dev.mem.wf = true →
            let put := (r.bytes.drop p.start).take p.len
            let added := copyResult r.mode ((upto p.len).map fun k => s.dev.mem.get (p.key + k)) put
            ∃ u, exec (.remoteRequest n tag) s = .next u ∧ u.cur = s.cur ∧ u.others = s.others ∧
              (r.mode = 0 → u.dev.mem.Holds p.key put s.dev.mem ∧
                (u.dev.die n).request tag = some { r with served := true, performed := true }) ∧
              (r.mode ≠ 0 → added.1.length = p.len → u.dev.mem.Holds p.key added.1 s.dev.mem ∧
                (u.dev.die n).request tag =
                  some { r with served := true, performed := true, value := added.2.setWidth 128 }))))) ∧
  (∀ (s : State) (n tag dst peer : Nat) (ps : List Nat) (r : Request), (s.dev.die n).request tag = some r →
      (r.waitsFor = [] → Waits s (.refusalNotice n tag)) ∧
      (r.waitsFor = peer :: ps → s.dev.maySendTo n r peer = false → Waits s (.refusalNotice n tag)) ∧
      (r.waitsFor = peer :: ps → s.dev.maySendTo n r peer = true → exec (.refusalNotice n tag) s = .next (s.setDev (s.dev.onDie n fun x =>
        { x.setRequest { r with refusals := r.refusals + 1 } with
          backoff := (peer, min 4096 (16 * 2 ^ r.refusals)) :: x.backoff }))) ∧
      exec (.backoffExpiry n dst) s = .next (s.setDev (s.dev.onDie n fun x =>
        { x with backoff := x.backoff.filter fun b => !(b.1 == dst) })) ∧
      ((∃ w, (dst, w) ∈ (s.dev.die n).backoff) → ∀ q : Request, s.dev.maySendTo n q dst = false))

/-- R366, R370, R372, R215: the reply of a performed store frees its tag and lowers st, that of a copy's store is kept for
its job; that of a load or an atomic is kept for its instruction, but for one that comes T cycles or more after its
request; a reply without a request of its tag is that of one which has timed out, and is dropped and counted. A
request without a reply for T cycles has its tag freed with the generation advanced, and faults with cause 0x11: a
store that was not performed at the access stream's next boundary, a load or an atomic precisely, a copy job with its
cards held (R294). R368: a line that leaves a die's remote line cache writes its dirty bytes alone to memory and is no
longer cached; a clean one writes nothing. A dirty one waits while its way is not clear (a back-off, an earlier
request to the same owner, a link that does not send: R366, R376), its undo entry has no room (R417) or no store may
be performed (R415). -/
def Obligations.RepliesAndLines : Prop :=
  (∀ (s : State) (n tag : Nat) (r : Request), n < 8 → (s.dev.die n).request tag = some r → r.replied = false →
      ((s.dev.die n).requests.filter fun q => q.tag == tag) = [r] → s.cur.resident = true → s.cur.id.die.toNat = n → s.cur.id.stag = r.stag → s.cur.id.six = r.six → s.cur.spec = none →
      let x := s.dev.die n
      let T := 2 ^ x.win.ftimeout.toNat
      let freed (y : Die) : Die := { y with requests := y.requests.filter fun q => !(q.tag == tag) }
      (∀ b, x.request b = none → (∀ y ∈ x.strays, y.req.tag = b → y.req.performed = false) → Waits s (.reply n b)) ∧
      (∀ b y, x.request b = none → x.strays = [y] → y.req.tag = b → y.req.performed = true → exec (.reply n b) s =
        .next (s.setDev (s.dev.onDie n fun x => { x with
          strays := [], win := { x.win with late := if x.win.late = -1 then -1 else x.win.late + 1 } }))) ∧
      (r.kind = 1 → r.performed = true → r.job = true → exec (.reply n tag) s =
        .next (s.setDev (s.dev.onDie n fun y => y.setRequest { r with replied := true }))) ∧
      (r.kind = 1 → r.performed = true → r.job = false → r.onSt = true → exec (.reply n tag) s =
        .next ((s.setDev (s.dev.onDie n freed)).setCur { s.cur with st := s.cur.st - 1 })) ∧
      (r.kind = 0 ∨ r.kind = 2 → r.performed = true → r.age < T → r.fetched = [] → (∀ p ∈ r.parts, p.line = false) →
        exec (.reply n tag) s = .next (s.setDev (s.dev.onDie n fun y => y.setRequest { r with replied := true }))) ∧
      (r.kind = 0 ∨ r.kind = 2 → r.performed = true → T ≤ r.age → Waits s (.reply n tag)) ∧
      ((r.age < T ∨ (r.kind = 1 ∧ r.performed = true)) → Waits s (.remoteTimeout n tag)) ∧
      (T ≤ r.age → r.kind = 1 → r.performed = false → r.job = false → r.onSt = true → s.cur.acc.reply ≠ some tag → s.cur.qstreams = [] → r.tag = tag →
        ∃ u f, exec (.remoteTimeout n tag) s = .next u ∧ u.others = s.others ∧
          u.cur = { s.cur with deferred := s.cur.deferred ++ [f], st := s.cur.st - 1 } ∧ f.cause = 0x11 ∧ f.defer = true ∧
          f.src = 1 ∧ f.iaddr = r.iaddr ∧ f.faddr = r.faddr ∧ (u.dev.die n).request tag = none ∧
          lookupD 0 (u.dev.die n).gens tag = lookupD 0 x.gens tag + 1) ∧
      (T ≤ r.age → r.kind ≠ 3 → (r.kind = 1 → r.performed = false) → r.job = true → r.tag = tag → ∀ c : Card,
        (s.cur.jobs.cpq.find? fun e => e.tags.contains tag && !cardHeld s.cur.jobs.cpq e) = some c →
        ∃ u f, exec (.remoteTimeout n tag) s = .next u ∧ u.cur.frozen = true ∧ u.cur.faults = s.cur.faults ++ [f] ∧
          f.cause = 0x11 ∧ f.src = 5 ∧ f.faddr = r.faddr ∧ cardHeld u.cur.jobs.cpq c = true ∧
          (u.dev.die n).request tag = none) ∧
      (T ≤ r.age → r.kind ≠ 3 → r.job = false → (r.kind = 1 → r.performed = false) → r.onSt = false → s.cur.acc.reply = some tag → r.tag = tag →
        ∃ u f, exec (.remoteTimeout n tag) s = .next u ∧ u.others = s.others ∧
          u.cur = { s.cur with ld := s.cur.ld - 1, acc := { s.cur.acc with reply := none }, frozen := true
                               faults := s.cur.faults ++ [f] } ∧ f.cause = 0x11 ∧ f.defer = false ∧ f.src = 1 ∧
          f.iaddr = r.iaddr ∧ f.faddr = r.faddr ∧ (u.dev.die n).request tag = none)) ∧
  (∀ (s : State) (n line : Nat) (c : CacheLine), n < 8 → s.dev.mem.wf = true →
      let x := s.dev.die n
      let peer := linePeer line
      let clear := (∀ b ∈ x.backoff, b.1 ≠ peer) ∧ s.dev.wayOpen peer = true ∧ (∀ r ∈ x.requests, peer ∉ r.waitsFor) ∧
        (∀ y ∈ x.strays, peer ∉ y.req.waitsFor) ∧ s.dev.undoLacks [line] = false ∧ s.dev.storing = true
      ((s.dev.die n).lineFind line = none → Waits s (.lineEviction n line)) ∧
      ((s.dev.die n).lineFind line = some c →
        (c.dirty = 0 → exec (.lineEviction n line) s =
          .next (s.setDev (s.dev.onDie n fun x => { x with lines := x.lines.filter fun y => !(y.line == line) }))) ∧
        (c.dirty ≠ 0 → ¬clear → Waits s (.lineEviction n line)) ∧
        (c.dirty ≠ 0 → clear →
          ∃ u, exec (.lineEviction n line) s = .next u ∧ u.cur = s.cur ∧ (u.dev.die n).lineFind line = none ∧
            (∀ k < 64, u.dev.mem.get (line * 64 + k) =
              if c.dirty.getLsbD k then c.data.extractLsb' (8 * k) 8 else s.dev.mem.get (line * 64 + k)) ∧
            ∀ a, (a < line * 64 ∨ line * 64 + 64 ≤ a) → u.dev.mem.get a = s.dev.mem.get a)))

/-- R374, R245, R371: a member of a multicast in DRAM that the flit reaches below T/2 writes the eight bytes once, in
chain mode after every earlier member, and is then done there; in native mode its acknowledgement follows, in time
until the reply is due. The merged reply comes when all have acknowledged or 2^14 cycles before T, in chain mode from
the last member; a time-out answers with the members that failed, under a number that is no tag, and frees the tag;
then MSTORE returns the bitmap. -/
def Obligations.Multicast : Prop :=  ∀ (s : State) (n tag i : Nat) (r : Request) (pe pa : Nat), n < 8 → r.bytes.length = 8 → (s.dev.die n).request tag = some r → r.kind = 3 →
    r.tag = tag → r.replied = false → r.members[i]? = some (pe, pa) → i < 16 →
    (∀ y ∈ (s.dev.die n).strays, y.req.tag ≠ tag) →
    let x := s.dev.die n
    let T := 2 ^ x.win.ftimeout.toNat
    let key := pe * 2 ^ 52 + pa
    let becomes (e : Instr) (q : Request) : Prop := exec e s = .next (s.setDev (s.dev.onDie n fun x => x.setRequest q))
    let goes := (r.chain = true ∨ pe / 8 = s.dev.pkg.toNat ∨ Config.nativeMulticast (pe / 8) = true) ∧
      s.dev.maySendTo n r pe = true ∧ r.wrote.getLsbD i = false ∧ 2 * r.age < T ∧
      (r.chain = false ∨ ∀ j < i, r.bitmap.getLsbD j = false)
    let answers := r.chain = false ∧ r.wrote.getLsbD i = true ∧ r.bitmap.getLsbD i = true ∧ r.age + 2 ^ 14 < T
    (¬goes → ¬answers → Waits s (.multicastMemberWrite n tag i)) ∧
    (goes → s.dev.storing = true → (pa + 8 ≤ 0x800000000 ∨ (0x1000000000 ≤ pa ∧ pa + 8 ≤ 0x4000000000)) → pa % 8 = 0 →
      s.dev.undoFull (key / 64) = false → s.dev.mem.wf = true →
      ∃ u b c, exec (.multicastMemberWrite n tag i) s = .next u ∧ u.cur = s.cur ∧ u.dev.mem.Holds key r.bytes s.dev.mem ∧
        (u.dev.die n).request tag = some { r with wrote := c, bitmap := b } ∧
        ∀ k < 16, c.getLsbD k = (r.wrote.getLsbD k || decide (k = i)) ∧
          b.getLsbD k = (r.bitmap.getLsbD k && !(r.chain && decide (k = i)))) ∧
    (answers → ∃ b, becomes (.multicastMemberWrite n tag i) { r with bitmap := b } ∧
      ∀ k < 16, b.getLsbD k = (r.bitmap.getLsbD k && decide (k ≠ i))) ∧
    ((r.chain = false → r.bitmap = 0 ∨ T ≤ r.age + 2 ^ 14) → (r.chain = true → r.bitmap.getLsbD (r.members.length - 1) = false) →
      becomes (.multicastReply n tag) { r with replied := true, value := r.bitmap.setWidth 128 }) ∧
    (r.chain = false → r.bitmap ≠ 0 → r.age + 2 ^ 14 < T → Waits s (.multicastReply n tag)) ∧
    (T ≤ r.age → r.from_ n s.cur = true →
      let kept := 4097 + r.core
      let answered : Request := { r with tag := kept, replied := true, value := if r.chain then r.value else r.bitmap.setWidth 128 }
      exec (.remoteTimeout n tag) s = .next ((s.setDev (s.dev.onDie n fun x =>
        { x with requests := x.requests.map fun (q : Request) => if q.tag == tag then answered else q
                 gens := insertKey x.gens tag (lookupD 0 x.gens tag + 1) })).setCur
          { s.cur with acc := { s.cur.acc with reply := some kept } })) ∧
    (∀ a b d : Reg, s.who = .a → s.cur.spec = none → s.cur.id.die.toNat = n → s.me.reply = some tag →
      Idles s (.mstore d a b)) ∧
    (∀ (a b d : Reg) (t : State), t.who = .a → t.cur.spec = none → t.me.reply = some tag →
      t.myDie.request tag = some { r with replied := true } → r.onSt = false →
      ∃ u, exec (.mstore d a b) t = .next u ∧ Stream.Wrote { t.me with reply := none } u.me d (r.value.setWidth 64) 4 ∧
        u = ((t.setDev (t.dev.onDie t.cur.id.die.toNat fun x =>
          { x with
            requests := x.requests.filter fun q => !(q.tag == tag)
            strays := x.strays ++ if r.bitmap = 0 then [] else [{ req := { r with replied := true }, strand := none }] })).setCur { t.cur with ld := t.cur.ld - 1 }).setMe u.me)

/-- R361, R362: XSHOOT takes the address XSVA holds, the ASID and the flags, and BUSY stands until it completes; it then
drops, on its die or on every die, from the TLBs of both levels each entry of its ASID whose page holds the address,
or all of them, once no access through one is under way, timed out or not, no element and no copy, and DONE counts it.
R363, R364: a page whose migration is asked for moves to a free frame, once no access to it is under way: its contents
stand in the new frame, its leaf names it, what egress buffers and line caches hold of it goes with it (R87), and the
request is gone; one not asked for does not move, nor does one go to a frame in use or in a carve-out (R13). Halving
takes half of every access count. -/
def Obligations.ShootdownAndMigration : Prop :=
  (∀ (s : State) (m : Master) (n : Nat) (w : Word), n < 8 → s.MayWrite m →
      let x := (s.dev.die n).win
      ((x.xsBusy = true ∨ 2 ≤ w.toNat / 2 ^ 18 % 4) → Waits s (.xshoot m n w)) ∧
      (x.xsBusy = false → w.toNat / 2 ^ 18 % 4 < 2 → exec (.xshoot m n w) s = .next (s.setDev (s.dev.onDie n fun y =>
        { y with win := { y.win with xsBusy := true, xsOp := x.xsva <<< 4 ||| (w &&& 0xFFFFF) } }))) ∧
      (x.xsBusy = false → Waits s (.shootdownComplete n)) ∧
      let dropped (e : TlbEntry) : Bool := x.xsOp.getLsbD 17 || (e.asid == x.xsOp.toNat % 65536 &&
        (x.xsOp.getLsbD 16 || e.page == x.xsOp.toNat / 2 ^ 20 * 65536 / pageBytes e.level))
      let cleared (y : Die) : Die := { y with
        tlb := y.tlb.filter (fun e => !dropped e), l1 := y.l1.map fun c => (c.1, c.2.filter fun e => !dropped e) }
      let settled (r : Request) : Prop := r.performed = true ∨ r.replied = true
      let ready (d : Nat) : Prop := (∀ r ∈ (s.dev.die d).requests, settled r) ∧
        ∀ y ∈ (s.dev.die d).strays, settled y.req ∨ y.req.kind = 1 ∨ y.req.kind = 3
      (x.xsBusy = true → x.xsOp.getLsbD 18 = false →
        (¬ready n → Waits s (.shootdownComplete n)) ∧
        (s.streamsUnder x.xsOp [n] = true → Waits s (.shootdownComplete n)) ∧
        (ready n → s.streamsUnder x.xsOp [n] = false →
          exec (.shootdownComplete n) s = .next (s.setDev (s.dev.onDie n fun y => { cleared y with
            win := { y.win with xsBusy := false, xsDone := y.win.xsDone + 1 } })))) ∧
      (x.xsBusy = true → x.xsOp.getLsbD 18 = true → (∀ d < 8, ready d) → s.streamsUnder x.xsOp (upto 8) = false → ∃ u, exec (.shootdownComplete n) s = .next u ∧ u.cur = s.cur ∧ u.others = s.others ∧ u.dev.mem = s.dev.mem ∧
          (u.dev.die n).win = { x with xsBusy := false, xsDone := x.xsDone + 1 } ∧
          ∀ d < 8, (u.dev.die d).tlb = (cleared (s.dev.die d)).tlb ∧ (u.dev.die d).l1 = (cleared (s.dev.die d)).l1)) ∧
  (∀ (s : State) (asid n : Nat) (va frame : Word) (e place : Nat), n < 8 → s.dev.mem.wf = true →
      let unit := ((e / 2 ^ 52 % 2048) * 2 ^ 52 + e % 2 ^ 52 / 2 ^ 13 * 2 ^ 13) / 65536
      let peer := s.dev.pkg.toNat * 8 + n
      let target := peer * 2 ^ 52 + frame.toNat % 2 ^ 52 / 65536 * 65536
      let leaves := (s.dev.roots.flatMap fun r => leavesOf s.dev.mem unit 4 0 r).filter fun f => f.2.1 == 3
      exec (.migrationCountHalving n) s = .next (s.setDev (s.dev.onDie n fun y =>
        { y with migCount := (y.migCount.map fun c => (c.1, c.2 / 2)).filter fun c => c.2 != 0 })) ∧
      ((∀ d < 8, (s.dev.die d).migQueue = []) → Waits s (.migration asid va n frame)) ∧
      (((s.enter { die := 0, tid := 0, asid := asid, sys := true }).walk asid va.toNat).2 = some (e, 3) →
        (s.dev.reachesUnit unit = true ∨ s.dev.frameFree n (frame.toNat % 2 ^ 52 / 65536 * 65536) 65536 = false ∨
          ∃ r ∈ s.dev.roots, leavesOf s.dev.mem (target / 65536) 4 0 r ≠ []) → Waits s (.migration asid va n frame)) ∧
      (∀ k, ((s.enter { die := 0, tid := 0, asid := asid, sys := true }).walk asid va.toNat).2 = some (e, 3) →
        e / 512 % 4 = 2 → (e / 2 ^ 52 % 2048) / 8 = s.dev.pkg.toNat → s.dev.storing = true → s.dev.reachesUnit unit = false →
        (s.dev.die (e / 2 ^ 52 % 2048 % 8)).migQueue = [(unit, n)] → leaves = [(place, 3, k)] → e / 2 ^ 13 % 8 = 0 →
        target % 2 ^ 52 + 65536 ≤ 0x800000000 → unit * 65536 % 2 ^ 52 + 65536 ≤ 0x800000000 →
        (place + 8 ≤ target ∨ target + 65536 ≤ place) → s.dev.frameFree n (frame.toNat % 2 ^ 52 / 65536 * 65536) 65536 = true →
        (∀ r ∈ s.dev.roots, leavesOf s.dev.mem (target / 65536) 4 0 r = []) →
        ∃ u, exec (.migration asid va n frame) s = .next u ∧ u.cur = s.cur ∧ u.others = s.others ∧
          (∀ j < 65536, u.dev.mem.get (target + j) = s.dev.mem.get (unit * 65536 + j)) ∧
          u.dev.mem.nat place 8 = k % 2 ^ 12 + target % 2 ^ 52 + peer * 2 ^ 52 ∧
          (∀ a, (a < target ∨ target + 65536 ≤ a) → (a < place ∨ place + 8 ≤ a) → u.dev.mem.get a = s.dev.mem.get a) ∧
          (u.dev.die (e / 2 ^ 52 % 2048 % 8)).migQueue = [] ∧
          ∀ d < 8, (u.dev.die d).egress = ((s.dev.die d).moveUnit unit target).egress ∧
            (u.dev.die d).lines = ((s.dev.die d).moveUnit unit target).lines))

/-- R375 to R377: on a link that is up, a first transmission takes the next sequence number and its slot's counter and
stays in the retry buffer; one that authenticates under the expected slot is accepted, one that does not is counted
and it and every later one discarded, and the third failure takes the link down with a rollback. A marker ends its
slot's use on both sides, of a slot that is used up too (the model's reading: assumption log 58); a used-up slot sends
nothing else. That a transmission is followed at once by its reception, with no contents of a flit, is the model's
choice (log 12). R376, R377, R439, R370, R420: an acknowledgement up to a flit the receiver has accepted frees the
retry buffer up to it; a negative one while the receiver discards sends the failed flit and every later one again as
they were; a rotation request installs keys in the free slot once no flit under it waits. A package ring link that
goes down rolls the domain back. What the keys are derived from beside the shared secret is the model's choice
(assumption log 102). -/
def Obligations.Links : Prop :=
  (∀ (s : State) (n : Nat) (l : Link), s.dev.links[n]? = some l → s.dev.failed = false →
      let slot := l.txSlot.toNat
      let c := vget l.ctr slot 0
      let other := vget l.installed (~~~l.txSlot).toNat false
      let put (m : Link) : State := s.setDev { s.dev with links := s.dev.links.set n m }
      (l.up = false → ∀ ok, Waits s (.dataFlit n ok) ∧ Waits s (.marker n ok)) ∧
      (l.up = true → l.inFlight = [] → l.rxNext = l.nextSeq → l.rxSlot = l.txSlot →
        (¬(l.rotate = true ∧ other = true) → (∀ ok, Waits s (.marker n ok)) ∧
          ((2 ^ 40 ≤ c ∨ vget l.installed slot false = false) → ∀ ok, Waits s (.dataFlit n ok))) ∧
        (¬(l.rotate = true ∧ other = true) → c < 2 ^ 40 → vget l.installed slot false = true →
          exec (.dataFlit n true) s = .next (put { l with
            nextSeq := l.nextSeq + 1, ctr := l.ctr.setIfInBounds slot (c + 1)
            retry := l.retry ++ [(l.nextSeq, false, l.txSlot, c)], inFlight := []
            rotate := l.rotate || decide (2 ^ 40 - 2 ^ 20 ≤ c), rxNext := l.nextSeq + 1, discarding := false, fails := 0 }) ∧
          (l.fails < 2 → exec (.dataFlit n false) s = .next (put { l with
            nextSeq := l.nextSeq + 1, ctr := l.ctr.setIfInBounds slot (c + 1)
            retry := l.retry ++ [(l.nextSeq, false, l.txSlot, c)], inFlight := []
            rotate := l.rotate || decide (2 ^ 40 - 2 ^ 20 ≤ c), fails := l.fails + 1, discarding := true })) ∧
          (2 ≤ l.fails → ∃ m, exec (.dataFlit n false) s =
            .next ((s.rollback [] []).setDev { (s.rollback [] []).dev with
              links := (s.rollback [] []).dev.links.set n m }) ∧ m.up = false ∧ m.inFlight = [])) ∧
        (l.rotate = true → other = true →
          (∀ ok, Waits s (.dataFlit n ok)) ∧
          exec (.marker n true) s = .next (put { l with
            nextSeq := l.nextSeq + 1, ctr := l.ctr.setIfInBounds slot (c + 1)
            retry := l.retry ++ [(l.nextSeq, true, l.txSlot, c)], inFlight := [], rotate := false
            installed := l.installed.setIfInBounds slot false, txSlot := ~~~l.txSlot, rxSlot := ~~~l.txSlot
            rxNext := l.nextSeq + 1, discarding := false, fails := 0 })))) ∧
  (∀ (s : State) (n k : Nat) (l : Link), s.dev.links[n]? = some l → l.up = true →
      let other := ~~~l.txSlot
      let put (m : Link) : State := s.setDev { s.dev with links := s.dev.links.set n m }
      (l.rxNext ≤ k → Waits s (.acknowledgement n k)) ∧
      (k < l.rxNext → exec (.acknowledgement n k) s = .next (put { l with retry := l.retry.filter fun f => k < f.1 })) ∧
      ((l.discarding = false ∨ k ≠ l.rxNext) → Waits s (.negativeAcknowledgement n k)) ∧
      (l.discarding = true → exec (.negativeAcknowledgement n l.rxNext) s =
        .next (put { l with inFlight := l.retry.filter fun f => l.rxNext ≤ f.1 })) ∧
      ((l.rotate = false ∨ (∃ f ∈ l.retry, f.2.2.1 = other) ∨ vget l.installed other.toNat false = true) →
        Waits s (.rotationRequest n)) ∧
      (l.rotate = true → (∀ f ∈ l.retry, f.2.2.1 ≠ other) → vget l.installed other.toNat false = false →
        exec (.rotationRequest n) s = .next (State.drew (put { l with
          installed := l.installed.setIfInBounds other.toNat true, ctr := l.ctr.setIfInBounds other.toNat 0
          keys := l.keys.setIfInBounds other.toNat (linkKey n other.toNat s.fresh)
          salts := l.salts.setIfInBounds other.toNat (linkSalt n other.toNat s.fresh) }))) ∧
      (s.dev.failed = false → ∃ ls, exec (.packageRingLinkDown n) s =
        .next ((s.rollback [] []).setDev { (s.rollback [] []).dev with links := ls }) ∧ (ls[n]?).map (·.up) = some false))

/-! ### Seals and rollback -/
/-- R407, R413, R414, R436: where the domain is open, not in FAIL and in no rollback, BARRIER begins a requested seal
while no phase is under way (in a package without the master, when the master's start reaches it), PREEMPT goes on
after the limit, FLUSH once every sheaf is saved or ended and nothing is in flight, with what the checkpoint holds,
and each die then votes once. Each completes with every die at its phase, the master's SEALSTEP record first; a VOTE
leaves the other dies. Where it is not its turn, a phase changes nothing, nor does FLUSH while the undo logs have no
room for the dirty lines (R417). That the dies take a phase at once is the model's choice (assumption log 31), and
that the phases of a package without the master start with no request of its own is its reading (log 86). -/
def Obligations.SealPhases : Prop :=  ∀ (s : State) (n : Nat), n < 8 →
    let at_ (p : BitVec 3) : Prop := ∀ d < 8, (s.dev.die d).sph = p
    let phase (p : BitVec 3) (u : State) : Prop := u.cur = s.cur ∧ u.others = s.others ∧
      u.dev.mem = s.dev.mem ∧ u.dev.rin = s.dev.rin ∧ (∀ d < 8, (u.dev.die d).sph = p) ∧
      (u.dev.die 0).slot0.seq = (s.dev.die 0).slot0.seq + if s.dev.masterPkg then 1 else 0
    let sealable := s.dev.man.isOpen = true ∧ s.dev.failed = false ∧ ∀ d < 8, (s.dev.die d).rph = 0
    (¬sealable → Waits s .barrier ∧ Waits s .preempt ∧ Waits s .flush ∧ Waits s (.vote n) ∧ Waits s .commit ∧
      Waits s .release) ∧
    (sealable →
      (at_ 0 → s.dev.sealReq = false → s.dev.masterPkg = true → Waits s .barrier) ∧
      (at_ 0 → (s.dev.sealReq = true ∨ s.dev.masterPkg = false) → s.dev.specs = [] → s.dev.sealw = [] →
        ∃ u, exec .barrier s = .next u ∧ phase 1 u) ∧
      (at_ 0 → Waits s .preempt ∧ Waits s .flush ∧ Waits s (.vote n) ∧ Waits s .release) ∧
      (at_ 1 → (∀ h ∈ s.dev.sheaves, h.saved = true) → ∃ u, exec .preempt s = .next u ∧ phase 2 u) ∧
      ((at_ 1 ∨ at_ 2) → s.quiet = false → Waits s .flush) ∧
      ((at_ 1 ∨ at_ 2) → s.dev.undoLacks s.dev.dirtyLines = true → Waits s .flush) ∧
      ((at_ 1 ∨ at_ 2) → s.quiet = true → s.dev.NoLines → ∃ u c, exec .flush s = .next u ∧ phase 3 u ∧ u.dev.pending = some c ∧
        c.rin = s.dev.rin ∧ c.images = s.dev.images ∧ c.tasks = s.dev.tasks ∧ c.tents = s.dev.tents ∧ c.maps = s.dev.maps ∧ c.pages = s.dev.persistPages ∧
        c.persist = s.dev.persistPages.map fun r => ((r.1, r.2.1), s.dev.mem.slice r.1 r.2.1)) ∧
      (at_ 3 → (s.dev.die n).voted = true → Waits s (.vote n)) ∧
      (at_ 3 → (s.dev.die n).voted = false → ∃ u, exec (.vote n) s = .next u ∧ u.cur = s.cur ∧ u.others = s.others ∧
        u.dev.mem = s.dev.mem ∧ (u.dev.die n).voted = true ∧ (u.dev.die n).sph = 4 ∧
        ∀ d < 8, d ≠ n → (u.dev.die d).voted = (s.dev.die d).voted ∧ (u.dev.die d).sph = 3))

/-- R406, R409, R414, R418: COMMIT, once every die has voted, makes RIN one higher on every die, counts the seal, brings
the checkpoint into force and leaves no tag 128 or more intervals behind; RELEASE then frees the undo entries of the
sealed interval, opens dispatch again, and a request made after the vote starts the next seal. That COMMIT itself
lifts the tags that would lag 128 intervals stands for the scrubber (the model's reading: assumption log 32); the dies
commit at once by its choice (log 31). -/
def Obligations.SealCommit : Prop :=  ∀ (s : State) (c : Checkpoint), s.dev.man.isOpen = true → s.dev.failed = false → (∀ d < 8, (s.dev.die d).rph = 0) →
    s.dev.sealw = [] →
    (s.dev.pending = none → Waits s .commit) ∧
    (s.dev.pending = some c → (∃ d < 8, (s.dev.die d).voted = false) → Waits s .commit) ∧
    (s.dev.pending = some c → (∀ d < 8, (s.dev.die d).sph = 4 ∧ (s.dev.die d).voted = true) →
      ∃ u k, exec .commit s = .next u ∧ u.cur = s.cur ∧ u.others = s.others ∧ u.dev.mem = s.dev.mem ∧
        u.dev.rin = s.dev.rin + 1 ∧ u.dev.pending = none ∧ u.dev.sealReq = false ∧ u.dev.checkpoint = some k ∧
        k.rin = s.dev.rin + 1 ∧ k.persist = c.persist ∧ k.images = s.dev.images ∧ k.tents = s.dev.tents ∧
        k.maps = s.dev.maps ∧ k.tasks = s.dev.tasks ∧
        (∀ d < 8, (u.dev.die d).sph = 5 ∧ (u.dev.die d).win.seals = (s.dev.die d).win.seals + 1 ∧
          (u.dev.die d).undo = (s.dev.die d).undo) ∧
        ∀ l, (u.dev.rin.setWidth 8 - u.dev.tag l).toNat < 128) ∧
    ((∀ d < 8, (s.dev.die d).sph = 5) → (∀ d < 8, (s.dev.die d).egress = []) →
      ∃ u, exec .release s = .next u ∧ u.cur = s.cur ∧ u.others = s.others ∧ u.dev.mem = s.dev.mem ∧
        u.dev.rin = s.dev.rin ∧ u.dev.sealReq = s.dev.nextSeal ∧ u.dev.nextSeal = false ∧
        ∀ d < 8, (u.dev.die d).sph = 0 ∧ (u.dev.die d).voted = false ∧
          (u.dev.die d).undo = (s.dev.die d).undo.filter fun e => e.rin == s.dev.rin)

/-- R420, R421: RBREQ, a failed dispatcher without a standby, and a link that goes down roll the domain back; after it no
strand is resident, no speculation, request, cached line, seal phase or egress entry is left on any die, nor an undo
entry where no committed egress entry was left to send, and RIN is that of the seal it returns to; a die whose poison
has a record to publish stays at REDISPATCH for it (R424). Where an error in an undo log, in both copies of a journal
record or in the checkpoint area is in the way the domain enters FAIL. RBREQ and SREQ do nothing in FAIL; SREQ
requests a seal. The model's choices here: the owner's RBREQ and SREQ (assumption log 26), what the rollback empties
(log 36), the entries of a committed interval (log 34), the entries kept for other packages (log 1), and when such an
error counts (log 88). R107, R408, R421: an undo entry undoes: after a write within one line of DRAM of the domain
that needed an entry, outside the carve-outs, applying the newest entry of the owner's log, for a line of another
package the one kept for it there, gives every byte of memory, the line's tag and its poison back as they were. R421,
R412: with no undo entry, egress entry or retirement of its own, a rollback returns memory to what the last seal
holds: a byte of a persistent region of the checkpoint is the checkpoint's, and every other byte is unchanged; the
scheduler's lists, the last kick served and the regions themselves with them, are the checkpoint's, and what the
supervisor sets (ceilings, limits) stands. -/
def Obligations.Rollback : Prop :=
  (∀ (s : State) (m : Master) (n : Nat) (lines : List Nat) (rs : List FaultRec), n < 8 → s.MayWrite m →
      let u := s.rollback lines rs
      (s.dev.failed = true → Waits s (.rbreq m n) ∧ Waits s (.sreq m n)) ∧
      (s.dev.failed = false → exec (.rbreq m n) s = .next (s.rollback [] []) ∧
        exec (.sreq m n) s = .next (s.setDev s.dev.requestSeal)) ∧
      (s.dev.lost = true → u.cur = s.cur ∧ u.others = s.others ∧ u.dev.failed = true ∧ (∀ d < 8, (u.dev.die d).rph = 7) ∧
        u.dev.mem = s.dev.mem) ∧
      (s.dev.lost = false → (∀ k ∈ u.cur :: u.others, k.resident = false) ∧ u.dev.rin = s.dev.rin ∧ u.dev.specs = [] ∧ u.dev.sealReq = false ∧
      u.dev.nextSeal = false ∧ u.dev.sealw = [] ∧ u.dev.pending = none ∧ u.dev.notices = [] ∧ u.agenda = s.agenda ∧
      u.dev.links.length = s.dev.links.length ∧
      ∀ d < 8, (u.dev.die d).requests = [] ∧ (u.dev.die d).lines = [] ∧ (u.dev.die d).sph = 0 ∧ (u.dev.die d).voted = false ∧
        (u.dev.die d).egress = [] ∧ (u.dev.die d).rph = (if rs ≠ [] ∧ d = s.cur.id.die.toNat then 6 else 0) ∧
        ((∀ e < 8, (s.dev.die e).egress = []) → s.dev.sealw = [] → (u.dev.die d).undo = []))) ∧
  (∀ (d : Device) (key : Nat) (bs : List Byte), d.mem.wf = true → bs ≠ [] → key % 64 + bs.length ≤ 64 →
      let line := key / 64
      let n := line / 2 ^ 46 % 8
      let log (x : Device) : List UndoEntry := if line / 2 ^ 46 / 8 = d.pkg.toNat then (x.die n).undo else x.away
      d.logged line = false → d.carved line = false →
      ∃ e, log (d.dramWrite key bs) = e :: log d ∧ e.line = line ∧ e.rin = d.rin ∧
        let b := (d.dramWrite key bs).undoOne e
        (∀ a, b.mem.get a = d.mem.get a) ∧ (∀ l, b.tag l = d.tag l) ∧ ∀ l, l ∈ b.poison ↔ l ∈ d.poison) ∧
  (∀ (s : State) (c : Checkpoint) (base len : Nat) (m : Memory), s.dev.checkpoint = some c → s.dev.mem.wf = true →
      s.dev.specs = [] → s.dev.lost = false → s.dev.sealw = [] → s.dev.away = [] → (∀ d < 8, (s.dev.die d).undo = [] ∧ (s.dev.die d).egress = []) →
      c.persist = [((base, len), m)] → m.wf = true → (∀ x ∈ m, x.1 < len) →
      let u := s.rollback [] []
      (∀ k < len, u.dev.mem.get (base + k) = m.get k) ∧
      (∀ a, (a < base ∨ base + len ≤ a) → u.dev.mem.get a = s.dev.mem.get a) ∧
      u.dev.images = c.images ∧ u.dev.tasks = c.tasks ∧ u.dev.sheaves = c.sheaves ∧ u.dev.instances = c.instances ∧
      u.dev.maps = c.maps ∧ u.dev.persistPages = c.pages ∧ u.dev.eosWait = c.eosWait ∧
      u.dev.tents.map (fun t => (t.tid, t.ceiling, t.limStk, t.limLp)) =
        s.dev.tents.map (fun t => (t.tid, t.ceiling, t.limStk, t.limLp)) ∧
      ∀ d < 8, (u.dev.die d).ready = (c.ready[d]?).getD [] ∧ (u.dev.die d).kicks = (c.kicks[d]?).getD [] ∧
        ((u.dev.die d).slot0.lastKick, (u.dev.die d).slot1.lastKick) = (c.lastKicks[d]?).getD (0, 0))

/-! ### The supervisor -/
/-- R37, R38, R183, R379, R412: a tent whose values are allowed and whose number is free is created with USED 0, no ring
and no history; a persistent region goes to the highest page below the last of core 7 of cluster 7 of its die when
nothing stands there, reads 0 and is kept. R41, R103: LIMIT of a class changes alone. R38, R39: a lowered ceiling
lowers the tent's tasks above it, and no strand changes (when a running strand sees it is the model's choice:
assumption log 82). R149, R405: a grant is created in a free entry of the table of the die of its target sheaf, with
the generation that revocations of the entry have advanced; a revocation advances it, and no handle of the old one is
good any more. -/
def Obligations.TentsAndGrants : Prop :=
  (∀ (s : State) (t : TentSpec) (x : Tent) (c : BitVec 4) (v : BitVec 32),
      let k : Tent := { tid := t.tid, asid := t.asid, ceiling := t.ceiling, home := t.home, unsigned := t.unsigned
                        usedStk := 0, limStk := t.qstk, usedLp := 0, limLp := t.qlp, devq := [], rings := [], handles := [], mailboxes := []
                        hist := [], persist := [], graphRings := t.graphRings }
      let ok := t.tid < 256 ∧ 1 ≤ t.asid ∧ t.asid < 65536 ∧ t.ceiling.toNat ≤ 9 ∧ t.home < 8 ∧
        ∀ p ∈ t.persist, p.1 < 8 ∧ 64 ≤ p.2 ∧ p.2 ≤ 458752
      (¬ok ∨ s.dev.tent t.tid ≠ none → Waits s (.tentCreation t)) ∧
      (ok → s.dev.tent t.tid = none →
        (t.persist = [] → exec (.tentCreation t) s = .next (s.setDev { s.dev with tents := s.dev.tents ++ [k] })) ∧
        (∀ die size, t.persist = [(die, size)] → size ≤ 65536 → s.dev.persistPages = [] → s.dev.mem.wf = true →
          (∀ o ∈ s.cur :: s.others, o.resident = false) →
          let key := (s.dev.pkg.toNat * 8 + die) * 2 ^ 52 + 0xFFF * 2 ^ 40 + (64 * die + 63) * 2 ^ 28 + 2 ^ 24 + 0x60000
          let bytes := (size + 63) / 64 * 64
          ∃ u a, exec (.tentCreation t) s = .next u ∧ u.cur = s.cur ∧ u.others = s.others ∧
            u.dev.tents = s.dev.tents ++ [{ k with persist := [(a, size)] }] ∧ u.dev.persistPages = [(key, bytes, t.tid)] ∧
            ∀ b, u.dev.mem.get b = if key ≤ b ∧ b < key + bytes then 0 else s.dev.mem.get b)) ∧
      (s.dev.tent t.tid = none → Waits s (.limitChange t.tid 0 v) ∧ Waits s (.ceilingLowering t.tid c)) ∧
      (s.dev.tent t.tid = some x →
        let put (y : Tent) : List Tent := s.dev.tents.map fun z => if z.tid == t.tid then y else z
        exec (.limitChange t.tid 0 v) s = .next (s.setDev { s.dev with tents := put { x with limStk := v } }) ∧
        exec (.limitChange t.tid 1 v) s = .next (s.setDev { s.dev with tents := put { x with limLp := v } }) ∧
        (x.ceiling.toNat ≤ c.toNat → Waits s (.ceilingLowering t.tid c)) ∧
        (c.toNat < x.ceiling.toNat → (s.dev.tasks.map (·.num)).Nodup →
          ∃ u, exec (.ceilingLowering t.tid c) s = .next u ∧ u.cur = s.cur ∧ u.others = s.others ∧ u.dev.mem = s.dev.mem ∧
            u.dev.tents = put { x with ceiling := c } ∧
            u.dev.tasks = s.dev.tasks.map fun k =>
              if k.tid = t.tid ∧ k.sys = false ∧ c.toNat < k.pri then { k with pri := c.toNat } else k))) ∧
  (∀ (s : State) (n i : Nat) (g : GrantSpec),
      let x := s.dev.die n
      ((8 ≤ n ∨ 4096 ≤ i ∨ (∃ e ∈ x.grants, e.idx = i ∧ e.live = true ∧ ∀ f ∈ x.grants, f.idx = i → f = e) ∨
        s.dev.sheaf n g.stag.toNat = none) → Waits s (.grantCreate n i g)) ∧
      (n < 8 → i < 4096 → s.dev.sheaf n g.stag.toNat ≠ none →
        ((∀ e ∈ x.grants, e.idx ≠ i) → exec (.grantCreate n i g) s = .next (s.setDev (s.dev.onDie n fun x => { x with
          grants := x.grants ++ [{ idx := i, gen := 0, live := true, spec := g, rin := s.dev.rin }] }))) ∧
        (∀ e, x.grants = [e] → e.idx = i → e.live = false →
          exec (.grantCreate n i g) s = .next (s.setDev (s.dev.onDie n fun x => { x with
            grants := [{ idx := i, gen := e.gen, live := true, spec := g, rin := s.dev.rin }] })))) ∧
      exec (.grantRevocation n i) s = .next (s.setDev (s.dev.onDie n fun x => { x with grants := x.grants.map fun e =>
        if e.live = true ∧ e.idx = i then { e with live := false, gen := e.gen + 1 } else e })))

/-- R304, R316, R234: a registration whose values are allowed commits the ring's whole buffer and sets its block up empty,
owned by its place, with the mailbox fields asked for, in a region that a seal keeps; the tent then has the ring under
its handle. One that may not be made changes nothing, as a mailbox whose handle or buffer its producer's tent does not
reach, and so does one while no store may be performed (R415). Where firmware has put the block is the model's choice
(assumption log 52). R315, R317 to R319: the notices of one mailbox are served in the order of their publications,
while stores may be performed, for the tent the mailbox is registered for, which alone they reach. By the KIND of the
mailbox's NTF word nothing follows, or a user interrupt of source 2 for the armed strand (PEND saturates and OVF marks
it), or the payload goes to the tile that NTF names, or the kick bit of that tent's queue is set; a strand of another
tent or one that no tent's mailbox names is not notified. R245, R317, R318: a 64-bit swap or compare-and-swap at
offset 0x38 of a block whose MBX bit is 1 arms the mailbox: from its consumer tent the word written is bits [8:0] of
the operand, with the strand's tag, index, package and die for KIND 01 and 10; from any other tent it is a permission
fault. An MSTORE at a misaligned offset, of no valid group or past its window faults. -/
def Obligations.RingsRegistered : Prop :=
  (∀ (s v : State) (r : RingSpec) (t : Tent) (key : Nat) (ps : List Piece),
      (s.dev.tent r.tid = none → Waits s (.ringRegistration r)) ∧
      (s.dev.tent r.tid = some t →
        ((ringSpecOk t r = false ∨ s.dev.storing = false ∨ s.producerReaches r = false ∨ s.blockPlace t.agent r.rcb = none) → Waits s (.ringRegistration r)) ∧
        (∀ c a, (s.enter t.agent).check .store 1 false r.buf r.cap.toNat = .fault c a → Waits s (.ringRegistration r)) ∧
        (ringSpecOk t r = true → s.dev.storing = true → (r.mailbox = true → s.producerReaches r = true) → s.blockPlace t.agent r.rcb = some key →
          (s.enter t.agent).check .store 1 false r.buf r.cap.toNat = .ok ps →
          (s.enter t.agent).commitAll r.buf 1 ps = .done v → v.dev.mem.wf = true →
          let ctl := r.scope.toNat + if r.mailbox then 2 ^ 3 + (if r.notify = 0 then 0 else 2 ^ 4) + r.producer.toNat * 2 ^ 8 +
            r.tid % 256 * 2 ^ 16 else 0
          let b : Rcb := { head := 0, tail := 0, resv := 0, sks := 0, buf := r.buf, cap := r.cap.toNat, ctl := BitVec.ofNat 32 ctl
                           own := ownWord s.dev.pkg (key / 2 ^ 52 % 8) 0 0
                           ntf := if r.mailbox ∧ r.notify = 3 then BitVec.ofNat 64 (3 + r.notifyQ.toNat * 64) else 0 }
          ∃ u, exec (.ringRegistration r) s = .next u ∧ u.dev.mem.Holds key b.bytes v.dev.mem ∧
            (∃ x ∈ u.dev.persistPages, x.1 ≤ key ∧ key + 64 ≤ x.1 + x.2.1) ∧
            u.dev.tents = v.dev.tents.map fun x => if x.tid ≠ t.tid then x
              else if r.mailbox then { x with mailboxes := x.mailboxes ++ [BitVec.ofNat 64 key] }
              else { x with rings := x.rings ++ [(r.q, BitVec.ofNat 64 key)], handles := x.handles ++ [(r.q, r.rcb)] }))) ∧
  (∀ (s : State) (k : Nat) (n : Nat × List Byte) (c : Tent), s.dev.notices[k]? = some n →
      let b := s.rcbAt (.phys n.1)
      let f (lo w : Nat) : Nat := b.ntf.toNat / 2 ^ lo % 2 ^ w
      let rest := s.setDev { s.dev with notices := s.dev.notices.eraseIdx k }
      let e := exec (.mailboxNotify k) s
      let u := s.cur.ui
      (((∃ j < k, ∃ m, s.dev.notices[j]? = some m ∧ m.1 = n.1) ∨ s.dev.storing = false) → Waits s (.mailboxNotify k)) ∧
      (s.dev.storing = true → (∀ j < k, ∀ m, s.dev.notices[j]? = some m → m.1 ≠ n.1) →
        ((f 0 2 = 0 ∨ ∀ t ∈ s.dev.tents, BitVec.ofNat 64 n.1 ∉ t.mailboxes) → e = .next rest) ∧
        (s.dev.tents.find? (fun t => t.mailboxes.contains (BitVec.ofNat 64 n.1)) = some c → f 0 2 = 3 →
          e = .next (rest.setDev (rest.dev.kick c.tid (f 6 3)))) ∧
        (s.dev.tents.find? (fun t => t.mailboxes.contains (BitVec.ofNat 64 n.1)) = some c → (f 0 2 = 1 ∨ f 0 2 = 2) →
          (∀ x ∈ s.cur :: s.others ++ s.dev.images, x.id.tid.toNat ≠ c.tid) → e = .next rest) ∧
        (s.dev.tents.find? (fun t => t.mailboxes.contains (BitVec.ofNat 64 n.1)) = some c → s.cur.id.tid.toNat = c.tid →
          s.cur.id.sys = false → s.cur.resident = true → s.cur.ended = false → f 40 8 = s.dev.pkg.toNat → f 48 3 = s.cur.id.die.toNat →
          f 16 16 = s.cur.id.stag.toNat → f 32 3 = s.cur.id.six.toNat →
          (f 0 2 = 1 → e = .next (rest.setCur { s.cur with ui := { u with
            srcs := u.srcs ||| 4, pend := if u.pend = 255 then 255 else u.pend + 1, ovf := u.ovf || u.pend == 255 } })) ∧
          (f 0 2 = 2 → e = .next (rest.setCur { s.cur with jobs := { s.cur.jobs with fills := s.cur.jobs.fills ++
            [{ tile := f 2 4, bytes := (List.range n.2.length).zip n.2 }] } }))))) ∧
  (∀ (s : State) (sc : BitVec 3) (a b d : Reg) (p : Piece), Quiet s →
      (s.check .atomic 8 true (s.rd a) 8 = .ok [p] → p.hit.remote = false → s.isArming p.hit.loc = true →
        let loc := p.hit.loc
        let old := leNat (s.getBytes loc 8)
        let v := s.rd b
        (s.getByte (loc.back 0xC)).getLsbD 3 = true ∧
        (s.getByte (loc.back 0xA) = s.cur.id.tid →
          ∃ w : Word, w.extractLsb' 0 9 = v.extractLsb' 0 9 ∧
            (v.toNat % 4 = 1 ∨ v.toNat % 4 = 2 → w.extractLsb' 16 16 = s.cur.id.stag ∧ w.extractLsb' 32 3 = s.cur.id.six ∧
              w.extractLsb' 40 8 = s.cur.id.pkg ∧ w.extractLsb' 48 3 = s.cur.id.die) ∧
            (v.toNat % 4 = 0 ∨ v.toNat % 4 = 3 → w = v &&& 0x1FF) ∧
            AtomicDone s (.gswap sc 0 1 b a d) loc (some (natLe 8 w.toNat)) (fun x => s.me.Wrote x d (BitVec.ofNat 64 old) 4) ∧
            (old = (s.rd d).toNat →
              AtomicDone s (.gcas sc 0 1 b a d) loc (some (natLe 8 w.toNat)) (fun x => s.me.Wrote x d (BitVec.ofNat 64 old) 4))) ∧
        (s.getByte (loc.back 0xA) ≠ s.cur.id.tid →
          ∃ e t f, exec (.gswap sc 0 1 b a d) s = .next t ∧ SameButTlb s.dev e ∧ Faulted (s.setDev e) t 0x05 2 (s.rd a) f)) ∧
      ((s.rd a).toNat % 8 ≠ 0 → Faults s (.mstore d a b) 0x03 0 (s.rd a)) ∧
      ((s.rd a).toNat % 8 = 0 → s.group s.cur.id.asid.toNat ((s.rd d).toNat % 256) = none →
        Faults s (.mstore d a b) 0x05 1 (s.rd a)) ∧
      (∀ ms wlen chain, (s.rd a).toNat % 8 = 0 → s.group s.cur.id.asid.toNat ((s.rd d).toNat % 256) = some (ms, wlen, chain) →
        (wlen < (s.rd a).toNat + 8 → Faults s (.mstore d a b) 0x04 1 (s.rd a)) ∧
        ((s.rd a).toNat + 8 ≤ wlen → ∃ t r, exec (.mstore d a b) s = .next t ∧ t.me.reply = some r.tag ∧
          t.myDie.requests = [r] ∧ t.dev.mem = s.dev.mem ∧ t.cur.ld = s.cur.ld + 1 ∧ r.kind = 3 ∧ r.bytes = natLe 8 (s.rd b).toNat ∧
          r.members = ms.map (fun m => (m.1, m.2 + (s.rd a).toNat)) ∧ r.chain = chain ∧
          (∀ k < 16, r.bitmap.getLsbD k = decide (k < ms.length)))))

/-! ### Dispatchers, nodes, replay, prediction -/
/-- R381 to R385: COMPLETE takes the oldest completion of a slot with a journal record; SNAP past half full leaves the
snapshot records alone, which hold the slot's whole state, each with its place in the run and the run's length; a
dispatcher that fails is taken over by the standby with its units back in their banks, its completions held, and the
journal as far as both copies have it with its CRC, a record in one copy alone discarded; without a standby the domain
rolls back, and the last core's failure ends in FAIL, as does an error that a rollback would need (R420). Without its
cause each changes nothing. That the copies are data beside memory, and the words a body or a snapshot holds, are the
model's choices (assumption log 13). R305, R391: a doorbell write without GO, of a frozen master, or while BUSY does
nothing; with GO, and while nothing holds stores, a queue that the tent has not registered answers ST 4, one whose
block cannot be reached ST 5, and one with room takes a launch record of 16 bytes with the doorbell's two words, sets
the queue's kick bit and answers ST 0; while stores are held BUSY stands (that a GO that can be answered is answered
at once is the model's choice: assumption log 23). KICKCLR clears the pending bit that comes next, with a journal
record; a queue without a record and a tent without waiting nodes then change nothing more. -/
def Obligations.DispatcherSlots : Prop :=
  (∀ (s : State) (n slot k : Nat) (rest : List Nat), n < 8 →
      let x := s.dev.die n
      let v := x.slot slot
      let after (u : State) : Slot := (u.dev.die n).slot slot
      ((v.fifo = [] ∨ s.dev.reading = false) → Waits s (.complete n slot)) ∧
      (v.fifo = k :: rest → s.dev.reading = true → ∃ u, exec (.complete n slot) s = .next u ∧ u.cur = s.cur ∧ u.others = s.others ∧
        u.dev.mem = s.dev.mem ∧ v.Logged (after u) 4 [k] ∧ (after u).fifo = rest ∧ (after u).held = v.held) ∧
      (v.journal.length < 262144 → Waits s (.snap n slot)) ∧
      (262144 ≤ v.journal.length → s.dev.failed = false → (s.dev.slotWords n slot).length ≤ 9 * 524288 →
        ∃ u, exec (.snap n slot) s = .next u ∧ u.cur = s.cur ∧ u.others = s.others ∧ u.dev.mem = s.dev.mem ∧
        (after u).journal.length = ((s.dev.slotWords n slot).length + 8) / 9 ∧
        (∀ k r, (after u).journal[k]? = some r → r.seq = v.seq + k ∧ r.kind = 8 ∧
          r.body = [k, ((s.dev.slotWords n slot).length + 8) / 9] ++ ((s.dev.slotWords n slot).drop (9 * k)).take 9) ∧
        (after u).seq = v.seq + (after u).journal.length ∧ (after u).fifo = v.fifo ∧ (after u).held = v.held) ∧
      (s.dev.failed = true → Waits s (.dispatcherFailure n slot)) ∧
      (s.dev.failed = false → s.dev.lost = true → exec (.dispatcherFailure n slot) s = .next s.enterFail) ∧
      (s.dev.failed = false → s.dev.lost = false →
        (x.win.sbv = true → ∃ u, exec (.dispatcherFailure n slot) s = .next u ∧ u.cur = s.cur ∧ u.others = s.others ∧
          u.dev.mem = s.dev.mem ∧ (u.dev.die n).ready = x.ready ++ v.held ∧ (after u).held = [] ∧ (after u).core = x.win.sb ∧
          (after u).fifo = v.fifo ∧ (after u).lastKick = v.lastKick ∧
          ((∀ k r, v.journal[k]? = some r → s.dev.committedRec n slot r = true ∧ r.seq + v.journal.length = v.seq + k) →
            (after u).journal = v.journal ∧ (after u).seq = v.seq) ∧
          (∀ a r b, v.journal = a ++ r :: b → s.dev.committedRec n slot r = false → (after u).journal.length ≤ a.length) ∧
          (u.dev.die n).win.sb = v.core ∧
          (u.dev.die n).win.sbv = false ∧ (u.dev.die n).win.tko = if x.win.tko = 0xFFFF then 0xFFFF else x.win.tko + 1) ∧
        (x.win.sbv = false → x.slot0.core = x.slot1.core → ∃ u, exec (.dispatcherFailure n slot) s = .next u ∧
          u.dev.failed = true) ∧
        (x.win.sbv = false → x.slot0.core ≠ x.slot1.core → ∃ ds, exec (.dispatcherFailure n slot) s =
          .next ((s.rollback [] []).setDev { (s.rollback [] []).dev with dies := ds })))) ∧
  (∀ (s : State) (m : Master) (n b slot bit key k : Nat) (w h : Word) (t : Tent), n < 8 → bellOf m = some b →
      let bell := vget (s.dev.die n).bells b Doorbell.blank
      let v := s.setBell n b fun x => { x with busy := true, ask := w.extractLsb' 0 11 }
      let g : Agent := { t.agent with die := n }
      let tid := w.toNat % 256
      let q := w.toNat / 256 % 8
      let r := s.rcbAt (.phys k)
      let stIs (u : State) (v : BitVec 3) : Prop := ((u.dev.die n).bells[b]?).map (·.st) = some v
      ((s.dev.man.frozen m = true ∨ w.getLsbD 11 = false ∨ bell.busy = true) → Waits s (.hlctlGo m n w)) ∧
      (s.dev.man.frozen m = false → w.getLsbD 11 = true → bell.busy = false → s.dev.storing = false →
        exec (.hlctlGo m n w) s = .next v) ∧
      (s.dev.man.frozen m = false → w.getLsbD 11 = true → bell.busy = false → s.dev.storing = true →
        ((q = 0 ∨ s.dev.tent tid = none) →
          ∃ u, exec (.hlctlGo m n w) s = .next u ∧ stIs u 4 ∧ u.cur = s.cur ∧ u.dev.mem = s.dev.mem) ∧
        (q ≠ 0 → s.dev.tents = [t] → t.tid = tid → t.handles = [(q, h)] →
          (∃ c a, (v.enter g).check .atomic 64 true h 64 = .fault c a) →
          ∃ u, exec (.hlctlGo m n w) s = .next u ∧ stIs u 5 ∧ u.cur = s.cur ∧ u.dev.mem = s.dev.mem) ∧
        (q ≠ 0 → s.dev.tents = [t] → t.tid = tid → t.rings = [(q, BitVec.ofNat 64 k)] → t.handles = [(q, h)] → k < 2 ^ 64 →
          t.home < 8 → (∃ p, (v.enter g).check .atomic 64 true h 64 = .ok [p] ∧ p.hit.loc = .phys k) →
          s.dev.mem.wf = true → r.bad = false → r.resv = r.tail →
          r.resv % r.cap + 24 ≤ r.cap → r.resv - r.head + 24 ≤ r.cap →
          v.FwRoom g (r.buf + BitVec.ofNat 64 (r.resv % r.cap)) 24 key →
          ∃ u m', exec (.hlctlGo m n w) s = .next u ∧ stIs u 0 ∧ u.cur = s.cur ∧ 8 * tid + q ∈ (u.dev.die t.home).kicks ∧
            Memory.Holds m' key (natLe 8 (16 + 2 ^ 32 + tid * 2 ^ 56) ++ natLe 8 bell.desc.toNat ++ natLe 8 bell.args.toNat)
              s.dev.mem ∧
            u.dev.mem.Holds k { r with resv := r.resv + 24, tail := r.resv + 24 }.bytes m')) ∧
      ((s.dev.die n).nextKick slot = none → Waits s (.kickclr n slot)) ∧
      (s.dev.reading = false → Waits s (.kickclr n slot)) ∧
      ((s.dev.die n).nextKick slot = some bit → s.dev.reading = true → s.dev.tents = [t] → t.tid = bit / 8 → bit % 8 ≠ 0 →
        (t.rings = [] ∨ (t.rings = [(bit % 8, BitVec.ofNat 64 k)] ∧ k < 2 ^ 64 ∧ r.tail = r.head)) → s.dev.instances = [] →
        s.dev.NoLines →
        ∃ u, exec (.kickclr n slot) s = .next u ∧ u.cur = s.cur ∧ u.others = s.others ∧ u.dev.mem = s.dev.mem ∧
          (u.dev.die n).kicks = (s.dev.die n).kicks.filter (fun c => c != bit) ∧
          ((u.dev.die n).slot slot).lastKick = bit ∧
          ((s.dev.die n).slot slot).Logged ((u.dev.die n).slot slot) 7 [bit]))

/-- R387, R388, R390, R414: while dispatch is closed nothing is dispatched. With one unit ready and none held, DISPATCH
takes it: placed, its strands stand and a journal record of each sheaf says so (the words of its body: assumption log
13); one for which the cores do not suffice is held by the slot. A unit that enters the structure has the next stamp,
and the bank that its level's count gives. R20, R22, R26, R32: the state of a strand at its start: s1 the address of
its argument block, s2 to s13 the words of its task, every other register 0, a stream at its entry block or ended
where the object has none, queues and tiles empty, and the identity of its sheaf, its position and its core. -/
def Obligations.Dispatching : Prop :=
  (∀ (s w : State) (n slot : Nat) (u : DispUnit) (x : Die) (t : Task), n < 8 →
      let d := s.dev.die n
      let v := s.setDev (s.dev.setDie n x)
      (s.dev.dispatchOpen n = false → Waits s (.dispatch n slot)) ∧
      (d.ready = [] → d.slot0.held = [] → d.slot1.held = [] → Waits s (.dispatch n slot)) ∧
      (d.ready = [u] → d.take = some (u, x) → x.ready = [] ∧ x.slot0 = d.slot0 ∧ x.slot1 = d.slot1) ∧
      (d.ready = [u] → ∃ y, d.take = some (u, y)) ∧
      (s.dev.dispatchOpen n = true → d.ready = [u] → d.slot0.held = [] → d.slot1.held = [] → d.take = some (u, x) →
        (v.placeUnit n u = .wait → ∃ z, exec (.dispatch n slot) s = .next z ∧ z.cur = s.cur ∧ z.others = s.others ∧
          z.dev.mem = s.dev.mem ∧ (z.dev.die n).ready = [] ∧ ((z.dev.die n).slot slot).held = [u]) ∧
        (v.placeUnit n u = .ok w → s.dev.task u.task = some t → (∀ i, w.dev.instance_ t.inst = some i → i.replay = none) →
          ∃ z, exec (.dispatch n slot) s = .next z ∧ z.cur = w.cur ∧ z.others = w.others ∧ z.dev.mem = w.dev.mem ∧
            ((z.dev.die n).slot slot).seq = ((w.dev.die n).slot slot).seq + u.sheaves.length ∧
            ∀ p, u.sheaves = [p] → ((w.dev.die n).slot slot).Logged ((z.dev.die n).slot slot) 3 (w.dev.dispatchBody u.task p))) ∧
      (let e := (s.dev.enqueue n u).die n
       u.level < 12 → e.ready = d.ready ++ [{ u with
          stamp := d.stamp, bank := vget d.enq u.level 0 % 16, popmark := vget d.pops u.level 0 }] ∧
        e.stamp = d.stamp + 1 ∧ vget e.enq u.level 0 = vget d.enq u.level 0 + 1)) ∧
  (∀ (d : Device) (t : Task) (o : CodeObj) (h : Sheaf) (six core : Nat) (ri ro : Word), attrWpf o.attr = [] →
      let k := newStrand d t o h six core ri ro
      let started (x : Stream) (i : Nat) : Prop :=
        x.get 0 = 0 ∧ x.get 1 = t.argBlock ∧ (∀ r : Reg, 2 ≤ r.toNat → r.toNat ≤ 13 → x.get r = t.args.getD (r.toNat - 2) 0) ∧
        (∀ r : Reg, 13 < r.toNat → x.get r = 0) ∧ x.stack = [] ∧ x.rep = none ∧ x.stall = 0 ∧ x.pass = 0 ∧
        (vget o.entries i 0xFFFFFFFF = 0xFFFFFFFF → x.run = .ended) ∧
        (vget o.entries i 0xFFFFFFFF ≠ 0xFFFFFFFF → x.run = .running ∧ x.atHeader = true ∧
          x.pc = o.base + (vget o.entries i 0xFFFFFFFF).setWidth 64)
      started k.ctl 0 ∧ started k.acc 1 ∧ started k.exe 2 ∧ k.resident = true ∧ k.frozen = false ∧ k.ended = false ∧
      k.spec = t.spec ∧ (∀ i < 64, vget k.v i 0 = 0) ∧ (∀ i < 16, (vget k.tiles i { st := .full, data := [] }).st = .empty) ∧
      (∀ q < 13, (k.queues[q]?).map (·.occ) = some 0) ∧ k.gleanOcc = 0 ∧ k.ld = 0 ∧ k.st = 0 ∧ k.fflags = 0 ∧ k.nbv = 0 ∧
      k.ui.pend = 0 ∧ k.jobs.thq = [] ∧ k.jobs.cpq = [] ∧ k.ls = [] ∧ (six ≠ 0 ∨ attrRings o.attr = [] → k.gr = []) ∧ k.id.stag = h.stag ∧
      k.id.tid = (if t.sys then 0 else BitVec.ofNat 8 t.tid) ∧
      k.id.six = BitVec.ofNat 3 six ∧ (core < 512 → k.id.coreNum.toNat = core) ∧ k.id.gx = BitVec.ofNat 16 h.x ∧
      k.id.gy = BitVec.ofNat 16 h.y ∧ k.id.gz = BitVec.ofNat 16 h.z ∧ k.id.stg = BitVec.ofNat 3 h.stage ∧ k.id.sys = t.sys ∧
      k.id.pri = BitVec.ofNat 4 t.pri ∧ k.id.ringin = ri ∧ k.id.ringout = ro)

/-- R20, R28, R302, R307, R308, R310, R381: a node that may start is journalled and makes its instance's STATE 1. A kernel
node becomes a task with its grid, its argument words and its capped priority, whose units, one for each position or
one in all for a co-resident task, are ready on the graph's die; a copy node moves its bytes and is done, in one step
by the model's choice (assumption log 49). A node that may not start does not, nor does one whose tent's dirty lines
cannot be written back now, as the boundary before it needs (R31, R366, R417). R302, R309, R310, R381: a loop's next
pass reads its word again: 0 ends it, any other value begins a pass with the range's nodes idle, and at the bound it
ends with LOOPCAP. At a kick of its tent, and only then by the model's reading (assumption log 87), a waiting event
node is done when its word is not 0. Tests that must wait leave the kick. A node whose end is due ends with a journal
record; its instance goes on while another node of the top level has not ended, and else is gone. -/
def Obligations.Nodes : Prop :=
  (∀ (s : State) (inst node d : Nat) (i : Instance) (x : NodeState) (t : Tent) (o : CodeObj), s.dev.instance_ inst = some i →
      i.node? node = some x → s.dev.tentOf i = some t → i.replay = none → (s.dev.server i.tid).1 < 8 →
      let srv := s.dev.server i.tid
      let s1 := (s.setDev (s.dev.journal srv.1 srv.2 2 i.tid i.num [node])).drew
      let phase (u : State) : Option NodePhase := ((u.dev.instance_ inst).bind fun j => j.node? node).map (·.phase)
      let goes (u : State) : Prop := exec (.nodestart inst node) s = .next u ∧ u.cur = s.cur ∧ u.others = s.others ∧
        (u.dev.instance_ inst).map (·.state) = some 1 ∧
        ((s.dev.die srv.1).slot srv.2).Logged ((u.dev.die srv.1).slot srv.2) 2 [node]
      ((s.dev.canStart i node x = false ∨ s.boundaryClear t.agent = false) → Waits s (.nodestart inst node)) ∧
      (s.dev.NoLines → s.dev.canStart i node x = true → (i.state = 1 ∨ (i.state = 0 ∧ hdrField i.header 0x0E 1 = 0xFF)) →
        (x.field 0 1 = 0 → s.dev.kernelOf t x = some o → i.dies = [d] → d < 8 →
          let g := x.grid i.args
          ∃ u k, goes u ∧ phase u = some .running ∧ u.dev.tasks = s.dev.tasks ++ [k] ∧ k.inst = i.num ∧ k.node = node ∧
            k.obj = o.base ∧ (k.gx, k.gy, k.gz) = g ∧ k.args = (i.args.drop (x.field 0x1C 2)).take (x.field 0x1E 2) ∧
            k.pri = min t.ceiling.toNat (if x.field 2 1 = 0xFF then hdrField i.header 0x0C 1 else x.field 2 1) ∧ k.ended = 0 ∧
            (u.dev.die d).ready.map (·.task) = (s.dev.die d).ready.map (·.task) ++
              List.replicate (if x.field 1 1 = 1 then 1 else g.1 * g.2.1 * g.2.2) k.num) ∧
        (∀ u1 bs key, x.field 0 1 = 1 → i.state = 1 → i.dies = [d] → bs.length = (i.arg (x.field 10 1)).toNat → bs.length ≤ 65536 →
          s1.FwRead { t.agent with die := d } (i.arg (x.field 8 1)) bs u1 →
          u1.FwRoom { t.agent with die := d } (i.arg (x.field 9 1)) bs.length key → s.dev.mem.wf = true →
          ∃ u, goes u ∧ phase u = some .done ∧ u.dev.mem.Holds key bs s.dev.mem))) ∧
  (∀ (s u1 : State) (inst node : Nat) (i : Instance) (x : NodeState) (t : Tent) (bs : List Byte),
      s.dev.instance_ inst = some i → i.node? node = some x → s.dev.tentOf i = some t → s.dev.NoLines → i.replay = none →
      i.code = 0 → bs.length = 8 →
      let srv := s.dev.server i.tid
      let nodeOf (u : State) : Option NodeState := (u.dev.instance_ inst).bind fun j => j.node? node
      let j := i.setNode node { x with phase := .ended }
      (s.dev.starting = true → x.field 0 1 = 3 → x.phase = .running → x.range.2 ≠ 0 → i.levelEnded (some x.range) = true →
        (x.field 0x0C 4 ≤ x.passes → ∃ u, exec (.loopPass inst node) s = .next u ∧
          nodeOf u = some { x with phase := .done } ∧ (u.dev.instance_ inst).map (·.loopcap) = some true ∧ u.dev.mem = s.dev.mem) ∧
        (x.passes < x.field 0x0C 4 → s.FwRead t.agent (i.arg (x.field 8 1)) bs u1 →
          (leNat bs = 0 → ∃ u, exec (.loopPass inst node) s = .next u ∧ nodeOf u = some { x with phase := .done }) ∧
          (leNat bs ≠ 0 → x.field 0x12 2 ≠ 0 → node < x.field 0x10 2 → ∃ u, exec (.loopPass inst node) s = .next u ∧
            nodeOf u = some { x with phase := .running, passes := x.passes + 1, range := (x.field 0x10 2, x.field 0x12 2) } ∧
            ∀ k y, x.field 0x10 2 ≤ k → k < x.field 0x10 2 + x.field 0x12 2 → i.node? k = some y →
              ((u.dev.instance_ inst).bind fun j => j.node? k) = some { y with phase := .idle, passes := 0, range := (0, 0) }))) ∧
      (x.phase ≠ .running → Waits s (.loopPass inst node)) ∧
      ((s.dev.reading = false ∨ s.dev.kicked i.tid = false) → Waits s (.eventNodeTest inst node)) ∧
      (s.dev.reading = true → s.dev.kicked i.tid = true → x.phase = .waiting → x.field 0 1 = 5 → x.field 8 1 = 1 →
        s.FwRead t.agent (i.arg (x.field 9 1)) bs u1 →
        (leNat bs ≠ 0 → ∃ u, exec (.eventNodeTest inst node) s = .next u ∧ nodeOf u = some { x with phase := .done }) ∧
        (leNat bs = 0 → exec (.eventNodeTest inst node) s = .next u1)) ∧
      (x.phase ≠ .waiting → Waits s (.eventNodeTest inst node)) ∧
      (s.dev.nodeDue i node x = false → Waits s (.nodeend inst node)) ∧
      (s.dev.nodeDue i node x = true → s.dev.reading = true → srv.1 < 8 →
        (j.levelEnded none = false → ∃ u, exec (.nodeend inst node) s = .next u ∧ u.dev.instance_ inst = some j ∧
          (∀ k, s.dev.taskOf i.num node = some k → ∀ y ∈ u.dev.tasks, y.num ≠ k.num) ∧ u.dev.mem = s.dev.mem ∧
          ((s.dev.die srv.1).slot srv.2).Logged ((u.dev.die srv.1).slot srv.2) 5 [node]) ∧
        (j.levelEnded none = true → hdrField i.header 0x0E 1 = 0xFF →
          ∃ u, exec (.nodeend inst node) s = .next u ∧ u.dev.instance_ inst = none)))

/-- R399 to R401: three launches that agree predict the next by their common difference. SPECULATION_START completes:
where every condition of R400 holds, the bivouac has room and idle cores are found, the predicted launch stands as a
speculation of its queue and START counts it; where one does not hold, it changes nothing. Whose PREDCTL counts and
that the whole grid starts at once are the model's readings (assumption logs 27 and 30). -/
def Obligations.SpeculationStarts : Prop :=  ∀ (s w : State) (tid q n : Nat) (t : Tent) (e : HistEntry) (o : CodeObj),
    (∀ a b c : Word, predictWord [a, b, c] = if a - b = b - c then some (a + (a - b)) else none) ∧
    (s.dev.tent tid = none → Waits s (.speculationStart tid q n)) ∧
    (s.dev.tent tid = some t → s.dev.predict t q = none → Waits s (.speculationStart tid q n)) ∧
    (s.dev.tent tid = some t → s.dev.predict t q = some (e, o) → s.maySpeculate t q n e o = false →
      Waits s (.speculationStart tid q n)) ∧
    (s.dev.tent tid = some t → t.tid = tid → s.dev.predict t q = some (e, o) → s.maySpeculate t q n e o = true → n < 8 →
      s.dev.bivUsed n + writeLines o ((kernelNode e.kernel).taskArgs e.args) ≤ (s.dev.die n).win.biv.toNat * 16384 →
      (s.speculate t q n e o = none → Waits s (.speculationStart tid q n)) ∧
      (s.speculate t q n e o = some w → exec (.speculationStart tid q n) s = .next w ∧
        (w.dev.die n).win.start = (s.dev.die n).win.start + 1 ∧ ∃ p ∈ w.dev.specs, p.num = s.dev.serial ∧ p.tid = tid ∧
          p.queue = q ∧ p.die = n ∧ p.pri = e.pri ∧ p.kernel = e.kernel ∧ p.args = e.args ∧ p.stale = false ∧ p.ended = false))

/-- R393, R395, R396: a signal that a lane has sent reaches a die of the gang once; a stop is acknowledged once by each
die; the dynamic scheduler takes over when every die has acknowledged and nothing of the instance is under way, which
is a use of its trace. R401 to R404: a speculation that has become stale is discarded at its claim and counted in DRS,
and its launch runs; one that passes puts exactly the bytes it wrote into memory, is counted in CLAIM and ends its
launch. FLUSH of PREDCTL discards those of its die. Whose counters rise is the model's reading (assumption log 27). -/
def Obligations.ReplayAndPrediction : Prop :=
  (∀ (s : State) (inst n : Nat) (sem : BitVec 8) (i : Instance) (r : ReplayState) (tr : Trace), s.dev.instance_ inst = some i →
      i.replay = some r →
      let replayOf (u : State) : Option ReplayState := (u.dev.instance_ inst).bind (·.replay)
      let got := lookupD 0 r.sems (n, sem.toNat)
      (s.dev.traceOf i = none → Waits s (.traceSignal inst n sem)) ∧
      (s.dev.traceOf i = some tr → (tr.sent r sem.toNat ≤ got ∨ r.stopping = true ∨ s.dev.reading = false) →
        Waits s (.traceSignal inst n sem)) ∧
      (s.dev.traceOf i = some tr → got < tr.sent r sem.toNat → r.stopping = false → s.dev.reading = true →
        i.dies.contains n = true → ∃ u r', exec (.traceSignal inst n sem) s = .next u ∧ u.cur = s.cur ∧ u.others = s.others ∧
          u.dev.mem = s.dev.mem ∧ replayOf u = some r' ∧ lookupD 0 r'.sems (n, sem.toNat) = got + 1) ∧
      ((r.stopping = false ∨ n ∈ r.stopped) → Waits s (.replayStop inst n)) ∧
      (r.stopping = true → n ∉ r.stopped → i.dies.contains n = true → ∃ u, exec (.replayStop inst n) s = .next u ∧
        u = s.setDev { s.dev with instances := u.dev.instances } ∧ replayOf u = some { r with stopped := n :: r.stopped }) ∧
      ((r.stopping = false ∨ (∃ d ∈ i.dies, d ∉ r.stopped) ∨ s.dev.unitsUnderWay inst = true) → Waits s (.replayHandover inst)) ∧
      (s.dev.starting = true → r.stopping = true → (∀ d ∈ i.dies, d ∈ r.stopped) → s.dev.unitsUnderWay inst = false →
        ∃ u, exec (.replayHandover inst) s = .next u ∧ u.cur = s.cur ∧ u.others = s.others ∧ u.dev.mem = s.dev.mem ∧
          replayOf u = some { r with replaying := false, stopping := false, pending := [] } ∧
          (r.replaying = true → ∀ tr ∈ s.dev.silo, tr.tid = i.tid → tr.hash = r.hash →
            { tr with lastUse := s.dev.serial } ∈ u.dev.silo))) ∧
  (∀ (s : State) (m : Master) (tid q n : Nat) (t : Tent) (p : Speculation) (i : Instance),
      (s.MayWrite m → (s.dev.specs.map (·.num)).Nodup → ∃ u, exec (.predctlFlush m n) s = .next u ∧
        u.dev.specs = s.dev.specs.filter (fun p => p.die != n) ∧ u.dev.mem = s.dev.mem) ∧
      (s.dev.specs.find? (fun p => p.tid == tid && p.queue == q) = some p → s.dev.tent tid = some t →
        s.dev.instances.find? (fun i => i.tid == tid && i.queue == q && i.claiming) = some i → p.die < 8 →
        (s.dev.specs.map (·.num)).Nodup →
        ((p.ended = false ∨ s.dev.storing = false ∨ s.boundaryClear t.agent = false) → Waits s (.claim tid q)) ∧
        (p.ended = true → s.dev.storing = true → s.dev.NoLines →
          (p.stale = true → ∃ u, exec (.claim tid q) s = .next u ∧ u.dev.mem = s.dev.mem ∧ (∀ x ∈ u.dev.specs, x.num ≠ p.num) ∧
            (u.dev.die p.die).win.drs = (s.dev.die p.die).win.drs + 1 ∧
            (∀ x ∈ u.dev.instances, x.tid = tid → x.queue = q → x.claiming = false)) ∧
          (p.stale = false → s.dev.undoLacks (p.written.map fun a => a / 64) = true → Waits s (.claim tid q)) ∧
          (p.stale = false → s.dev.undoLacks (p.written.map fun a => a / 64) = false → p.units = [] →
            hdrField i.header 0x0E 1 = 0xFF → s.dev.mem.wf = true →
            ∃ u, exec (.claim tid q) s = .next u ∧ u.dev.instance_ i.num = none ∧ (∀ x ∈ u.dev.specs, x.num ≠ p.num) ∧
              (u.dev.die p.die).win.claim = (s.dev.die p.die).win.claim + 1 ∧
              ∀ a, u.dev.mem.get a = if a ∈ p.written then p.writes.get a else s.dev.mem.get a))))

/-! ### The machine -/
/-- What reset leaves where the spec gives a value: no strand and nothing owned, dispatch closed (R436, R440, R441, Table
20-4), no seal begun (R406), and the registers of Tables 15-4, 15-7, 16-5, 17-2, 18-4 and 19-1 with a reset value
other than 0. The choice of which values are given by the spec is the tables'; the others are the model's (assumption
log 6). -/
def Obligations.ResetState : Prop :=  let s := State.reset
  s.cur.resident = false ∧ s.others = [] ∧ s.dev.man.owner = 0 ∧ s.dev.man.frz = 0 ∧ s.dev.man.isOpen = false ∧
  s.dev.checkpoint = none ∧ s.dev.failed = false ∧
  ∀ n < 8, let w := (s.dev.die n).win
    w.hangto = 24 ∧ w.ftimeout = 22 ∧ w.sbto = 22 ∧ w.migthr = 0x1000 ∧ w.dgen = 0x9E3779B9 ∧ w.silo = 1024 ∧ w.biv = 64 ∧
    w.predEn = true

/-- Reset meets the invariants that every step keeps. -/
def Obligations.InvariantsAtReset : Prop := State.reset.dev.Canonical ∧ State.reset.StrandsCanonical

/-- Every step keeps the memory of the device, and what a rollback would restore of it, in its one form: equal memories
are equal data in every state that a run can reach. -/
def Obligations.DeviceMemoryKept : Prop := ∀ (s t : State), s.dev.Canonical → step s = .next t → t.dev.Canonical

/-- Every step keeps the local store, the granary and the tiles of every strand in their one form. -/
def Obligations.StrandMemoryKept : Prop :=  ∀ (s t : State), s.dev.Canonical → s.StrandsCanonical → step s = .next t → t.StrandsCanonical

/-- No instruction and no event stops the machine: each has its effect, stalls, or takes a fault, and a machine then goes
on. R420, R441: a step stops exactly where the fault domain has failed and nothing comes from outside; in FAIL a move
that is no access to the management windows does nothing (that such accesses are answered in FAIL is the model's
reading: assumption log 80). -/
def Obligations.EverythingAnswers : Prop :=  (∀ (i : Instr) (s : State), ∃ t, exec i s = .next t) ∧
  (∀ s : State, step s = .fault .domainFailed ↔ s.dev.failed = true ∧ s.agenda = []) ∧
  (∀ (s : State) (m : Move) (rest : List Move), s.dev.failed = true → s.agenda = m :: rest → m.onWindows = false →
    step s = .next { s with agenda := rest }) ∧
  ∀ s : State, (∃ t, step s = .next t) ∨ step s = .fault .domainFailed

/-- R153, R155, R156, R157, R161, R170, R417: a stream that may run and that no interrupt, pause or deferred fault and no
queue stream's element at a full undo log holds takes the bytes at its place in the body; what they decode to is
executed, but for a job issue that a pre-emption holds back (R344), inside a REP with the fields stepped to this
issue, and an encoding that is not allocated, a header elsewhere than at a block start among them, raises an illegal
encoding. At the header of a block the instruction is its BLK, whose fetch alone counts toward a migration of its page
(R363; the model's choice: assumption log 103). A move of the agenda is executed on the core it names (the model's
order, assumption log 2). -/
def Obligations.StepRunsDecoded : Prop :=  ∀ (s : State) (t : StreamId), s.dev.failed = false →
    (∀ core i rest, s.agenda = .event core i :: rest → step s = exec i (State.switchTo { s with agenda := rest } core)) ∧
    (∀ core rest, s.agenda = .stream core t :: rest →
      step s = withTurn s.turn (runStream { State.switchTo { s with agenda := rest } core with turn := .stream t })) ∧
    (∀ die obj args level rest, s.agenda = .system die obj args level :: rest →
      step s = .next (State.launchSystem { s with agenda := rest } die obj args level)) ∧
    (s.agenda = [] → s.turn = .stream t → s.mayRun = true → s.takesInterrupt = false → s.me.pause = 0 → s.hasDeferred = false →
      (t ≠ .x ∨ s.cur.portable = none) →
      (s.elementFull = true → step s = .next { s.stallOn 7 with turn := s.turn.succ }) ∧
      (s.elementFull = false →
      (∀ ps bs i n, s.me.atHeader = false → s.me.rep = none → s.bodyBytes s.me.pc = (.ok ps, bs) → decodeBytes bs = some (i, n) →
        step s = withTurn s.turn.succ (if s.holdsBack i then .next s else exec i s)) ∧
      (∀ ps bs, s.me.atHeader = false → s.me.rep = none → s.bodyBytes s.me.pc = (.ok ps, bs) → decodeBytes bs = none →
        step s = withTurn s.turn.succ (exec .illegalEncoding s)) ∧
      (∀ r ps bs c i, s.me.atHeader = false → s.me.rep = some r → s.bodyBytes (s.me.pc + 4) = (.ok ps, bs) →
        frameBytes bs = some c → decode (r.code c) = some i → step s = withTurn s.turn.succ (if s.holdsBack i then .next s else exec i s)) ∧
      (∀ ps e c p r l, s.me.atHeader = true → s.isStart s.me.pc = true → s.inObject s.me = true → s.fetchCheck s.me.pc 4 = .ok ps →
        decodeBytes (s.codeBytes ps) = some (.blk e c p r l, 4) → (s.codeBytes ps).length = 4 →
        step s = withTurn s.turn.succ (exec (.blk e c p r l) (s.fetched ps))) ∧
      (s.me.atHeader = true → (s.isStart s.me.pc = false ∨ s.inObject s.me = false) → step s = withTurn s.turn.succ (exec .illegalEncoding s))))

/-- R153, R154 and the encodings of 07 to 12: the decoder reads back, from the first bytes of a list, every instruction
that the encoder writes there, with every operand at every value that its encoding admits, and the length it takes. -/
def Obligations.EncodeDecode : Prop :=  ∀ (i : Instr) (c : Code) (rest : List Byte), encode i = some c → wellFormed i = true →
    decodeBytes (c.toBytes ++ rest) = some (i, c.bytes)

/-- Words written out from the encodings of 07 to 12, one of each major, and what they stand for. -/
def Obligations.DecodedWords : Prop :=  decodeTableWord 32 0x000C5203 = some (.add 4 5 (.reg 6)) ∧
  decodeTableWord 32 0x7F405207 = some (.addImm 4 5 (.imm 0x1FD)) ∧
  decodeTableWord 64 0x123456788000028B = some (.liw 5 0x12345678) ∧
  decodeTableWord 32 0x00847213 = some (.cbLt 4 7 (.off 8)) ∧
  decodeTableWord 32 0x00020017 = some .ret ∧
  decodeTableWord 32 0x0092501B = some (.qdrop 5 9) ∧
  decodeTableWord 32 0x00787F9F = some (.wait 15 15 0 15) ∧
  decodeTableWord 32 0x000E5423 = some (.st 3 5 8 (.imm 0)) ∧
  decodeTableWord 32 0x0CCC23A7 = some (.ldIndexed 3 0 3 6 2 7) ∧
  decodeTableWord 32 0x0086202B = some (.ldq 0 2 3 2 0) ∧
  decodeTableWord 32 0x0090002F = some (.fence 2) ∧
  decodeTableWord 32 0x518A3233 = some (.gfadd 2 2 0 5 3 4) ∧
  decodeTableWord 32 0x54883337 = some (.bararr 2 0 4 3 6) ∧
  decodeTableWord 32 0x008E453B = some (.wenq 10 4 7) ∧
  decodeTableWord 32 0x064C523F = some (.sealw 3 6 5 4) ∧
  decodeTableWord 32 0x06082043 = some (.vadd 0 8 8 24) ∧
  decodeTableWord 32 0x5AA9A0C7 = some (.vfma 1 40 41 42) ∧
  decodeTableWord 64 0x0000100D81440C4B = some (.vhmul 13 0 0 0 3 4 5) ∧
  decodeTableWord 32 0x4490A053 = some (.vcmpLt 0 40 8 9) ∧
  decodeTableWord 32 0x000002DF = some (.brc 5 (.off 0)) ∧
  decodeTableWord 32 0x052A01E3 = some (.pand 3 40 41) ∧
  decodeTableWord 64 0x0001080080080167 = some (.glean 1 1 2 8) ∧
  decodeTableWord 32 0x1266036B = some (.mma 0 1 3 3 6) ∧
  decodeTableWord 32 0x0312036B = some (.mma 0 0 9 8 6) ∧
  decodeTableWord 32 0x021C516F = some (.kld 14 5 2) ∧
  decodeTableWord 32 0x02027473 = some (.jobw 1 7 8) ∧
  decodeTableWord 32 0x000921F7 = some (.rep 1 1 1 3) ∧
  decodeTableWord 32 0x1818027F = some (.blk 1 2 0 3 4)
end

