-- ==== Sys2Proof/Laws/Encoding.lean ====
section
/-!
SUPPORT. The fields that the decoder reads from each frame of Table 7-3 are those the encoder writes there.
-/
namespace Sys2Proof

@[simp] theorem frameScalar_at0 (maj : BitVec 5) (L : BitVec 1) (func : BitVec 9) (b a d : BitVec 5) {lo k : Nat} (h2 : lo + k ≤ 2) :
    BitVec.extractLsb' lo k (frameScalar maj L func b a d) = BitVec.extractLsb' lo k (3#2) := by
  unfold frameScalar
  erw [BitVec.extractLsb'_append_eq_of_add_le (by omega)]

@[simp] theorem frameScalar_at2 (maj : BitVec 5) (L : BitVec 1) (func : BitVec 9) (b a d : BitVec 5) {lo k : Nat} (h1 : 2 ≤ lo) (h2 : lo + k ≤ 7) :
    BitVec.extractLsb' lo k (frameScalar maj L func b a d) = BitVec.extractLsb' (lo - 2) k maj := by
  unfold frameScalar
  erw [BitVec.extractLsb'_append_eq_of_le (by omega)]
  erw [BitVec.extractLsb'_append_eq_of_add_le (by omega)]

@[simp] theorem frameScalar_at7 (maj : BitVec 5) (L : BitVec 1) (func : BitVec 9) (b a d : BitVec 5) {lo k : Nat} (h1 : 7 ≤ lo) (h2 : lo + k ≤ 12) :
    BitVec.extractLsb' lo k (frameScalar maj L func b a d) = BitVec.extractLsb' (lo - 7) k d := by
  unfold frameScalar
  erw [BitVec.extractLsb'_append_eq_of_le (by omega)]
  erw [BitVec.extractLsb'_append_eq_of_le (by omega)]
  erw [BitVec.extractLsb'_append_eq_of_add_le (by omega)]
  congr 1

@[simp] theorem frameScalar_at12 (maj : BitVec 5) (L : BitVec 1) (func : BitVec 9) (b a d : BitVec 5) {lo k : Nat} (h1 : 12 ≤ lo) (h2 : lo + k ≤ 17) :
    BitVec.extractLsb' lo k (frameScalar maj L func b a d) = BitVec.extractLsb' (lo - 12) k a := by
  unfold frameScalar
  erw [BitVec.extractLsb'_append_eq_of_le (by omega)]
  erw [BitVec.extractLsb'_append_eq_of_le (by omega)]
  erw [BitVec.extractLsb'_append_eq_of_le (by omega)]
  erw [BitVec.extractLsb'_append_eq_of_add_le (by omega)]
  congr 1

@[simp] theorem frameScalar_at17 (maj : BitVec 5) (L : BitVec 1) (func : BitVec 9) (b a d : BitVec 5) {lo k : Nat} (h1 : 17 ≤ lo) (h2 : lo + k ≤ 22) :
    BitVec.extractLsb' lo k (frameScalar maj L func b a d) = BitVec.extractLsb' (lo - 17) k b := by
  unfold frameScalar
  erw [BitVec.extractLsb'_append_eq_of_le (by omega)]
  erw [BitVec.extractLsb'_append_eq_of_le (by omega)]
  erw [BitVec.extractLsb'_append_eq_of_le (by omega)]
  erw [BitVec.extractLsb'_append_eq_of_le (by omega)]
  erw [BitVec.extractLsb'_append_eq_of_add_le (by omega)]
  congr 1

@[simp] theorem frameScalar_at22 (maj : BitVec 5) (L : BitVec 1) (func : BitVec 9) (b a d : BitVec 5) {lo k : Nat} (h1 : 22 ≤ lo) (h2 : lo + k ≤ 31) :
    BitVec.extractLsb' lo k (frameScalar maj L func b a d) = BitVec.extractLsb' (lo - 22) k func := by
  unfold frameScalar
  erw [BitVec.extractLsb'_append_eq_of_le (by omega)]
  erw [BitVec.extractLsb'_append_eq_of_le (by omega)]
  erw [BitVec.extractLsb'_append_eq_of_le (by omega)]
  erw [BitVec.extractLsb'_append_eq_of_le (by omega)]
  erw [BitVec.extractLsb'_append_eq_of_le (by omega)]
  erw [BitVec.extractLsb'_append_eq_of_add_le (by omega)]
  congr 1

@[simp] theorem frameScalar_at31 (maj : BitVec 5) (L : BitVec 1) (func : BitVec 9) (b a d : BitVec 5) {lo k : Nat} (h1 : 31 ≤ lo) :
    BitVec.extractLsb' lo k (frameScalar maj L func b a d) = BitVec.extractLsb' (lo - 31) k L := by
  unfold frameScalar
  erw [BitVec.extractLsb'_append_eq_of_le (by omega)]
  erw [BitVec.extractLsb'_append_eq_of_le (by omega)]
  erw [BitVec.extractLsb'_append_eq_of_le (by omega)]
  erw [BitVec.extractLsb'_append_eq_of_le (by omega)]
  erw [BitVec.extractLsb'_append_eq_of_le (by omega)]
  erw [BitVec.extractLsb'_append_eq_of_le (by omega)]
  congr 1

@[simp] theorem frameImm_at0 (L : BitVec 1) (i : BitVec 9) (op a d : BitVec 5) {lo k : Nat} (h2 : lo + k ≤ 2) :
    BitVec.extractLsb' lo k (frameImm L i op a d) = BitVec.extractLsb' lo k (3#2) := by
  unfold frameImm
  erw [BitVec.extractLsb'_append_eq_of_add_le (by omega)]

@[simp] theorem frameImm_at2 (L : BitVec 1) (i : BitVec 9) (op a d : BitVec 5) {lo k : Nat} (h1 : 2 ≤ lo) (h2 : lo + k ≤ 7) :
    BitVec.extractLsb' lo k (frameImm L i op a d) = BitVec.extractLsb' (lo - 2) k (1#5) := by
  unfold frameImm
  erw [BitVec.extractLsb'_append_eq_of_le (by omega)]
  erw [BitVec.extractLsb'_append_eq_of_add_le (by omega)]

@[simp] theorem frameImm_at7 (L : BitVec 1) (i : BitVec 9) (op a d : BitVec 5) {lo k : Nat} (h1 : 7 ≤ lo) (h2 : lo + k ≤ 12) :
    BitVec.extractLsb' lo k (frameImm L i op a d) = BitVec.extractLsb' (lo - 7) k d := by
  unfold frameImm
  erw [BitVec.extractLsb'_append_eq_of_le (by omega)]
  erw [BitVec.extractLsb'_append_eq_of_le (by omega)]
  erw [BitVec.extractLsb'_append_eq_of_add_le (by omega)]
  congr 1

@[simp] theorem frameImm_at12 (L : BitVec 1) (i : BitVec 9) (op a d : BitVec 5) {lo k : Nat} (h1 : 12 ≤ lo) (h2 : lo + k ≤ 17) :
    BitVec.extractLsb' lo k (frameImm L i op a d) = BitVec.extractLsb' (lo - 12) k a := by
  unfold frameImm
  erw [BitVec.extractLsb'_append_eq_of_le (by omega)]
  erw [BitVec.extractLsb'_append_eq_of_le (by omega)]
  erw [BitVec.extractLsb'_append_eq_of_le (by omega)]
  erw [BitVec.extractLsb'_append_eq_of_add_le (by omega)]
  congr 1

@[simp] theorem frameImm_at17 (L : BitVec 1) (i : BitVec 9) (op a d : BitVec 5) {lo k : Nat} (h1 : 17 ≤ lo) (h2 : lo + k ≤ 22) :
    BitVec.extractLsb' lo k (frameImm L i op a d) = BitVec.extractLsb' (lo - 17) k op := by
  unfold frameImm
  erw [BitVec.extractLsb'_append_eq_of_le (by omega)]
  erw [BitVec.extractLsb'_append_eq_of_le (by omega)]
  erw [BitVec.extractLsb'_append_eq_of_le (by omega)]
  erw [BitVec.extractLsb'_append_eq_of_le (by omega)]
  erw [BitVec.extractLsb'_append_eq_of_add_le (by omega)]
  congr 1

@[simp] theorem frameImm_at22 (L : BitVec 1) (i : BitVec 9) (op a d : BitVec 5) {lo k : Nat} (h1 : 22 ≤ lo) (h2 : lo + k ≤ 31) :
    BitVec.extractLsb' lo k (frameImm L i op a d) = BitVec.extractLsb' (lo - 22) k i := by
  unfold frameImm
  erw [BitVec.extractLsb'_append_eq_of_le (by omega)]
  erw [BitVec.extractLsb'_append_eq_of_le (by omega)]
  erw [BitVec.extractLsb'_append_eq_of_le (by omega)]
  erw [BitVec.extractLsb'_append_eq_of_le (by omega)]
  erw [BitVec.extractLsb'_append_eq_of_le (by omega)]
  erw [BitVec.extractLsb'_append_eq_of_add_le (by omega)]
  congr 1

@[simp] theorem frameImm_at31 (L : BitVec 1) (i : BitVec 9) (op a d : BitVec 5) {lo k : Nat} (h1 : 31 ≤ lo) :
    BitVec.extractLsb' lo k (frameImm L i op a d) = BitVec.extractLsb' (lo - 31) k L := by
  unfold frameImm
  erw [BitVec.extractLsb'_append_eq_of_le (by omega)]
  erw [BitVec.extractLsb'_append_eq_of_le (by omega)]
  erw [BitVec.extractLsb'_append_eq_of_le (by omega)]
  erw [BitVec.extractLsb'_append_eq_of_le (by omega)]
  erw [BitVec.extractLsb'_append_eq_of_le (by omega)]
  erw [BitVec.extractLsb'_append_eq_of_le (by omega)]
  congr 1

@[simp] theorem frameLdst_at0 (L : BitVec 1) (i : BitVec 10) (x s : BitVec 1) (z : BitVec 2) (a d : BitVec 5) {lo k : Nat} (h2 : lo + k ≤ 2) :
    BitVec.extractLsb' lo k (frameLdst L i x s z a d) = BitVec.extractLsb' lo k (3#2) := by
  unfold frameLdst
  erw [BitVec.extractLsb'_append_eq_of_add_le (by omega)]

@[simp] theorem frameLdst_at2 (L : BitVec 1) (i : BitVec 10) (x s : BitVec 1) (z : BitVec 2) (a d : BitVec 5) {lo k : Nat} (h1 : 2 ≤ lo) (h2 : lo + k ≤ 7) :
    BitVec.extractLsb' lo k (frameLdst L i x s z a d) = BitVec.extractLsb' (lo - 2) k (8#5) := by
  unfold frameLdst
  erw [BitVec.extractLsb'_append_eq_of_le (by omega)]
  erw [BitVec.extractLsb'_append_eq_of_add_le (by omega)]

@[simp] theorem frameLdst_at7 (L : BitVec 1) (i : BitVec 10) (x s : BitVec 1) (z : BitVec 2) (a d : BitVec 5) {lo k : Nat} (h1 : 7 ≤ lo) (h2 : lo + k ≤ 12) :
    BitVec.extractLsb' lo k (frameLdst L i x s z a d) = BitVec.extractLsb' (lo - 7) k d := by
  unfold frameLdst
  erw [BitVec.extractLsb'_append_eq_of_le (by omega)]
  erw [BitVec.extractLsb'_append_eq_of_le (by omega)]
  erw [BitVec.extractLsb'_append_eq_of_add_le (by omega)]
  congr 1

@[simp] theorem frameLdst_at12 (L : BitVec 1) (i : BitVec 10) (x s : BitVec 1) (z : BitVec 2) (a d : BitVec 5) {lo k : Nat} (h1 : 12 ≤ lo) (h2 : lo + k ≤ 17) :
    BitVec.extractLsb' lo k (frameLdst L i x s z a d) = BitVec.extractLsb' (lo - 12) k a := by
  unfold frameLdst
  erw [BitVec.extractLsb'_append_eq_of_le (by omega)]
  erw [BitVec.extractLsb'_append_eq_of_le (by omega)]
  erw [BitVec.extractLsb'_append_eq_of_le (by omega)]
  erw [BitVec.extractLsb'_append_eq_of_add_le (by omega)]
  congr 1

@[simp] theorem frameLdst_at17 (L : BitVec 1) (i : BitVec 10) (x s : BitVec 1) (z : BitVec 2) (a d : BitVec 5) {lo k : Nat} (h1 : 17 ≤ lo) (h2 : lo + k ≤ 19) :
    BitVec.extractLsb' lo k (frameLdst L i x s z a d) = BitVec.extractLsb' (lo - 17) k z := by
  unfold frameLdst
  erw [BitVec.extractLsb'_append_eq_of_le (by omega)]
  erw [BitVec.extractLsb'_append_eq_of_le (by omega)]
  erw [BitVec.extractLsb'_append_eq_of_le (by omega)]
  erw [BitVec.extractLsb'_append_eq_of_le (by omega)]
  erw [BitVec.extractLsb'_append_eq_of_add_le (by omega)]
  congr 1

@[simp] theorem frameLdst_at19 (L : BitVec 1) (i : BitVec 10) (x s : BitVec 1) (z : BitVec 2) (a d : BitVec 5) {lo k : Nat} (h1 : 19 ≤ lo) (h2 : lo + k ≤ 20) :
    BitVec.extractLsb' lo k (frameLdst L i x s z a d) = BitVec.extractLsb' (lo - 19) k s := by
  unfold frameLdst
  erw [BitVec.extractLsb'_append_eq_of_le (by omega)]
  erw [BitVec.extractLsb'_append_eq_of_le (by omega)]
  erw [BitVec.extractLsb'_append_eq_of_le (by omega)]
  erw [BitVec.extractLsb'_append_eq_of_le (by omega)]
  erw [BitVec.extractLsb'_append_eq_of_le (by omega)]
  erw [BitVec.extractLsb'_append_eq_of_add_le (by omega)]
  congr 1

@[simp] theorem frameLdst_at20 (L : BitVec 1) (i : BitVec 10) (x s : BitVec 1) (z : BitVec 2) (a d : BitVec 5) {lo k : Nat} (h1 : 20 ≤ lo) (h2 : lo + k ≤ 21) :
    BitVec.extractLsb' lo k (frameLdst L i x s z a d) = BitVec.extractLsb' (lo - 20) k x := by
  unfold frameLdst
  erw [BitVec.extractLsb'_append_eq_of_le (by omega)]
  erw [BitVec.extractLsb'_append_eq_of_le (by omega)]
  erw [BitVec.extractLsb'_append_eq_of_le (by omega)]
  erw [BitVec.extractLsb'_append_eq_of_le (by omega)]
  erw [BitVec.extractLsb'_append_eq_of_le (by omega)]
  erw [BitVec.extractLsb'_append_eq_of_le (by omega)]
  erw [BitVec.extractLsb'_append_eq_of_add_le (by omega)]
  congr 1

@[simp] theorem frameLdst_at21 (L : BitVec 1) (i : BitVec 10) (x s : BitVec 1) (z : BitVec 2) (a d : BitVec 5) {lo k : Nat} (h1 : 21 ≤ lo) (h2 : lo + k ≤ 31) :
    BitVec.extractLsb' lo k (frameLdst L i x s z a d) = BitVec.extractLsb' (lo - 21) k i := by
  unfold frameLdst
  erw [BitVec.extractLsb'_append_eq_of_le (by omega)]
  erw [BitVec.extractLsb'_append_eq_of_le (by omega)]
  erw [BitVec.extractLsb'_append_eq_of_le (by omega)]
  erw [BitVec.extractLsb'_append_eq_of_le (by omega)]
  erw [BitVec.extractLsb'_append_eq_of_le (by omega)]
  erw [BitVec.extractLsb'_append_eq_of_le (by omega)]
  erw [BitVec.extractLsb'_append_eq_of_le (by omega)]
  erw [BitVec.extractLsb'_append_eq_of_add_le (by omega)]
  congr 1

@[simp] theorem frameLdst_at31 (L : BitVec 1) (i : BitVec 10) (x s : BitVec 1) (z : BitVec 2) (a d : BitVec 5) {lo k : Nat} (h1 : 31 ≤ lo) :
    BitVec.extractLsb' lo k (frameLdst L i x s z a d) = BitVec.extractLsb' (lo - 31) k L := by
  unfold frameLdst
  erw [BitVec.extractLsb'_append_eq_of_le (by omega)]
  erw [BitVec.extractLsb'_append_eq_of_le (by omega)]
  erw [BitVec.extractLsb'_append_eq_of_le (by omega)]
  erw [BitVec.extractLsb'_append_eq_of_le (by omega)]
  erw [BitVec.extractLsb'_append_eq_of_le (by omega)]
  erw [BitVec.extractLsb'_append_eq_of_le (by omega)]
  erw [BitVec.extractLsb'_append_eq_of_le (by omega)]
  erw [BitVec.extractLsb'_append_eq_of_le (by omega)]
  congr 1

@[simp] theorem frameBranch_at0 (maj : BitVec 5) (L : BitVec 1) (o : BitVec 11) (cond : BitVec 3) (b a : BitVec 5) {lo k : Nat} (h2 : lo + k ≤ 2) :
    BitVec.extractLsb' lo k (frameBranch maj L o cond b a) = BitVec.extractLsb' lo k (3#2) := by
  unfold frameBranch
  erw [BitVec.extractLsb'_append_eq_of_add_le (by omega)]

@[simp] theorem frameBranch_at2 (maj : BitVec 5) (L : BitVec 1) (o : BitVec 11) (cond : BitVec 3) (b a : BitVec 5) {lo k : Nat} (h1 : 2 ≤ lo) (h2 : lo + k ≤ 7) :
    BitVec.extractLsb' lo k (frameBranch maj L o cond b a) = BitVec.extractLsb' (lo - 2) k maj := by
  unfold frameBranch
  erw [BitVec.extractLsb'_append_eq_of_le (by omega)]
  erw [BitVec.extractLsb'_append_eq_of_add_le (by omega)]

@[simp] theorem frameBranch_at7 (maj : BitVec 5) (L : BitVec 1) (o : BitVec 11) (cond : BitVec 3) (b a : BitVec 5) {lo k : Nat} (h1 : 7 ≤ lo) (h2 : lo + k ≤ 12) :
    BitVec.extractLsb' lo k (frameBranch maj L o cond b a) = BitVec.extractLsb' (lo - 7) k a := by
  unfold frameBranch
  erw [BitVec.extractLsb'_append_eq_of_le (by omega)]
  erw [BitVec.extractLsb'_append_eq_of_le (by omega)]
  erw [BitVec.extractLsb'_append_eq_of_add_le (by omega)]
  congr 1

@[simp] theorem frameBranch_at12 (maj : BitVec 5) (L : BitVec 1) (o : BitVec 11) (cond : BitVec 3) (b a : BitVec 5) {lo k : Nat} (h1 : 12 ≤ lo) (h2 : lo + k ≤ 17) :
    BitVec.extractLsb' lo k (frameBranch maj L o cond b a) = BitVec.extractLsb' (lo - 12) k b := by
  unfold frameBranch
  erw [BitVec.extractLsb'_append_eq_of_le (by omega)]
  erw [BitVec.extractLsb'_append_eq_of_le (by omega)]
  erw [BitVec.extractLsb'_append_eq_of_le (by omega)]
  erw [BitVec.extractLsb'_append_eq_of_add_le (by omega)]
  congr 1

@[simp] theorem frameBranch_at17 (maj : BitVec 5) (L : BitVec 1) (o : BitVec 11) (cond : BitVec 3) (b a : BitVec 5) {lo k : Nat} (h1 : 17 ≤ lo) (h2 : lo + k ≤ 20) :
    BitVec.extractLsb' lo k (frameBranch maj L o cond b a) = BitVec.extractLsb' (lo - 17) k cond := by
  unfold frameBranch
  erw [BitVec.extractLsb'_append_eq_of_le (by omega)]
  erw [BitVec.extractLsb'_append_eq_of_le (by omega)]
  erw [BitVec.extractLsb'_append_eq_of_le (by omega)]
  erw [BitVec.extractLsb'_append_eq_of_le (by omega)]
  erw [BitVec.extractLsb'_append_eq_of_add_le (by omega)]
  congr 1

@[simp] theorem frameBranch_at20 (maj : BitVec 5) (L : BitVec 1) (o : BitVec 11) (cond : BitVec 3) (b a : BitVec 5) {lo k : Nat} (h1 : 20 ≤ lo) (h2 : lo + k ≤ 31) :
    BitVec.extractLsb' lo k (frameBranch maj L o cond b a) = BitVec.extractLsb' (lo - 20) k o := by
  unfold frameBranch
  erw [BitVec.extractLsb'_append_eq_of_le (by omega)]
  erw [BitVec.extractLsb'_append_eq_of_le (by omega)]
  erw [BitVec.extractLsb'_append_eq_of_le (by omega)]
  erw [BitVec.extractLsb'_append_eq_of_le (by omega)]
  erw [BitVec.extractLsb'_append_eq_of_le (by omega)]
  erw [BitVec.extractLsb'_append_eq_of_add_le (by omega)]
  congr 1

@[simp] theorem frameBranch_at31 (maj : BitVec 5) (L : BitVec 1) (o : BitVec 11) (cond : BitVec 3) (b a : BitVec 5) {lo k : Nat} (h1 : 31 ≤ lo) :
    BitVec.extractLsb' lo k (frameBranch maj L o cond b a) = BitVec.extractLsb' (lo - 31) k L := by
  unfold frameBranch
  erw [BitVec.extractLsb'_append_eq_of_le (by omega)]
  erw [BitVec.extractLsb'_append_eq_of_le (by omega)]
  erw [BitVec.extractLsb'_append_eq_of_le (by omega)]
  erw [BitVec.extractLsb'_append_eq_of_le (by omega)]
  erw [BitVec.extractLsb'_append_eq_of_le (by omega)]
  erw [BitVec.extractLsb'_append_eq_of_le (by omega)]
  congr 1

@[simp] theorem frameQueue_at0 (n : BitVec 6) (op : BitVec 3) (b q d : BitVec 5) {lo k : Nat} (h2 : lo + k ≤ 2) :
    BitVec.extractLsb' lo k (frameQueue n op b q d) = BitVec.extractLsb' lo k (3#2) := by
  unfold frameQueue
  erw [BitVec.extractLsb'_append_eq_of_add_le (by omega)]

@[simp] theorem frameQueue_at2 (n : BitVec 6) (op : BitVec 3) (b q d : BitVec 5) {lo k : Nat} (h1 : 2 ≤ lo) (h2 : lo + k ≤ 7) :
    BitVec.extractLsb' lo k (frameQueue n op b q d) = BitVec.extractLsb' (lo - 2) k (6#5) := by
  unfold frameQueue
  erw [BitVec.extractLsb'_append_eq_of_le (by omega)]
  erw [BitVec.extractLsb'_append_eq_of_add_le (by omega)]

@[simp] theorem frameQueue_at7 (n : BitVec 6) (op : BitVec 3) (b q d : BitVec 5) {lo k : Nat} (h1 : 7 ≤ lo) (h2 : lo + k ≤ 12) :
    BitVec.extractLsb' lo k (frameQueue n op b q d) = BitVec.extractLsb' (lo - 7) k d := by
  unfold frameQueue
  erw [BitVec.extractLsb'_append_eq_of_le (by omega)]
  erw [BitVec.extractLsb'_append_eq_of_le (by omega)]
  erw [BitVec.extractLsb'_append_eq_of_add_le (by omega)]
  congr 1

@[simp] theorem frameQueue_at12 (n : BitVec 6) (op : BitVec 3) (b q d : BitVec 5) {lo k : Nat} (h1 : 12 ≤ lo) (h2 : lo + k ≤ 17) :
    BitVec.extractLsb' lo k (frameQueue n op b q d) = BitVec.extractLsb' (lo - 12) k q := by
  unfold frameQueue
  erw [BitVec.extractLsb'_append_eq_of_le (by omega)]
  erw [BitVec.extractLsb'_append_eq_of_le (by omega)]
  erw [BitVec.extractLsb'_append_eq_of_le (by omega)]
  erw [BitVec.extractLsb'_append_eq_of_add_le (by omega)]
  congr 1

@[simp] theorem frameQueue_at17 (n : BitVec 6) (op : BitVec 3) (b q d : BitVec 5) {lo k : Nat} (h1 : 17 ≤ lo) (h2 : lo + k ≤ 22) :
    BitVec.extractLsb' lo k (frameQueue n op b q d) = BitVec.extractLsb' (lo - 17) k b := by
  unfold frameQueue
  erw [BitVec.extractLsb'_append_eq_of_le (by omega)]
  erw [BitVec.extractLsb'_append_eq_of_le (by omega)]
  erw [BitVec.extractLsb'_append_eq_of_le (by omega)]
  erw [BitVec.extractLsb'_append_eq_of_le (by omega)]
  erw [BitVec.extractLsb'_append_eq_of_add_le (by omega)]
  congr 1

@[simp] theorem frameQueue_at22 (n : BitVec 6) (op : BitVec 3) (b q d : BitVec 5) {lo k : Nat} (h1 : 22 ≤ lo) (h2 : lo + k ≤ 25) :
    BitVec.extractLsb' lo k (frameQueue n op b q d) = BitVec.extractLsb' (lo - 22) k op := by
  unfold frameQueue
  erw [BitVec.extractLsb'_append_eq_of_le (by omega)]
  erw [BitVec.extractLsb'_append_eq_of_le (by omega)]
  erw [BitVec.extractLsb'_append_eq_of_le (by omega)]
  erw [BitVec.extractLsb'_append_eq_of_le (by omega)]
  erw [BitVec.extractLsb'_append_eq_of_le (by omega)]
  erw [BitVec.extractLsb'_append_eq_of_add_le (by omega)]
  congr 1

@[simp] theorem frameQueue_at25 (n : BitVec 6) (op : BitVec 3) (b q d : BitVec 5) {lo k : Nat} (h1 : 25 ≤ lo) (h2 : lo + k ≤ 31) :
    BitVec.extractLsb' lo k (frameQueue n op b q d) = BitVec.extractLsb' (lo - 25) k n := by
  unfold frameQueue
  erw [BitVec.extractLsb'_append_eq_of_le (by omega)]
  erw [BitVec.extractLsb'_append_eq_of_le (by omega)]
  erw [BitVec.extractLsb'_append_eq_of_le (by omega)]
  erw [BitVec.extractLsb'_append_eq_of_le (by omega)]
  erw [BitVec.extractLsb'_append_eq_of_le (by omega)]
  erw [BitVec.extractLsb'_append_eq_of_le (by omega)]
  erw [BitVec.extractLsb'_append_eq_of_add_le (by omega)]
  congr 1

@[simp] theorem frameQueue_at31 (n : BitVec 6) (op : BitVec 3) (b q d : BitVec 5) {lo k : Nat} (h1 : 31 ≤ lo) :
    BitVec.extractLsb' lo k (frameQueue n op b q d) = BitVec.extractLsb' (lo - 31) k (0#1) := by
  unfold frameQueue
  erw [BitVec.extractLsb'_append_eq_of_le (by omega)]
  erw [BitVec.extractLsb'_append_eq_of_le (by omega)]
  erw [BitVec.extractLsb'_append_eq_of_le (by omega)]
  erw [BitVec.extractLsb'_append_eq_of_le (by omega)]
  erw [BitVec.extractLsb'_append_eq_of_le (by omega)]
  erw [BitVec.extractLsb'_append_eq_of_le (by omega)]
  erw [BitVec.extractLsb'_append_eq_of_le (by omega)]
  congr 1

@[simp] theorem frameSys_at0 (op : BitVec 5) (x : BitVec 19) {lo k : Nat} (h2 : lo + k ≤ 2) :
    BitVec.extractLsb' lo k (frameSys op x) = BitVec.extractLsb' lo k (3#2) := by
  unfold frameSys
  erw [BitVec.extractLsb'_append_eq_of_add_le (by omega)]

@[simp] theorem frameSys_at2 (op : BitVec 5) (x : BitVec 19) {lo k : Nat} (h1 : 2 ≤ lo) (h2 : lo + k ≤ 7) :
    BitVec.extractLsb' lo k (frameSys op x) = BitVec.extractLsb' (lo - 2) k (7#5) := by
  unfold frameSys
  erw [BitVec.extractLsb'_append_eq_of_le (by omega)]
  erw [BitVec.extractLsb'_append_eq_of_add_le (by omega)]

@[simp] theorem frameSys_at7 (op : BitVec 5) (x : BitVec 19) {lo k : Nat} (h1 : 7 ≤ lo) (h2 : lo + k ≤ 26) :
    BitVec.extractLsb' lo k (frameSys op x) = BitVec.extractLsb' (lo - 7) k x := by
  unfold frameSys
  erw [BitVec.extractLsb'_append_eq_of_le (by omega)]
  erw [BitVec.extractLsb'_append_eq_of_le (by omega)]
  erw [BitVec.extractLsb'_append_eq_of_add_le (by omega)]
  congr 1

@[simp] theorem frameSys_at26 (op : BitVec 5) (x : BitVec 19) {lo k : Nat} (h1 : 26 ≤ lo) (h2 : lo + k ≤ 31) :
    BitVec.extractLsb' lo k (frameSys op x) = BitVec.extractLsb' (lo - 26) k op := by
  unfold frameSys
  erw [BitVec.extractLsb'_append_eq_of_le (by omega)]
  erw [BitVec.extractLsb'_append_eq_of_le (by omega)]
  erw [BitVec.extractLsb'_append_eq_of_le (by omega)]
  erw [BitVec.extractLsb'_append_eq_of_add_le (by omega)]
  congr 1

@[simp] theorem frameSys_at31 (op : BitVec 5) (x : BitVec 19) {lo k : Nat} (h1 : 31 ≤ lo) :
    BitVec.extractLsb' lo k (frameSys op x) = BitVec.extractLsb' (lo - 31) k (0#1) := by
  unfold frameSys
  erw [BitVec.extractLsb'_append_eq_of_le (by omega)]
  erw [BitVec.extractLsb'_append_eq_of_le (by omega)]
  erw [BitVec.extractLsb'_append_eq_of_le (by omega)]
  erw [BitVec.extractLsb'_append_eq_of_le (by omega)]
  congr 1

@[simp] theorem frameAtom_at0 (maj : BitVec 5) (s : BitVec 3) (o : BitVec 2) (op : BitVec 4) (z : BitVec 1) (b a d : BitVec 5) {lo k : Nat} (h2 : lo + k ≤ 2) :
    BitVec.extractLsb' lo k (frameAtom maj s o op z b a d) = BitVec.extractLsb' lo k (3#2) := by
  unfold frameAtom
  erw [BitVec.extractLsb'_append_eq_of_add_le (by omega)]

@[simp] theorem frameAtom_at2 (maj : BitVec 5) (s : BitVec 3) (o : BitVec 2) (op : BitVec 4) (z : BitVec 1) (b a d : BitVec 5) {lo k : Nat} (h1 : 2 ≤ lo) (h2 : lo + k ≤ 7) :
    BitVec.extractLsb' lo k (frameAtom maj s o op z b a d) = BitVec.extractLsb' (lo - 2) k maj := by
  unfold frameAtom
  erw [BitVec.extractLsb'_append_eq_of_le (by omega)]
  erw [BitVec.extractLsb'_append_eq_of_add_le (by omega)]

@[simp] theorem frameAtom_at7 (maj : BitVec 5) (s : BitVec 3) (o : BitVec 2) (op : BitVec 4) (z : BitVec 1) (b a d : BitVec 5) {lo k : Nat} (h1 : 7 ≤ lo) (h2 : lo + k ≤ 12) :
    BitVec.extractLsb' lo k (frameAtom maj s o op z b a d) = BitVec.extractLsb' (lo - 7) k d := by
  unfold frameAtom
  erw [BitVec.extractLsb'_append_eq_of_le (by omega)]
  erw [BitVec.extractLsb'_append_eq_of_le (by omega)]
  erw [BitVec.extractLsb'_append_eq_of_add_le (by omega)]
  congr 1

@[simp] theorem frameAtom_at12 (maj : BitVec 5) (s : BitVec 3) (o : BitVec 2) (op : BitVec 4) (z : BitVec 1) (b a d : BitVec 5) {lo k : Nat} (h1 : 12 ≤ lo) (h2 : lo + k ≤ 17) :
    BitVec.extractLsb' lo k (frameAtom maj s o op z b a d) = BitVec.extractLsb' (lo - 12) k a := by
  unfold frameAtom
  erw [BitVec.extractLsb'_append_eq_of_le (by omega)]
  erw [BitVec.extractLsb'_append_eq_of_le (by omega)]
  erw [BitVec.extractLsb'_append_eq_of_le (by omega)]
  erw [BitVec.extractLsb'_append_eq_of_add_le (by omega)]
  congr 1

@[simp] theorem frameAtom_at17 (maj : BitVec 5) (s : BitVec 3) (o : BitVec 2) (op : BitVec 4) (z : BitVec 1) (b a d : BitVec 5) {lo k : Nat} (h1 : 17 ≤ lo) (h2 : lo + k ≤ 22) :
    BitVec.extractLsb' lo k (frameAtom maj s o op z b a d) = BitVec.extractLsb' (lo - 17) k b := by
  unfold frameAtom
  erw [BitVec.extractLsb'_append_eq_of_le (by omega)]
  erw [BitVec.extractLsb'_append_eq_of_le (by omega)]
  erw [BitVec.extractLsb'_append_eq_of_le (by omega)]
  erw [BitVec.extractLsb'_append_eq_of_le (by omega)]
  erw [BitVec.extractLsb'_append_eq_of_add_le (by omega)]
  congr 1

@[simp] theorem frameAtom_at22 (maj : BitVec 5) (s : BitVec 3) (o : BitVec 2) (op : BitVec 4) (z : BitVec 1) (b a d : BitVec 5) {lo k : Nat} (h1 : 22 ≤ lo) (h2 : lo + k ≤ 23) :
    BitVec.extractLsb' lo k (frameAtom maj s o op z b a d) = BitVec.extractLsb' (lo - 22) k z := by
  unfold frameAtom
  erw [BitVec.extractLsb'_append_eq_of_le (by omega)]
  erw [BitVec.extractLsb'_append_eq_of_le (by omega)]
  erw [BitVec.extractLsb'_append_eq_of_le (by omega)]
  erw [BitVec.extractLsb'_append_eq_of_le (by omega)]
  erw [BitVec.extractLsb'_append_eq_of_le (by omega)]
  erw [BitVec.extractLsb'_append_eq_of_add_le (by omega)]
  congr 1

@[simp] theorem frameAtom_at23 (maj : BitVec 5) (s : BitVec 3) (o : BitVec 2) (op : BitVec 4) (z : BitVec 1) (b a d : BitVec 5) {lo k : Nat} (h1 : 23 ≤ lo) (h2 : lo + k ≤ 27) :
    BitVec.extractLsb' lo k (frameAtom maj s o op z b a d) = BitVec.extractLsb' (lo - 23) k op := by
  unfold frameAtom
  erw [BitVec.extractLsb'_append_eq_of_le (by omega)]
  erw [BitVec.extractLsb'_append_eq_of_le (by omega)]
  erw [BitVec.extractLsb'_append_eq_of_le (by omega)]
  erw [BitVec.extractLsb'_append_eq_of_le (by omega)]
  erw [BitVec.extractLsb'_append_eq_of_le (by omega)]
  erw [BitVec.extractLsb'_append_eq_of_le (by omega)]
  erw [BitVec.extractLsb'_append_eq_of_add_le (by omega)]
  congr 1

@[simp] theorem frameAtom_at27 (maj : BitVec 5) (s : BitVec 3) (o : BitVec 2) (op : BitVec 4) (z : BitVec 1) (b a d : BitVec 5) {lo k : Nat} (h1 : 27 ≤ lo) (h2 : lo + k ≤ 29) :
    BitVec.extractLsb' lo k (frameAtom maj s o op z b a d) = BitVec.extractLsb' (lo - 27) k o := by
  unfold frameAtom
  erw [BitVec.extractLsb'_append_eq_of_le (by omega)]
  erw [BitVec.extractLsb'_append_eq_of_le (by omega)]
  erw [BitVec.extractLsb'_append_eq_of_le (by omega)]
  erw [BitVec.extractLsb'_append_eq_of_le (by omega)]
  erw [BitVec.extractLsb'_append_eq_of_le (by omega)]
  erw [BitVec.extractLsb'_append_eq_of_le (by omega)]
  erw [BitVec.extractLsb'_append_eq_of_le (by omega)]
  erw [BitVec.extractLsb'_append_eq_of_add_le (by omega)]
  congr 1

@[simp] theorem frameAtom_at29 (maj : BitVec 5) (s : BitVec 3) (o : BitVec 2) (op : BitVec 4) (z : BitVec 1) (b a d : BitVec 5) {lo k : Nat} (h1 : 29 ≤ lo) :
    BitVec.extractLsb' lo k (frameAtom maj s o op z b a d) = BitVec.extractLsb' (lo - 29) k s := by
  unfold frameAtom
  erw [BitVec.extractLsb'_append_eq_of_le (by omega)]
  erw [BitVec.extractLsb'_append_eq_of_le (by omega)]
  erw [BitVec.extractLsb'_append_eq_of_le (by omega)]
  erw [BitVec.extractLsb'_append_eq_of_le (by omega)]
  erw [BitVec.extractLsb'_append_eq_of_le (by omega)]
  erw [BitVec.extractLsb'_append_eq_of_le (by omega)]
  erw [BitVec.extractLsb'_append_eq_of_le (by omega)]
  erw [BitVec.extractLsb'_append_eq_of_le (by omega)]
  congr 1

@[simp] theorem frameVec_at0 (maj : BitVec 5) (func : BitVec 4) (b a d : BitVec 6) (g : BitVec 3) {lo k : Nat} (h2 : lo + k ≤ 2) :
    BitVec.extractLsb' lo k (frameVec maj func b a d g) = BitVec.extractLsb' lo k (3#2) := by
  unfold frameVec
  erw [BitVec.extractLsb'_append_eq_of_add_le (by omega)]

@[simp] theorem frameVec_at2 (maj : BitVec 5) (func : BitVec 4) (b a d : BitVec 6) (g : BitVec 3) {lo k : Nat} (h1 : 2 ≤ lo) (h2 : lo + k ≤ 7) :
    BitVec.extractLsb' lo k (frameVec maj func b a d g) = BitVec.extractLsb' (lo - 2) k maj := by
  unfold frameVec
  erw [BitVec.extractLsb'_append_eq_of_le (by omega)]
  erw [BitVec.extractLsb'_append_eq_of_add_le (by omega)]

@[simp] theorem frameVec_at7 (maj : BitVec 5) (func : BitVec 4) (b a d : BitVec 6) (g : BitVec 3) {lo k : Nat} (h1 : 7 ≤ lo) (h2 : lo + k ≤ 10) :
    BitVec.extractLsb' lo k (frameVec maj func b a d g) = BitVec.extractLsb' (lo - 7) k g := by
  unfold frameVec
  erw [BitVec.extractLsb'_append_eq_of_le (by omega)]
  erw [BitVec.extractLsb'_append_eq_of_le (by omega)]
  erw [BitVec.extractLsb'_append_eq_of_add_le (by omega)]
  congr 1

@[simp] theorem frameVec_at10 (maj : BitVec 5) (func : BitVec 4) (b a d : BitVec 6) (g : BitVec 3) {lo k : Nat} (h1 : 10 ≤ lo) (h2 : lo + k ≤ 16) :
    BitVec.extractLsb' lo k (frameVec maj func b a d g) = BitVec.extractLsb' (lo - 10) k d := by
  unfold frameVec
  erw [BitVec.extractLsb'_append_eq_of_le (by omega)]
  erw [BitVec.extractLsb'_append_eq_of_le (by omega)]
  erw [BitVec.extractLsb'_append_eq_of_le (by omega)]
  erw [BitVec.extractLsb'_append_eq_of_add_le (by omega)]
  congr 1

@[simp] theorem frameVec_at16 (maj : BitVec 5) (func : BitVec 4) (b a d : BitVec 6) (g : BitVec 3) {lo k : Nat} (h1 : 16 ≤ lo) (h2 : lo + k ≤ 22) :
    BitVec.extractLsb' lo k (frameVec maj func b a d g) = BitVec.extractLsb' (lo - 16) k a := by
  unfold frameVec
  erw [BitVec.extractLsb'_append_eq_of_le (by omega)]
  erw [BitVec.extractLsb'_append_eq_of_le (by omega)]
  erw [BitVec.extractLsb'_append_eq_of_le (by omega)]
  erw [BitVec.extractLsb'_append_eq_of_le (by omega)]
  erw [BitVec.extractLsb'_append_eq_of_add_le (by omega)]
  congr 1

@[simp] theorem frameVec_at22 (maj : BitVec 5) (func : BitVec 4) (b a d : BitVec 6) (g : BitVec 3) {lo k : Nat} (h1 : 22 ≤ lo) (h2 : lo + k ≤ 28) :
    BitVec.extractLsb' lo k (frameVec maj func b a d g) = BitVec.extractLsb' (lo - 22) k b := by
  unfold frameVec
  erw [BitVec.extractLsb'_append_eq_of_le (by omega)]
  erw [BitVec.extractLsb'_append_eq_of_le (by omega)]
  erw [BitVec.extractLsb'_append_eq_of_le (by omega)]
  erw [BitVec.extractLsb'_append_eq_of_le (by omega)]
  erw [BitVec.extractLsb'_append_eq_of_le (by omega)]
  erw [BitVec.extractLsb'_append_eq_of_add_le (by omega)]
  congr 1

@[simp] theorem frameVec_at28 (maj : BitVec 5) (func : BitVec 4) (b a d : BitVec 6) (g : BitVec 3) {lo k : Nat} (h1 : 28 ≤ lo) :
    BitVec.extractLsb' lo k (frameVec maj func b a d g) = BitVec.extractLsb' (lo - 28) k func := by
  unfold frameVec
  erw [BitVec.extractLsb'_append_eq_of_le (by omega)]
  erw [BitVec.extractLsb'_append_eq_of_le (by omega)]
  erw [BitVec.extractLsb'_append_eq_of_le (by omega)]
  erw [BitVec.extractLsb'_append_eq_of_le (by omega)]
  erw [BitVec.extractLsb'_append_eq_of_le (by omega)]
  erw [BitVec.extractLsb'_append_eq_of_le (by omega)]
  congr 1

@[simp] theorem frameCmp_at0 (L : BitVec 1) (cond : BitVec 2) (b a : BitVec 6) (p : BitVec 7) (g : BitVec 3) {lo k : Nat} (h2 : lo + k ≤ 2) :
    BitVec.extractLsb' lo k (frameCmp L cond b a p g) = BitVec.extractLsb' lo k (3#2) := by
  unfold frameCmp
  erw [BitVec.extractLsb'_append_eq_of_add_le (by omega)]

@[simp] theorem frameCmp_at2 (L : BitVec 1) (cond : BitVec 2) (b a : BitVec 6) (p : BitVec 7) (g : BitVec 3) {lo k : Nat} (h1 : 2 ≤ lo) (h2 : lo + k ≤ 7) :
    BitVec.extractLsb' lo k (frameCmp L cond b a p g) = BitVec.extractLsb' (lo - 2) k (20#5) := by
  unfold frameCmp
  erw [BitVec.extractLsb'_append_eq_of_le (by omega)]
  erw [BitVec.extractLsb'_append_eq_of_add_le (by omega)]

@[simp] theorem frameCmp_at7 (L : BitVec 1) (cond : BitVec 2) (b a : BitVec 6) (p : BitVec 7) (g : BitVec 3) {lo k : Nat} (h1 : 7 ≤ lo) (h2 : lo + k ≤ 10) :
    BitVec.extractLsb' lo k (frameCmp L cond b a p g) = BitVec.extractLsb' (lo - 7) k g := by
  unfold frameCmp
  erw [BitVec.extractLsb'_append_eq_of_le (by omega)]
  erw [BitVec.extractLsb'_append_eq_of_le (by omega)]
  erw [BitVec.extractLsb'_append_eq_of_add_le (by omega)]
  congr 1

@[simp] theorem frameCmp_at10 (L : BitVec 1) (cond : BitVec 2) (b a : BitVec 6) (p : BitVec 7) (g : BitVec 3) {lo k : Nat} (h1 : 10 ≤ lo) (h2 : lo + k ≤ 17) :
    BitVec.extractLsb' lo k (frameCmp L cond b a p g) = BitVec.extractLsb' (lo - 10) k p := by
  unfold frameCmp
  erw [BitVec.extractLsb'_append_eq_of_le (by omega)]
  erw [BitVec.extractLsb'_append_eq_of_le (by omega)]
  erw [BitVec.extractLsb'_append_eq_of_le (by omega)]
  erw [BitVec.extractLsb'_append_eq_of_add_le (by omega)]
  congr 1

@[simp] theorem frameCmp_at17 (L : BitVec 1) (cond : BitVec 2) (b a : BitVec 6) (p : BitVec 7) (g : BitVec 3) {lo k : Nat} (h1 : 17 ≤ lo) (h2 : lo + k ≤ 23) :
    BitVec.extractLsb' lo k (frameCmp L cond b a p g) = BitVec.extractLsb' (lo - 17) k a := by
  unfold frameCmp
  erw [BitVec.extractLsb'_append_eq_of_le (by omega)]
  erw [BitVec.extractLsb'_append_eq_of_le (by omega)]
  erw [BitVec.extractLsb'_append_eq_of_le (by omega)]
  erw [BitVec.extractLsb'_append_eq_of_le (by omega)]
  erw [BitVec.extractLsb'_append_eq_of_add_le (by omega)]
  congr 1

@[simp] theorem frameCmp_at23 (L : BitVec 1) (cond : BitVec 2) (b a : BitVec 6) (p : BitVec 7) (g : BitVec 3) {lo k : Nat} (h1 : 23 ≤ lo) (h2 : lo + k ≤ 29) :
    BitVec.extractLsb' lo k (frameCmp L cond b a p g) = BitVec.extractLsb' (lo - 23) k b := by
  unfold frameCmp
  erw [BitVec.extractLsb'_append_eq_of_le (by omega)]
  erw [BitVec.extractLsb'_append_eq_of_le (by omega)]
  erw [BitVec.extractLsb'_append_eq_of_le (by omega)]
  erw [BitVec.extractLsb'_append_eq_of_le (by omega)]
  erw [BitVec.extractLsb'_append_eq_of_le (by omega)]
  erw [BitVec.extractLsb'_append_eq_of_add_le (by omega)]
  congr 1

@[simp] theorem frameCmp_at29 (L : BitVec 1) (cond : BitVec 2) (b a : BitVec 6) (p : BitVec 7) (g : BitVec 3) {lo k : Nat} (h1 : 29 ≤ lo) (h2 : lo + k ≤ 31) :
    BitVec.extractLsb' lo k (frameCmp L cond b a p g) = BitVec.extractLsb' (lo - 29) k cond := by
  unfold frameCmp
  erw [BitVec.extractLsb'_append_eq_of_le (by omega)]
  erw [BitVec.extractLsb'_append_eq_of_le (by omega)]
  erw [BitVec.extractLsb'_append_eq_of_le (by omega)]
  erw [BitVec.extractLsb'_append_eq_of_le (by omega)]
  erw [BitVec.extractLsb'_append_eq_of_le (by omega)]
  erw [BitVec.extractLsb'_append_eq_of_le (by omega)]
  erw [BitVec.extractLsb'_append_eq_of_add_le (by omega)]
  congr 1

@[simp] theorem frameCmp_at31 (L : BitVec 1) (cond : BitVec 2) (b a : BitVec 6) (p : BitVec 7) (g : BitVec 3) {lo k : Nat} (h1 : 31 ≤ lo) :
    BitVec.extractLsb' lo k (frameCmp L cond b a p g) = BitVec.extractLsb' (lo - 31) k L := by
  unfold frameCmp
  erw [BitVec.extractLsb'_append_eq_of_le (by omega)]
  erw [BitVec.extractLsb'_append_eq_of_le (by omega)]
  erw [BitVec.extractLsb'_append_eq_of_le (by omega)]
  erw [BitVec.extractLsb'_append_eq_of_le (by omega)]
  erw [BitVec.extractLsb'_append_eq_of_le (by omega)]
  erw [BitVec.extractLsb'_append_eq_of_le (by omega)]
  erw [BitVec.extractLsb'_append_eq_of_le (by omega)]
  congr 1

@[simp] theorem framePred_at0 (func : BitVec 4) (b a d : BitVec 7) {lo k : Nat} (h2 : lo + k ≤ 2) :
    BitVec.extractLsb' lo k (framePred func b a d) = BitVec.extractLsb' lo k (3#2) := by
  unfold framePred
  erw [BitVec.extractLsb'_append_eq_of_add_le (by omega)]

@[simp] theorem framePred_at2 (func : BitVec 4) (b a d : BitVec 7) {lo k : Nat} (h1 : 2 ≤ lo) (h2 : lo + k ≤ 7) :
    BitVec.extractLsb' lo k (framePred func b a d) = BitVec.extractLsb' (lo - 2) k (24#5) := by
  unfold framePred
  erw [BitVec.extractLsb'_append_eq_of_le (by omega)]
  erw [BitVec.extractLsb'_append_eq_of_add_le (by omega)]

@[simp] theorem framePred_at7 (func : BitVec 4) (b a d : BitVec 7) {lo k : Nat} (h1 : 7 ≤ lo) (h2 : lo + k ≤ 14) :
    BitVec.extractLsb' lo k (framePred func b a d) = BitVec.extractLsb' (lo - 7) k d := by
  unfold framePred
  erw [BitVec.extractLsb'_append_eq_of_le (by omega)]
  erw [BitVec.extractLsb'_append_eq_of_le (by omega)]
  erw [BitVec.extractLsb'_append_eq_of_add_le (by omega)]
  congr 1

@[simp] theorem framePred_at14 (func : BitVec 4) (b a d : BitVec 7) {lo k : Nat} (h1 : 14 ≤ lo) (h2 : lo + k ≤ 21) :
    BitVec.extractLsb' lo k (framePred func b a d) = BitVec.extractLsb' (lo - 14) k a := by
  unfold framePred
  erw [BitVec.extractLsb'_append_eq_of_le (by omega)]
  erw [BitVec.extractLsb'_append_eq_of_le (by omega)]
  erw [BitVec.extractLsb'_append_eq_of_le (by omega)]
  erw [BitVec.extractLsb'_append_eq_of_add_le (by omega)]
  congr 1

@[simp] theorem framePred_at21 (func : BitVec 4) (b a d : BitVec 7) {lo k : Nat} (h1 : 21 ≤ lo) (h2 : lo + k ≤ 28) :
    BitVec.extractLsb' lo k (framePred func b a d) = BitVec.extractLsb' (lo - 21) k b := by
  unfold framePred
  erw [BitVec.extractLsb'_append_eq_of_le (by omega)]
  erw [BitVec.extractLsb'_append_eq_of_le (by omega)]
  erw [BitVec.extractLsb'_append_eq_of_le (by omega)]
  erw [BitVec.extractLsb'_append_eq_of_le (by omega)]
  erw [BitVec.extractLsb'_append_eq_of_add_le (by omega)]
  congr 1

@[simp] theorem framePred_at28 (func : BitVec 4) (b a d : BitVec 7) {lo k : Nat} (h1 : 28 ≤ lo) :
    BitVec.extractLsb' lo k (framePred func b a d) = BitVec.extractLsb' (lo - 28) k func := by
  unfold framePred
  erw [BitVec.extractLsb'_append_eq_of_le (by omega)]
  erw [BitVec.extractLsb'_append_eq_of_le (by omega)]
  erw [BitVec.extractLsb'_append_eq_of_le (by omega)]
  erw [BitVec.extractLsb'_append_eq_of_le (by omega)]
  erw [BitVec.extractLsb'_append_eq_of_le (by omega)]
  congr 1

@[simp] theorem frameJob_at0 (maj : BitVec 5) (L : BitVec 1) (u m : BitVec 1) (op : BitVec 3) (fb fa : BitVec 4) (a d : BitVec 5) {lo k : Nat} (h2 : lo + k ≤ 2) :
    BitVec.extractLsb' lo k (frameJob maj L u m op fb fa a d) = BitVec.extractLsb' lo k (3#2) := by
  unfold frameJob
  erw [BitVec.extractLsb'_append_eq_of_add_le (by omega)]

@[simp] theorem frameJob_at2 (maj : BitVec 5) (L : BitVec 1) (u m : BitVec 1) (op : BitVec 3) (fb fa : BitVec 4) (a d : BitVec 5) {lo k : Nat} (h1 : 2 ≤ lo) (h2 : lo + k ≤ 7) :
    BitVec.extractLsb' lo k (frameJob maj L u m op fb fa a d) = BitVec.extractLsb' (lo - 2) k maj := by
  unfold frameJob
  erw [BitVec.extractLsb'_append_eq_of_le (by omega)]
  erw [BitVec.extractLsb'_append_eq_of_add_le (by omega)]

@[simp] theorem frameJob_at7 (maj : BitVec 5) (L : BitVec 1) (u m : BitVec 1) (op : BitVec 3) (fb fa : BitVec 4) (a d : BitVec 5) {lo k : Nat} (h1 : 7 ≤ lo) (h2 : lo + k ≤ 12) :
    BitVec.extractLsb' lo k (frameJob maj L u m op fb fa a d) = BitVec.extractLsb' (lo - 7) k d := by
  unfold frameJob
  erw [BitVec.extractLsb'_append_eq_of_le (by omega)]
  erw [BitVec.extractLsb'_append_eq_of_le (by omega)]
  erw [BitVec.extractLsb'_append_eq_of_add_le (by omega)]
  congr 1

@[simp] theorem frameJob_at12 (maj : BitVec 5) (L : BitVec 1) (u m : BitVec 1) (op : BitVec 3) (fb fa : BitVec 4) (a d : BitVec 5) {lo k : Nat} (h1 : 12 ≤ lo) (h2 : lo + k ≤ 17) :
    BitVec.extractLsb' lo k (frameJob maj L u m op fb fa a d) = BitVec.extractLsb' (lo - 12) k a := by
  unfold frameJob
  erw [BitVec.extractLsb'_append_eq_of_le (by omega)]
  erw [BitVec.extractLsb'_append_eq_of_le (by omega)]
  erw [BitVec.extractLsb'_append_eq_of_le (by omega)]
  erw [BitVec.extractLsb'_append_eq_of_add_le (by omega)]
  congr 1

@[simp] theorem frameJob_at17 (maj : BitVec 5) (L : BitVec 1) (u m : BitVec 1) (op : BitVec 3) (fb fa : BitVec 4) (a d : BitVec 5) {lo k : Nat} (h1 : 17 ≤ lo) (h2 : lo + k ≤ 21) :
    BitVec.extractLsb' lo k (frameJob maj L u m op fb fa a d) = BitVec.extractLsb' (lo - 17) k fa := by
  unfold frameJob
  erw [BitVec.extractLsb'_append_eq_of_le (by omega)]
  erw [BitVec.extractLsb'_append_eq_of_le (by omega)]
  erw [BitVec.extractLsb'_append_eq_of_le (by omega)]
  erw [BitVec.extractLsb'_append_eq_of_le (by omega)]
  erw [BitVec.extractLsb'_append_eq_of_add_le (by omega)]
  congr 1

@[simp] theorem frameJob_at21 (maj : BitVec 5) (L : BitVec 1) (u m : BitVec 1) (op : BitVec 3) (fb fa : BitVec 4) (a d : BitVec 5) {lo k : Nat} (h1 : 21 ≤ lo) (h2 : lo + k ≤ 25) :
    BitVec.extractLsb' lo k (frameJob maj L u m op fb fa a d) = BitVec.extractLsb' (lo - 21) k fb := by
  unfold frameJob
  erw [BitVec.extractLsb'_append_eq_of_le (by omega)]
  erw [BitVec.extractLsb'_append_eq_of_le (by omega)]
  erw [BitVec.extractLsb'_append_eq_of_le (by omega)]
  erw [BitVec.extractLsb'_append_eq_of_le (by omega)]
  erw [BitVec.extractLsb'_append_eq_of_le (by omega)]
  erw [BitVec.extractLsb'_append_eq_of_add_le (by omega)]
  congr 1

@[simp] theorem frameJob_at25 (maj : BitVec 5) (L : BitVec 1) (u m : BitVec 1) (op : BitVec 3) (fb fa : BitVec 4) (a d : BitVec 5) {lo k : Nat} (h1 : 25 ≤ lo) (h2 : lo + k ≤ 28) :
    BitVec.extractLsb' lo k (frameJob maj L u m op fb fa a d) = BitVec.extractLsb' (lo - 25) k op := by
  unfold frameJob
  erw [BitVec.extractLsb'_append_eq_of_le (by omega)]
  erw [BitVec.extractLsb'_append_eq_of_le (by omega)]
  erw [BitVec.extractLsb'_append_eq_of_le (by omega)]
  erw [BitVec.extractLsb'_append_eq_of_le (by omega)]
  erw [BitVec.extractLsb'_append_eq_of_le (by omega)]
  erw [BitVec.extractLsb'_append_eq_of_le (by omega)]
  erw [BitVec.extractLsb'_append_eq_of_add_le (by omega)]
  congr 1

@[simp] theorem frameJob_at28 (maj : BitVec 5) (L : BitVec 1) (u m : BitVec 1) (op : BitVec 3) (fb fa : BitVec 4) (a d : BitVec 5) {lo k : Nat} (h1 : 28 ≤ lo) (h2 : lo + k ≤ 29) :
    BitVec.extractLsb' lo k (frameJob maj L u m op fb fa a d) = BitVec.extractLsb' (lo - 28) k m := by
  unfold frameJob
  erw [BitVec.extractLsb'_append_eq_of_le (by omega)]
  erw [BitVec.extractLsb'_append_eq_of_le (by omega)]
  erw [BitVec.extractLsb'_append_eq_of_le (by omega)]
  erw [BitVec.extractLsb'_append_eq_of_le (by omega)]
  erw [BitVec.extractLsb'_append_eq_of_le (by omega)]
  erw [BitVec.extractLsb'_append_eq_of_le (by omega)]
  erw [BitVec.extractLsb'_append_eq_of_le (by omega)]
  erw [BitVec.extractLsb'_append_eq_of_add_le (by omega)]
  congr 1

@[simp] theorem frameJob_at29 (maj : BitVec 5) (L : BitVec 1) (u m : BitVec 1) (op : BitVec 3) (fb fa : BitVec 4) (a d : BitVec 5) {lo k : Nat} (h1 : 29 ≤ lo) (h2 : lo + k ≤ 30) :
    BitVec.extractLsb' lo k (frameJob maj L u m op fb fa a d) = BitVec.extractLsb' (lo - 29) k u := by
  unfold frameJob
  erw [BitVec.extractLsb'_append_eq_of_le (by omega)]
  erw [BitVec.extractLsb'_append_eq_of_le (by omega)]
  erw [BitVec.extractLsb'_append_eq_of_le (by omega)]
  erw [BitVec.extractLsb'_append_eq_of_le (by omega)]
  erw [BitVec.extractLsb'_append_eq_of_le (by omega)]
  erw [BitVec.extractLsb'_append_eq_of_le (by omega)]
  erw [BitVec.extractLsb'_append_eq_of_le (by omega)]
  erw [BitVec.extractLsb'_append_eq_of_le (by omega)]
  erw [BitVec.extractLsb'_append_eq_of_add_le (by omega)]
  congr 1

@[simp] theorem frameJob_at30 (maj : BitVec 5) (L : BitVec 1) (u m : BitVec 1) (op : BitVec 3) (fb fa : BitVec 4) (a d : BitVec 5) {lo k : Nat} (h1 : 30 ≤ lo) (h2 : lo + k ≤ 31) :
    BitVec.extractLsb' lo k (frameJob maj L u m op fb fa a d) = BitVec.extractLsb' (lo - 30) k (0#1) := by
  unfold frameJob
  erw [BitVec.extractLsb'_append_eq_of_le (by omega)]
  erw [BitVec.extractLsb'_append_eq_of_le (by omega)]
  erw [BitVec.extractLsb'_append_eq_of_le (by omega)]
  erw [BitVec.extractLsb'_append_eq_of_le (by omega)]
  erw [BitVec.extractLsb'_append_eq_of_le (by omega)]
  erw [BitVec.extractLsb'_append_eq_of_le (by omega)]
  erw [BitVec.extractLsb'_append_eq_of_le (by omega)]
  erw [BitVec.extractLsb'_append_eq_of_le (by omega)]
  erw [BitVec.extractLsb'_append_eq_of_le (by omega)]
  erw [BitVec.extractLsb'_append_eq_of_add_le (by omega)]
  congr 1

@[simp] theorem frameJob_at31 (maj : BitVec 5) (L : BitVec 1) (u m : BitVec 1) (op : BitVec 3) (fb fa : BitVec 4) (a d : BitVec 5) {lo k : Nat} (h1 : 31 ≤ lo) :
    BitVec.extractLsb' lo k (frameJob maj L u m op fb fa a d) = BitVec.extractLsb' (lo - 31) k L := by
  unfold frameJob
  erw [BitVec.extractLsb'_append_eq_of_le (by omega)]
  erw [BitVec.extractLsb'_append_eq_of_le (by omega)]
  erw [BitVec.extractLsb'_append_eq_of_le (by omega)]
  erw [BitVec.extractLsb'_append_eq_of_le (by omega)]
  erw [BitVec.extractLsb'_append_eq_of_le (by omega)]
  erw [BitVec.extractLsb'_append_eq_of_le (by omega)]
  erw [BitVec.extractLsb'_append_eq_of_le (by omega)]
  erw [BitVec.extractLsb'_append_eq_of_le (by omega)]
  erw [BitVec.extractLsb'_append_eq_of_le (by omega)]
  erw [BitVec.extractLsb'_append_eq_of_le (by omega)]
  congr 1

@[simp] theorem frameHint_at0 (L : BitVec 1) (h : BitVec 14) (a d : BitVec 5) {lo k : Nat} (h2 : lo + k ≤ 2) :
    BitVec.extractLsb' lo k (frameHint L h a d) = BitVec.extractLsb' lo k (3#2) := by
  unfold frameHint
  erw [BitVec.extractLsb'_append_eq_of_add_le (by omega)]

@[simp] theorem frameHint_at2 (L : BitVec 1) (h : BitVec 14) (a d : BitVec 5) {lo k : Nat} (h1 : 2 ≤ lo) (h2 : lo + k ≤ 7) :
    BitVec.extractLsb' lo k (frameHint L h a d) = BitVec.extractLsb' (lo - 2) k (30#5) := by
  unfold frameHint
  erw [BitVec.extractLsb'_append_eq_of_le (by omega)]
  erw [BitVec.extractLsb'_append_eq_of_add_le (by omega)]

@[simp] theorem frameHint_at7 (L : BitVec 1) (h : BitVec 14) (a d : BitVec 5) {lo k : Nat} (h1 : 7 ≤ lo) (h2 : lo + k ≤ 12) :
    BitVec.extractLsb' lo k (frameHint L h a d) = BitVec.extractLsb' (lo - 7) k d := by
  unfold frameHint
  erw [BitVec.extractLsb'_append_eq_of_le (by omega)]
  erw [BitVec.extractLsb'_append_eq_of_le (by omega)]
  erw [BitVec.extractLsb'_append_eq_of_add_le (by omega)]
  congr 1

@[simp] theorem frameHint_at12 (L : BitVec 1) (h : BitVec 14) (a d : BitVec 5) {lo k : Nat} (h1 : 12 ≤ lo) (h2 : lo + k ≤ 17) :
    BitVec.extractLsb' lo k (frameHint L h a d) = BitVec.extractLsb' (lo - 12) k a := by
  unfold frameHint
  erw [BitVec.extractLsb'_append_eq_of_le (by omega)]
  erw [BitVec.extractLsb'_append_eq_of_le (by omega)]
  erw [BitVec.extractLsb'_append_eq_of_le (by omega)]
  erw [BitVec.extractLsb'_append_eq_of_add_le (by omega)]
  congr 1

@[simp] theorem frameHint_at17 (L : BitVec 1) (h : BitVec 14) (a d : BitVec 5) {lo k : Nat} (h1 : 17 ≤ lo) (h2 : lo + k ≤ 31) :
    BitVec.extractLsb' lo k (frameHint L h a d) = BitVec.extractLsb' (lo - 17) k h := by
  unfold frameHint
  erw [BitVec.extractLsb'_append_eq_of_le (by omega)]
  erw [BitVec.extractLsb'_append_eq_of_le (by omega)]
  erw [BitVec.extractLsb'_append_eq_of_le (by omega)]
  erw [BitVec.extractLsb'_append_eq_of_le (by omega)]
  erw [BitVec.extractLsb'_append_eq_of_add_le (by omega)]
  congr 1

@[simp] theorem frameHint_at31 (L : BitVec 1) (h : BitVec 14) (a d : BitVec 5) {lo k : Nat} (h1 : 31 ≤ lo) :
    BitVec.extractLsb' lo k (frameHint L h a d) = BitVec.extractLsb' (lo - 31) k L := by
  unfold frameHint
  erw [BitVec.extractLsb'_append_eq_of_le (by omega)]
  erw [BitVec.extractLsb'_append_eq_of_le (by omega)]
  erw [BitVec.extractLsb'_append_eq_of_le (by omega)]
  erw [BitVec.extractLsb'_append_eq_of_le (by omega)]
  erw [BitVec.extractLsb'_append_eq_of_le (by omega)]
  congr 1

@[simp] theorem frameBlk_at0 (e : BitVec 1) (c : BitVec 2) (p : BitVec 1) (r : BitVec 6) (l : BitVec 12) {lo k : Nat} (h2 : lo + k ≤ 2) :
    BitVec.extractLsb' lo k (frameBlk e c p r l) = BitVec.extractLsb' lo k (3#2) := by
  unfold frameBlk
  erw [BitVec.extractLsb'_append_eq_of_add_le (by omega)]

@[simp] theorem frameBlk_at2 (e : BitVec 1) (c : BitVec 2) (p : BitVec 1) (r : BitVec 6) (l : BitVec 12) {lo k : Nat} (h1 : 2 ≤ lo) (h2 : lo + k ≤ 7) :
    BitVec.extractLsb' lo k (frameBlk e c p r l) = BitVec.extractLsb' (lo - 2) k (31#5) := by
  unfold frameBlk
  erw [BitVec.extractLsb'_append_eq_of_le (by omega)]
  erw [BitVec.extractLsb'_append_eq_of_add_le (by omega)]

@[simp] theorem frameBlk_at7 (e : BitVec 1) (c : BitVec 2) (p : BitVec 1) (r : BitVec 6) (l : BitVec 12) {lo k : Nat} (h1 : 7 ≤ lo) (h2 : lo + k ≤ 19) :
    BitVec.extractLsb' lo k (frameBlk e c p r l) = BitVec.extractLsb' (lo - 7) k l := by
  unfold frameBlk
  erw [BitVec.extractLsb'_append_eq_of_le (by omega)]
  erw [BitVec.extractLsb'_append_eq_of_le (by omega)]
  erw [BitVec.extractLsb'_append_eq_of_add_le (by omega)]
  congr 1

@[simp] theorem frameBlk_at19 (e : BitVec 1) (c : BitVec 2) (p : BitVec 1) (r : BitVec 6) (l : BitVec 12) {lo k : Nat} (h1 : 19 ≤ lo) (h2 : lo + k ≤ 25) :
    BitVec.extractLsb' lo k (frameBlk e c p r l) = BitVec.extractLsb' (lo - 19) k r := by
  unfold frameBlk
  erw [BitVec.extractLsb'_append_eq_of_le (by omega)]
  erw [BitVec.extractLsb'_append_eq_of_le (by omega)]
  erw [BitVec.extractLsb'_append_eq_of_le (by omega)]
  erw [BitVec.extractLsb'_append_eq_of_add_le (by omega)]
  congr 1

@[simp] theorem frameBlk_at25 (e : BitVec 1) (c : BitVec 2) (p : BitVec 1) (r : BitVec 6) (l : BitVec 12) {lo k : Nat} (h1 : 25 ≤ lo) (h2 : lo + k ≤ 26) :
    BitVec.extractLsb' lo k (frameBlk e c p r l) = BitVec.extractLsb' (lo - 25) k p := by
  unfold frameBlk
  erw [BitVec.extractLsb'_append_eq_of_le (by omega)]
  erw [BitVec.extractLsb'_append_eq_of_le (by omega)]
  erw [BitVec.extractLsb'_append_eq_of_le (by omega)]
  erw [BitVec.extractLsb'_append_eq_of_le (by omega)]
  erw [BitVec.extractLsb'_append_eq_of_add_le (by omega)]
  congr 1

@[simp] theorem frameBlk_at26 (e : BitVec 1) (c : BitVec 2) (p : BitVec 1) (r : BitVec 6) (l : BitVec 12) {lo k : Nat} (h1 : 26 ≤ lo) (h2 : lo + k ≤ 28) :
    BitVec.extractLsb' lo k (frameBlk e c p r l) = BitVec.extractLsb' (lo - 26) k c := by
  unfold frameBlk
  erw [BitVec.extractLsb'_append_eq_of_le (by omega)]
  erw [BitVec.extractLsb'_append_eq_of_le (by omega)]
  erw [BitVec.extractLsb'_append_eq_of_le (by omega)]
  erw [BitVec.extractLsb'_append_eq_of_le (by omega)]
  erw [BitVec.extractLsb'_append_eq_of_le (by omega)]
  erw [BitVec.extractLsb'_append_eq_of_add_le (by omega)]
  congr 1

@[simp] theorem frameBlk_at28 (e : BitVec 1) (c : BitVec 2) (p : BitVec 1) (r : BitVec 6) (l : BitVec 12) {lo k : Nat} (h1 : 28 ≤ lo) (h2 : lo + k ≤ 29) :
    BitVec.extractLsb' lo k (frameBlk e c p r l) = BitVec.extractLsb' (lo - 28) k e := by
  unfold frameBlk
  erw [BitVec.extractLsb'_append_eq_of_le (by omega)]
  erw [BitVec.extractLsb'_append_eq_of_le (by omega)]
  erw [BitVec.extractLsb'_append_eq_of_le (by omega)]
  erw [BitVec.extractLsb'_append_eq_of_le (by omega)]
  erw [BitVec.extractLsb'_append_eq_of_le (by omega)]
  erw [BitVec.extractLsb'_append_eq_of_le (by omega)]
  erw [BitVec.extractLsb'_append_eq_of_add_le (by omega)]
  congr 1

@[simp] theorem frameBlk_at29 (e : BitVec 1) (c : BitVec 2) (p : BitVec 1) (r : BitVec 6) (l : BitVec 12) {lo k : Nat} (h1 : 29 ≤ lo) :
    BitVec.extractLsb' lo k (frameBlk e c p r l) = BitVec.extractLsb' (lo - 29) k (0#3) := by
  unfold frameBlk
  erw [BitVec.extractLsb'_append_eq_of_le (by omega)]
  erw [BitVec.extractLsb'_append_eq_of_le (by omega)]
  erw [BitVec.extractLsb'_append_eq_of_le (by omega)]
  erw [BitVec.extractLsb'_append_eq_of_le (by omega)]
  erw [BitVec.extractLsb'_append_eq_of_le (by omega)]
  erw [BitVec.extractLsb'_append_eq_of_le (by omega)]
  erw [BitVec.extractLsb'_append_eq_of_le (by omega)]
  congr 1

@[simp] theorem modWord_at0 (imm : BitVec 16) (xop : BitVec 5) (sat : BitVec 1) (rm : BitVec 2) (f2 f : BitVec 4) {lo k : Nat} (h2 : lo + k ≤ 4) :
    BitVec.extractLsb' lo k (modWord imm xop sat rm f2 f) = BitVec.extractLsb' lo k f := by
  unfold modWord
  erw [BitVec.extractLsb'_append_eq_of_add_le (by omega)]

@[simp] theorem modWord_at4 (imm : BitVec 16) (xop : BitVec 5) (sat : BitVec 1) (rm : BitVec 2) (f2 f : BitVec 4) {lo k : Nat} (h1 : 4 ≤ lo) (h2 : lo + k ≤ 8) :
    BitVec.extractLsb' lo k (modWord imm xop sat rm f2 f) = BitVec.extractLsb' (lo - 4) k f2 := by
  unfold modWord
  erw [BitVec.extractLsb'_append_eq_of_le (by omega)]
  erw [BitVec.extractLsb'_append_eq_of_add_le (by omega)]

@[simp] theorem modWord_at8 (imm : BitVec 16) (xop : BitVec 5) (sat : BitVec 1) (rm : BitVec 2) (f2 f : BitVec 4) {lo k : Nat} (h1 : 8 ≤ lo) (h2 : lo + k ≤ 10) :
    BitVec.extractLsb' lo k (modWord imm xop sat rm f2 f) = BitVec.extractLsb' (lo - 8) k rm := by
  unfold modWord
  erw [BitVec.extractLsb'_append_eq_of_le (by omega)]
  erw [BitVec.extractLsb'_append_eq_of_le (by omega)]
  erw [BitVec.extractLsb'_append_eq_of_add_le (by omega)]
  congr 1

@[simp] theorem modWord_at10 (imm : BitVec 16) (xop : BitVec 5) (sat : BitVec 1) (rm : BitVec 2) (f2 f : BitVec 4) {lo k : Nat} (h1 : 10 ≤ lo) (h2 : lo + k ≤ 11) :
    BitVec.extractLsb' lo k (modWord imm xop sat rm f2 f) = BitVec.extractLsb' (lo - 10) k sat := by
  unfold modWord
  erw [BitVec.extractLsb'_append_eq_of_le (by omega)]
  erw [BitVec.extractLsb'_append_eq_of_le (by omega)]
  erw [BitVec.extractLsb'_append_eq_of_le (by omega)]
  erw [BitVec.extractLsb'_append_eq_of_add_le (by omega)]
  congr 1

@[simp] theorem modWord_at11 (imm : BitVec 16) (xop : BitVec 5) (sat : BitVec 1) (rm : BitVec 2) (f2 f : BitVec 4) {lo k : Nat} (h1 : 11 ≤ lo) (h2 : lo + k ≤ 16) :
    BitVec.extractLsb' lo k (modWord imm xop sat rm f2 f) = BitVec.extractLsb' (lo - 11) k xop := by
  unfold modWord
  erw [BitVec.extractLsb'_append_eq_of_le (by omega)]
  erw [BitVec.extractLsb'_append_eq_of_le (by omega)]
  erw [BitVec.extractLsb'_append_eq_of_le (by omega)]
  erw [BitVec.extractLsb'_append_eq_of_le (by omega)]
  erw [BitVec.extractLsb'_append_eq_of_add_le (by omega)]
  congr 1

@[simp] theorem modWord_at16 (imm : BitVec 16) (xop : BitVec 5) (sat : BitVec 1) (rm : BitVec 2) (f2 f : BitVec 4) {lo k : Nat} (h1 : 16 ≤ lo) :
    BitVec.extractLsb' lo k (modWord imm xop sat rm f2 f) = BitVec.extractLsb' (lo - 16) k imm := by
  unfold modWord
  erw [BitVec.extractLsb'_append_eq_of_le (by omega)]
  erw [BitVec.extractLsb'_append_eq_of_le (by omega)]
  erw [BitVec.extractLsb'_append_eq_of_le (by omega)]
  erw [BitVec.extractLsb'_append_eq_of_le (by omega)]
  erw [BitVec.extractLsb'_append_eq_of_le (by omega)]
  congr 1

@[simp] theorem cat_half6_at0 (o : BitVec 3) (f : BitVec 6) (d : BitVec 5) (q : BitVec 2) {lo k : Nat} (h2 : lo + k ≤ 2) :
    BitVec.extractLsb' lo k (o ++ f ++ d ++ q : BitVec 16) = BitVec.extractLsb' lo k (q) := by
  erw [BitVec.extractLsb'_append_eq_of_add_le (by omega)]

@[simp] theorem cat_half6_at2 (o : BitVec 3) (f : BitVec 6) (d : BitVec 5) (q : BitVec 2) {lo k : Nat} (h1 : 2 ≤ lo) (h2 : lo + k ≤ 7) :
    BitVec.extractLsb' lo k (o ++ f ++ d ++ q : BitVec 16) = BitVec.extractLsb' (lo - 2) k (d) := by
  erw [BitVec.extractLsb'_append_eq_of_le (by omega)]
  erw [BitVec.extractLsb'_append_eq_of_add_le (by omega)]

@[simp] theorem cat_half6_at7 (o : BitVec 3) (f : BitVec 6) (d : BitVec 5) (q : BitVec 2) {lo k : Nat} (h1 : 7 ≤ lo) (h2 : lo + k ≤ 13) :
    BitVec.extractLsb' lo k (o ++ f ++ d ++ q : BitVec 16) = BitVec.extractLsb' (lo - 7) k (f) := by
  erw [BitVec.extractLsb'_append_eq_of_le (by omega)]
  erw [BitVec.extractLsb'_append_eq_of_le (by omega)]
  erw [BitVec.extractLsb'_append_eq_of_add_le (by omega)]
  congr 1

@[simp] theorem cat_half6_at13 (o : BitVec 3) (f : BitVec 6) (d : BitVec 5) (q : BitVec 2) {lo k : Nat} (h1 : 13 ≤ lo) :
    BitVec.extractLsb' lo k (o ++ f ++ d ++ q : BitVec 16) = BitVec.extractLsb' (lo - 13) k (o) := by
  erw [BitVec.extractLsb'_append_eq_of_le (by omega)]
  erw [BitVec.extractLsb'_append_eq_of_le (by omega)]
  erw [BitVec.extractLsb'_append_eq_of_le (by omega)]
  congr 1

@[simp] theorem cat_half5_at0 (o : BitVec 4) (a d : BitVec 5) (q : BitVec 2) {lo k : Nat} (h2 : lo + k ≤ 2) :
    BitVec.extractLsb' lo k (o ++ a ++ d ++ q : BitVec 16) = BitVec.extractLsb' lo k (q) := by
  erw [BitVec.extractLsb'_append_eq_of_add_le (by omega)]

@[simp] theorem cat_half5_at2 (o : BitVec 4) (a d : BitVec 5) (q : BitVec 2) {lo k : Nat} (h1 : 2 ≤ lo) (h2 : lo + k ≤ 7) :
    BitVec.extractLsb' lo k (o ++ a ++ d ++ q : BitVec 16) = BitVec.extractLsb' (lo - 2) k (d) := by
  erw [BitVec.extractLsb'_append_eq_of_le (by omega)]
  erw [BitVec.extractLsb'_append_eq_of_add_le (by omega)]

@[simp] theorem cat_half5_at7 (o : BitVec 4) (a d : BitVec 5) (q : BitVec 2) {lo k : Nat} (h1 : 7 ≤ lo) (h2 : lo + k ≤ 12) :
    BitVec.extractLsb' lo k (o ++ a ++ d ++ q : BitVec 16) = BitVec.extractLsb' (lo - 7) k (a) := by
  erw [BitVec.extractLsb'_append_eq_of_le (by omega)]
  erw [BitVec.extractLsb'_append_eq_of_le (by omega)]
  erw [BitVec.extractLsb'_append_eq_of_add_le (by omega)]
  congr 1

@[simp] theorem cat_half5_at12 (o : BitVec 4) (a d : BitVec 5) (q : BitVec 2) {lo k : Nat} (h1 : 12 ≤ lo) :
    BitVec.extractLsb' lo k (o ++ a ++ d ++ q : BitVec 16) = BitVec.extractLsb' (lo - 12) k (o) := by
  erw [BitVec.extractLsb'_append_eq_of_le (by omega)]
  erw [BitVec.extractLsb'_append_eq_of_le (by omega)]
  erw [BitVec.extractLsb'_append_eq_of_le (by omega)]
  congr 1

@[simp] theorem cat_stq_at0 (z : BitVec 7) (n : BitVec 2) {lo k : Nat} (h2 : lo + k ≤ 2) :
    BitVec.extractLsb' lo k (z ++ n : BitVec 9) = BitVec.extractLsb' lo k (n) := by
  erw [BitVec.extractLsb'_append_eq_of_add_le (by omega)]

@[simp] theorem cat_stq_at2 (z : BitVec 7) (n : BitVec 2) {lo k : Nat} (h1 : 2 ≤ lo) :
    BitVec.extractLsb' lo k (z ++ n : BitVec 9) = BitVec.extractLsb' (lo - 2) k (z) := by
  erw [BitVec.extractLsb'_append_eq_of_le (by omega)]

@[simp] theorem cat_li_at0 (L : BitVec 1) (i : BitVec 19) (d : BitVec 5) {lo k : Nat} (h2 : lo + k ≤ 2) :
    BitVec.extractLsb' lo k (L ++ i ++ d ++ 2#5 ++ 3#2 : BitVec 32) = BitVec.extractLsb' lo k (3#2) := by
  erw [BitVec.extractLsb'_append_eq_of_add_le (by omega)]

@[simp] theorem cat_li_at2 (L : BitVec 1) (i : BitVec 19) (d : BitVec 5) {lo k : Nat} (h1 : 2 ≤ lo) (h2 : lo + k ≤ 7) :
    BitVec.extractLsb' lo k (L ++ i ++ d ++ 2#5 ++ 3#2 : BitVec 32) = BitVec.extractLsb' (lo - 2) k (2#5) := by
  erw [BitVec.extractLsb'_append_eq_of_le (by omega)]
  erw [BitVec.extractLsb'_append_eq_of_add_le (by omega)]

@[simp] theorem cat_li_at7 (L : BitVec 1) (i : BitVec 19) (d : BitVec 5) {lo k : Nat} (h1 : 7 ≤ lo) (h2 : lo + k ≤ 12) :
    BitVec.extractLsb' lo k (L ++ i ++ d ++ 2#5 ++ 3#2 : BitVec 32) = BitVec.extractLsb' (lo - 7) k (d) := by
  erw [BitVec.extractLsb'_append_eq_of_le (by omega)]
  erw [BitVec.extractLsb'_append_eq_of_le (by omega)]
  erw [BitVec.extractLsb'_append_eq_of_add_le (by omega)]
  congr 1

@[simp] theorem cat_li_at12 (L : BitVec 1) (i : BitVec 19) (d : BitVec 5) {lo k : Nat} (h1 : 12 ≤ lo) (h2 : lo + k ≤ 31) :
    BitVec.extractLsb' lo k (L ++ i ++ d ++ 2#5 ++ 3#2 : BitVec 32) = BitVec.extractLsb' (lo - 12) k (i) := by
  erw [BitVec.extractLsb'_append_eq_of_le (by omega)]
  erw [BitVec.extractLsb'_append_eq_of_le (by omega)]
  erw [BitVec.extractLsb'_append_eq_of_le (by omega)]
  erw [BitVec.extractLsb'_append_eq_of_add_le (by omega)]
  congr 1

@[simp] theorem cat_li_at31 (L : BitVec 1) (i : BitVec 19) (d : BitVec 5) {lo k : Nat} (h1 : 31 ≤ lo) :
    BitVec.extractLsb' lo k (L ++ i ++ d ++ 2#5 ++ 3#2 : BitVec 32) = BitVec.extractLsb' (lo - 31) k (L) := by
  erw [BitVec.extractLsb'_append_eq_of_le (by omega)]
  erw [BitVec.extractLsb'_append_eq_of_le (by omega)]
  erw [BitVec.extractLsb'_append_eq_of_le (by omega)]
  erw [BitVec.extractLsb'_append_eq_of_le (by omega)]
  congr 1

@[simp] theorem cat_liw_at0 (i : BitVec 20) (d : BitVec 5) {lo k : Nat} (h2 : lo + k ≤ 2) :
    BitVec.extractLsb' lo k (i ++ d ++ 2#5 ++ 3#2 : BitVec 32) = BitVec.extractLsb' lo k (3#2) := by
  erw [BitVec.extractLsb'_append_eq_of_add_le (by omega)]

@[simp] theorem cat_liw_at2 (i : BitVec 20) (d : BitVec 5) {lo k : Nat} (h1 : 2 ≤ lo) (h2 : lo + k ≤ 7) :
    BitVec.extractLsb' lo k (i ++ d ++ 2#5 ++ 3#2 : BitVec 32) = BitVec.extractLsb' (lo - 2) k (2#5) := by
  erw [BitVec.extractLsb'_append_eq_of_le (by omega)]
  erw [BitVec.extractLsb'_append_eq_of_add_le (by omega)]

@[simp] theorem cat_liw_at7 (i : BitVec 20) (d : BitVec 5) {lo k : Nat} (h1 : 7 ≤ lo) (h2 : lo + k ≤ 12) :
    BitVec.extractLsb' lo k (i ++ d ++ 2#5 ++ 3#2 : BitVec 32) = BitVec.extractLsb' (lo - 7) k (d) := by
  erw [BitVec.extractLsb'_append_eq_of_le (by omega)]
  erw [BitVec.extractLsb'_append_eq_of_le (by omega)]
  erw [BitVec.extractLsb'_append_eq_of_add_le (by omega)]
  congr 1

@[simp] theorem cat_liw_at12 (i : BitVec 20) (d : BitVec 5) {lo k : Nat} (h1 : 12 ≤ lo) :
    BitVec.extractLsb' lo k (i ++ d ++ 2#5 ++ 3#2 : BitVec 32) = BitVec.extractLsb' (lo - 12) k (i) := by
  erw [BitVec.extractLsb'_append_eq_of_le (by omega)]
  erw [BitVec.extractLsb'_append_eq_of_le (by omega)]
  erw [BitVec.extractLsb'_append_eq_of_le (by omega)]
  congr 1

@[simp] theorem cat_rep_at0 (z : BitVec 10) (b a d : BitVec 3) (c : BitVec 6) {lo k : Nat} (h2 : lo + k ≤ 7) :
    BitVec.extractLsb' lo k (z ++ b ++ a ++ d ++ c ++ 0x77#7 : BitVec 32) = BitVec.extractLsb' lo k (0x77#7) := by
  erw [BitVec.extractLsb'_append_eq_of_add_le (by omega)]

@[simp] theorem cat_rep_at7 (z : BitVec 10) (b a d : BitVec 3) (c : BitVec 6) {lo k : Nat} (h1 : 7 ≤ lo) (h2 : lo + k ≤ 13) :
    BitVec.extractLsb' lo k (z ++ b ++ a ++ d ++ c ++ 0x77#7 : BitVec 32) = BitVec.extractLsb' (lo - 7) k (c) := by
  erw [BitVec.extractLsb'_append_eq_of_le (by omega)]
  erw [BitVec.extractLsb'_append_eq_of_add_le (by omega)]

@[simp] theorem cat_rep_at13 (z : BitVec 10) (b a d : BitVec 3) (c : BitVec 6) {lo k : Nat} (h1 : 13 ≤ lo) (h2 : lo + k ≤ 16) :
    BitVec.extractLsb' lo k (z ++ b ++ a ++ d ++ c ++ 0x77#7 : BitVec 32) = BitVec.extractLsb' (lo - 13) k (d) := by
  erw [BitVec.extractLsb'_append_eq_of_le (by omega)]
  erw [BitVec.extractLsb'_append_eq_of_le (by omega)]
  erw [BitVec.extractLsb'_append_eq_of_add_le (by omega)]
  congr 1

@[simp] theorem cat_rep_at16 (z : BitVec 10) (b a d : BitVec 3) (c : BitVec 6) {lo k : Nat} (h1 : 16 ≤ lo) (h2 : lo + k ≤ 19) :
    BitVec.extractLsb' lo k (z ++ b ++ a ++ d ++ c ++ 0x77#7 : BitVec 32) = BitVec.extractLsb' (lo - 16) k (a) := by
  erw [BitVec.extractLsb'_append_eq_of_le (by omega)]
  erw [BitVec.extractLsb'_append_eq_of_le (by omega)]
  erw [BitVec.extractLsb'_append_eq_of_le (by omega)]
  erw [BitVec.extractLsb'_append_eq_of_add_le (by omega)]
  congr 1

@[simp] theorem cat_rep_at19 (z : BitVec 10) (b a d : BitVec 3) (c : BitVec 6) {lo k : Nat} (h1 : 19 ≤ lo) (h2 : lo + k ≤ 22) :
    BitVec.extractLsb' lo k (z ++ b ++ a ++ d ++ c ++ 0x77#7 : BitVec 32) = BitVec.extractLsb' (lo - 19) k (b) := by
  erw [BitVec.extractLsb'_append_eq_of_le (by omega)]
  erw [BitVec.extractLsb'_append_eq_of_le (by omega)]
  erw [BitVec.extractLsb'_append_eq_of_le (by omega)]
  erw [BitVec.extractLsb'_append_eq_of_le (by omega)]
  erw [BitVec.extractLsb'_append_eq_of_add_le (by omega)]
  congr 1

@[simp] theorem cat_rep_at22 (z : BitVec 10) (b a d : BitVec 3) (c : BitVec 6) {lo k : Nat} (h1 : 22 ≤ lo) :
    BitVec.extractLsb' lo k (z ++ b ++ a ++ d ++ c ++ 0x77#7 : BitVec 32) = BitVec.extractLsb' (lo - 22) k (z) := by
  erw [BitVec.extractLsb'_append_eq_of_le (by omega)]
  erw [BitVec.extractLsb'_append_eq_of_le (by omega)]
  erw [BitVec.extractLsb'_append_eq_of_le (by omega)]
  erw [BitVec.extractLsb'_append_eq_of_le (by omega)]
  erw [BitVec.extractLsb'_append_eq_of_le (by omega)]
  congr 1

@[simp] theorem cat_ord_at0 (x : BitVec 6) (o : BitVec 3) {lo k : Nat} (h2 : lo + k ≤ 3) :
    BitVec.extractLsb' lo k (x ++ o : BitVec 9) = BitVec.extractLsb' lo k (o) := by
  erw [BitVec.extractLsb'_append_eq_of_add_le (by omega)]

@[simp] theorem cat_ord_at3 (x : BitVec 6) (o : BitVec 3) {lo k : Nat} (h1 : 3 ≤ lo) :
    BitVec.extractLsb' lo k (x ++ o : BitVec 9) = BitVec.extractLsb' (lo - 3) k (x) := by
  erw [BitVec.extractLsb'_append_eq_of_le (by omega)]

@[simp] theorem cat_scope_at0 (x : BitVec 3) (o : BitVec 2) {lo k : Nat} (h2 : lo + k ≤ 2) :
    BitVec.extractLsb' lo k (x ++ o : BitVec 5) = BitVec.extractLsb' lo k (o) := by
  erw [BitVec.extractLsb'_append_eq_of_add_le (by omega)]

@[simp] theorem cat_scope_at2 (x : BitVec 3) (o : BitVec 2) {lo k : Nat} (h1 : 2 ≤ lo) :
    BitVec.extractLsb' lo k (x ++ o : BitVec 5) = BitVec.extractLsb' (lo - 2) k (x) := by
  erw [BitVec.extractLsb'_append_eq_of_le (by omega)]

@[simp] theorem cat_bqb_at0 (x : BitVec 4) (o : BitVec 1) {lo k : Nat} (h2 : lo + k ≤ 1) :
    BitVec.extractLsb' lo k (x ++ o : BitVec 5) = BitVec.extractLsb' lo k (o) := by
  erw [BitVec.extractLsb'_append_eq_of_add_le (by omega)]

@[simp] theorem cat_bqb_at1 (x : BitVec 4) (o : BitVec 1) {lo k : Nat} (h1 : 1 ≤ lo) :
    BitVec.extractLsb' lo k (x ++ o : BitVec 5) = BitVec.extractLsb' (lo - 1) k (x) := by
  erw [BitVec.extractLsb'_append_eq_of_le (by omega)]

@[simp] theorem cat_wait_at0 (z : BitVec 3) (t c s l : BitVec 4) {lo k : Nat} (h2 : lo + k ≤ 4) :
    BitVec.extractLsb' lo k (z ++ t ++ c ++ s ++ l : BitVec 19) = BitVec.extractLsb' lo k (l) := by
  erw [BitVec.extractLsb'_append_eq_of_add_le (by omega)]

@[simp] theorem cat_wait_at4 (z : BitVec 3) (t c s l : BitVec 4) {lo k : Nat} (h1 : 4 ≤ lo) (h2 : lo + k ≤ 8) :
    BitVec.extractLsb' lo k (z ++ t ++ c ++ s ++ l : BitVec 19) = BitVec.extractLsb' (lo - 4) k (s) := by
  erw [BitVec.extractLsb'_append_eq_of_le (by omega)]
  erw [BitVec.extractLsb'_append_eq_of_add_le (by omega)]

@[simp] theorem cat_wait_at8 (z : BitVec 3) (t c s l : BitVec 4) {lo k : Nat} (h1 : 8 ≤ lo) (h2 : lo + k ≤ 12) :
    BitVec.extractLsb' lo k (z ++ t ++ c ++ s ++ l : BitVec 19) = BitVec.extractLsb' (lo - 8) k (c) := by
  erw [BitVec.extractLsb'_append_eq_of_le (by omega)]
  erw [BitVec.extractLsb'_append_eq_of_le (by omega)]
  erw [BitVec.extractLsb'_append_eq_of_add_le (by omega)]
  congr 1

@[simp] theorem cat_wait_at12 (z : BitVec 3) (t c s l : BitVec 4) {lo k : Nat} (h1 : 12 ≤ lo) (h2 : lo + k ≤ 16) :
    BitVec.extractLsb' lo k (z ++ t ++ c ++ s ++ l : BitVec 19) = BitVec.extractLsb' (lo - 12) k (t) := by
  erw [BitVec.extractLsb'_append_eq_of_le (by omega)]
  erw [BitVec.extractLsb'_append_eq_of_le (by omega)]
  erw [BitVec.extractLsb'_append_eq_of_le (by omega)]
  erw [BitVec.extractLsb'_append_eq_of_add_le (by omega)]
  congr 1

@[simp] theorem cat_wait_at16 (z : BitVec 3) (t c s l : BitVec 4) {lo k : Nat} (h1 : 16 ≤ lo) :
    BitVec.extractLsb' lo k (z ++ t ++ c ++ s ++ l : BitVec 19) = BitVec.extractLsb' (lo - 16) k (z) := by
  erw [BitVec.extractLsb'_append_eq_of_le (by omega)]
  erw [BitVec.extractLsb'_append_eq_of_le (by omega)]
  erw [BitVec.extractLsb'_append_eq_of_le (by omega)]
  erw [BitVec.extractLsb'_append_eq_of_le (by omega)]
  congr 1

@[simp] theorem cat_pause_at0 (z : BitVec 7) (n : BitVec 12) {lo k : Nat} (h2 : lo + k ≤ 12) :
    BitVec.extractLsb' lo k (z ++ n : BitVec 19) = BitVec.extractLsb' lo k (n) := by
  erw [BitVec.extractLsb'_append_eq_of_add_le (by omega)]

@[simp] theorem cat_pause_at12 (z : BitVec 7) (n : BitVec 12) {lo k : Nat} (h1 : 12 ≤ lo) :
    BitVec.extractLsb' lo k (z ++ n : BitVec 19) = BitVec.extractLsb' (lo - 12) k (z) := by
  erw [BitVec.extractLsb'_append_eq_of_le (by omega)]

@[simp] theorem cat_cfg_at0 (r : BitVec 14) (d : BitVec 5) {lo k : Nat} (h2 : lo + k ≤ 5) :
    BitVec.extractLsb' lo k (r ++ d : BitVec 19) = BitVec.extractLsb' lo k (d) := by
  erw [BitVec.extractLsb'_append_eq_of_add_le (by omega)]

@[simp] theorem cat_cfg_at5 (r : BitVec 14) (d : BitVec 5) {lo k : Nat} (h1 : 5 ≤ lo) :
    BitVec.extractLsb' lo k (r ++ d : BitVec 19) = BitVec.extractLsb' (lo - 5) k (r) := by
  erw [BitVec.extractLsb'_append_eq_of_le (by omega)]

@[simp] theorem cat_capr_at0 (z : BitVec 9) (a d : BitVec 5) {lo k : Nat} (h2 : lo + k ≤ 5) :
    BitVec.extractLsb' lo k (z ++ a ++ d : BitVec 19) = BitVec.extractLsb' lo k (d) := by
  erw [BitVec.extractLsb'_append_eq_of_add_le (by omega)]

@[simp] theorem cat_capr_at5 (z : BitVec 9) (a d : BitVec 5) {lo k : Nat} (h1 : 5 ≤ lo) (h2 : lo + k ≤ 10) :
    BitVec.extractLsb' lo k (z ++ a ++ d : BitVec 19) = BitVec.extractLsb' (lo - 5) k (a) := by
  erw [BitVec.extractLsb'_append_eq_of_le (by omega)]
  erw [BitVec.extractLsb'_append_eq_of_add_le (by omega)]

@[simp] theorem cat_capr_at10 (z : BitVec 9) (a d : BitVec 5) {lo k : Nat} (h1 : 10 ≤ lo) :
    BitVec.extractLsb' lo k (z ++ a ++ d : BitVec 19) = BitVec.extractLsb' (lo - 10) k (z) := by
  erw [BitVec.extractLsb'_append_eq_of_le (by omega)]
  erw [BitVec.extractLsb'_append_eq_of_le (by omega)]
  congr 1

@[simp] theorem cat_trap_at0 (z : BitVec 3) (c : BitVec 16) {lo k : Nat} (h2 : lo + k ≤ 16) :
    BitVec.extractLsb' lo k (z ++ c : BitVec 19) = BitVec.extractLsb' lo k (c) := by
  erw [BitVec.extractLsb'_append_eq_of_add_le (by omega)]

@[simp] theorem cat_trap_at16 (z : BitVec 3) (c : BitVec 16) {lo k : Nat} (h1 : 16 ≤ lo) :
    BitVec.extractLsb' lo k (z ++ c : BitVec 19) = BitVec.extractLsb' (lo - 16) k (z) := by
  erw [BitVec.extractLsb'_append_eq_of_le (by omega)]

@[simp] theorem cat_uimask_at0 (z : BitVec 18) (c : BitVec 1) {lo k : Nat} (h2 : lo + k ≤ 1) :
    BitVec.extractLsb' lo k (z ++ c : BitVec 19) = BitVec.extractLsb' lo k (c) := by
  erw [BitVec.extractLsb'_append_eq_of_add_le (by omega)]

@[simp] theorem cat_uimask_at1 (z : BitVec 18) (c : BitVec 1) {lo k : Nat} (h1 : 1 ≤ lo) :
    BitVec.extractLsb' lo k (z ++ c : BitVec 19) = BitVec.extractLsb' (lo - 1) k (z) := by
  erw [BitVec.extractLsb'_append_eq_of_le (by omega)]

@[simp] theorem cat_launch_at0 (z : BitVec 4) (b a d : BitVec 5) {lo k : Nat} (h2 : lo + k ≤ 5) :
    BitVec.extractLsb' lo k (z ++ b ++ a ++ d : BitVec 19) = BitVec.extractLsb' lo k (d) := by
  erw [BitVec.extractLsb'_append_eq_of_add_le (by omega)]

@[simp] theorem cat_launch_at5 (z : BitVec 4) (b a d : BitVec 5) {lo k : Nat} (h1 : 5 ≤ lo) (h2 : lo + k ≤ 10) :
    BitVec.extractLsb' lo k (z ++ b ++ a ++ d : BitVec 19) = BitVec.extractLsb' (lo - 5) k (a) := by
  erw [BitVec.extractLsb'_append_eq_of_le (by omega)]
  erw [BitVec.extractLsb'_append_eq_of_add_le (by omega)]

@[simp] theorem cat_launch_at10 (z : BitVec 4) (b a d : BitVec 5) {lo k : Nat} (h1 : 10 ≤ lo) (h2 : lo + k ≤ 15) :
    BitVec.extractLsb' lo k (z ++ b ++ a ++ d : BitVec 19) = BitVec.extractLsb' (lo - 10) k (b) := by
  erw [BitVec.extractLsb'_append_eq_of_le (by omega)]
  erw [BitVec.extractLsb'_append_eq_of_le (by omega)]
  erw [BitVec.extractLsb'_append_eq_of_add_le (by omega)]
  congr 1

@[simp] theorem cat_launch_at15 (z : BitVec 4) (b a d : BitVec 5) {lo k : Nat} (h1 : 15 ≤ lo) :
    BitVec.extractLsb' lo k (z ++ b ++ a ++ d : BitVec 19) = BitVec.extractLsb' (lo - 15) k (z) := by
  erw [BitVec.extractLsb'_append_eq_of_le (by omega)]
  erw [BitVec.extractLsb'_append_eq_of_le (by omega)]
  erw [BitVec.extractLsb'_append_eq_of_le (by omega)]
  congr 1

@[simp] theorem cat_ldx_at0 (z : BitVec 3) (c : BitVec 2) (x s : BitVec 1) (n : BitVec 2) {lo k : Nat} (h2 : lo + k ≤ 2) :
    BitVec.extractLsb' lo k (z ++ c ++ x ++ s ++ n : BitVec 9) = BitVec.extractLsb' lo k (n) := by
  erw [BitVec.extractLsb'_append_eq_of_add_le (by omega)]

@[simp] theorem cat_ldx_at2 (z : BitVec 3) (c : BitVec 2) (x s : BitVec 1) (n : BitVec 2) {lo k : Nat} (h1 : 2 ≤ lo) (h2 : lo + k ≤ 3) :
    BitVec.extractLsb' lo k (z ++ c ++ x ++ s ++ n : BitVec 9) = BitVec.extractLsb' (lo - 2) k (s) := by
  erw [BitVec.extractLsb'_append_eq_of_le (by omega)]
  erw [BitVec.extractLsb'_append_eq_of_add_le (by omega)]

@[simp] theorem cat_ldx_at3 (z : BitVec 3) (c : BitVec 2) (x s : BitVec 1) (n : BitVec 2) {lo k : Nat} (h1 : 3 ≤ lo) (h2 : lo + k ≤ 4) :
    BitVec.extractLsb' lo k (z ++ c ++ x ++ s ++ n : BitVec 9) = BitVec.extractLsb' (lo - 3) k (x) := by
  erw [BitVec.extractLsb'_append_eq_of_le (by omega)]
  erw [BitVec.extractLsb'_append_eq_of_le (by omega)]
  erw [BitVec.extractLsb'_append_eq_of_add_le (by omega)]
  congr 1

@[simp] theorem cat_ldx_at4 (z : BitVec 3) (c : BitVec 2) (x s : BitVec 1) (n : BitVec 2) {lo k : Nat} (h1 : 4 ≤ lo) (h2 : lo + k ≤ 6) :
    BitVec.extractLsb' lo k (z ++ c ++ x ++ s ++ n : BitVec 9) = BitVec.extractLsb' (lo - 4) k (c) := by
  erw [BitVec.extractLsb'_append_eq_of_le (by omega)]
  erw [BitVec.extractLsb'_append_eq_of_le (by omega)]
  erw [BitVec.extractLsb'_append_eq_of_le (by omega)]
  erw [BitVec.extractLsb'_append_eq_of_add_le (by omega)]
  congr 1

@[simp] theorem cat_ldx_at6 (z : BitVec 3) (c : BitVec 2) (x s : BitVec 1) (n : BitVec 2) {lo k : Nat} (h1 : 6 ≤ lo) :
    BitVec.extractLsb' lo k (z ++ c ++ x ++ s ++ n : BitVec 9) = BitVec.extractLsb' (lo - 6) k (z) := by
  erw [BitVec.extractLsb'_append_eq_of_le (by omega)]
  erw [BitVec.extractLsb'_append_eq_of_le (by omega)]
  erw [BitVec.extractLsb'_append_eq_of_le (by omega)]
  erw [BitVec.extractLsb'_append_eq_of_le (by omega)]
  congr 1

@[simp] theorem cat_ldq_at0 (z : BitVec 5) (x s : BitVec 1) (n : BitVec 2) {lo k : Nat} (h2 : lo + k ≤ 2) :
    BitVec.extractLsb' lo k (z ++ x ++ s ++ n : BitVec 9) = BitVec.extractLsb' lo k (n) := by
  erw [BitVec.extractLsb'_append_eq_of_add_le (by omega)]

@[simp] theorem cat_ldq_at2 (z : BitVec 5) (x s : BitVec 1) (n : BitVec 2) {lo k : Nat} (h1 : 2 ≤ lo) (h2 : lo + k ≤ 3) :
    BitVec.extractLsb' lo k (z ++ x ++ s ++ n : BitVec 9) = BitVec.extractLsb' (lo - 2) k (s) := by
  erw [BitVec.extractLsb'_append_eq_of_le (by omega)]
  erw [BitVec.extractLsb'_append_eq_of_add_le (by omega)]

@[simp] theorem cat_ldq_at3 (z : BitVec 5) (x s : BitVec 1) (n : BitVec 2) {lo k : Nat} (h1 : 3 ≤ lo) (h2 : lo + k ≤ 4) :
    BitVec.extractLsb' lo k (z ++ x ++ s ++ n : BitVec 9) = BitVec.extractLsb' (lo - 3) k (x) := by
  erw [BitVec.extractLsb'_append_eq_of_le (by omega)]
  erw [BitVec.extractLsb'_append_eq_of_le (by omega)]
  erw [BitVec.extractLsb'_append_eq_of_add_le (by omega)]
  congr 1

@[simp] theorem cat_ldq_at4 (z : BitVec 5) (x s : BitVec 1) (n : BitVec 2) {lo k : Nat} (h1 : 4 ≤ lo) :
    BitVec.extractLsb' lo k (z ++ x ++ s ++ n : BitVec 9) = BitVec.extractLsb' (lo - 4) k (z) := by
  erw [BitVec.extractLsb'_append_eq_of_le (by omega)]
  erw [BitVec.extractLsb'_append_eq_of_le (by omega)]
  erw [BitVec.extractLsb'_append_eq_of_le (by omega)]
  congr 1

@[simp] theorem cat_bararr_at0 (x o : BitVec 1) {lo k : Nat} (h2 : lo + k ≤ 1) :
    BitVec.extractLsb' lo k (x ++ o : BitVec 2) = BitVec.extractLsb' lo k (o) := by
  erw [BitVec.extractLsb'_append_eq_of_add_le (by omega)]

@[simp] theorem cat_bararr_at1 (x o : BitVec 1) {lo k : Nat} (h1 : 1 ≤ lo) :
    BitVec.extractLsb' lo k (x ++ o : BitVec 2) = BitVec.extractLsb' (lo - 1) k (x) := by
  erw [BitVec.extractLsb'_append_eq_of_le (by omega)]

@[simp] theorem cat_sealw_at0 (x : BitVec 4) (z : BitVec 2) (o : BitVec 3) {lo k : Nat} (h2 : lo + k ≤ 3) :
    BitVec.extractLsb' lo k (x ++ z ++ o : BitVec 9) = BitVec.extractLsb' lo k (o) := by
  erw [BitVec.extractLsb'_append_eq_of_add_le (by omega)]

@[simp] theorem cat_sealw_at3 (x : BitVec 4) (z : BitVec 2) (o : BitVec 3) {lo k : Nat} (h1 : 3 ≤ lo) (h2 : lo + k ≤ 5) :
    BitVec.extractLsb' lo k (x ++ z ++ o : BitVec 9) = BitVec.extractLsb' (lo - 3) k (z) := by
  erw [BitVec.extractLsb'_append_eq_of_le (by omega)]
  erw [BitVec.extractLsb'_append_eq_of_add_le (by omega)]

@[simp] theorem cat_sealw_at5 (x : BitVec 4) (z : BitVec 2) (o : BitVec 3) {lo k : Nat} (h1 : 5 ≤ lo) :
    BitVec.extractLsb' lo k (x ++ z ++ o : BitVec 9) = BitVec.extractLsb' (lo - 5) k (x) := by
  erw [BitVec.extractLsb'_append_eq_of_le (by omega)]
  erw [BitVec.extractLsb'_append_eq_of_le (by omega)]
  congr 1

@[simp] theorem cat_pk_at0 (x : BitVec 11) (j : BitVec 5) {lo k : Nat} (h2 : lo + k ≤ 5) :
    BitVec.extractLsb' lo k (x ++ j : BitVec 16) = BitVec.extractLsb' lo k (j) := by
  erw [BitVec.extractLsb'_append_eq_of_add_le (by omega)]

@[simp] theorem cat_pk_at5 (x : BitVec 11) (j : BitVec 5) {lo k : Nat} (h1 : 5 ≤ lo) :
    BitVec.extractLsb' lo k (x ++ j : BitVec 16) = BitVec.extractLsb' (lo - 5) k (x) := by
  erw [BitVec.extractLsb'_append_eq_of_le (by omega)]

@[simp] theorem cat_hi_at0 (x : BitVec 15) (j : BitVec 1) {lo k : Nat} (h2 : lo + k ≤ 1) :
    BitVec.extractLsb' lo k (x ++ j : BitVec 16) = BitVec.extractLsb' lo k (j) := by
  erw [BitVec.extractLsb'_append_eq_of_add_le (by omega)]

@[simp] theorem cat_hi_at1 (x : BitVec 15) (j : BitVec 1) {lo k : Nat} (h1 : 1 ≤ lo) :
    BitVec.extractLsb' lo k (x ++ j : BitVec 16) = BitVec.extractLsb' (lo - 1) k (x) := by
  erw [BitVec.extractLsb'_append_eq_of_le (by omega)]

@[simp] theorem cat_imm7_at0 (x : BitVec 9) (j : BitVec 7) {lo k : Nat} (h2 : lo + k ≤ 7) :
    BitVec.extractLsb' lo k (x ++ j : BitVec 16) = BitVec.extractLsb' lo k (j) := by
  erw [BitVec.extractLsb'_append_eq_of_add_le (by omega)]

@[simp] theorem cat_imm7_at7 (x : BitVec 9) (j : BitVec 7) {lo k : Nat} (h1 : 7 ≤ lo) :
    BitVec.extractLsb' lo k (x ++ j : BitVec 16) = BitVec.extractLsb' (lo - 7) k (x) := by
  erw [BitVec.extractLsb'_append_eq_of_le (by omega)]

@[simp] theorem cat_imm6_at0 (x : BitVec 10) (j : BitVec 6) {lo k : Nat} (h2 : lo + k ≤ 6) :
    BitVec.extractLsb' lo k (x ++ j : BitVec 16) = BitVec.extractLsb' lo k (j) := by
  erw [BitVec.extractLsb'_append_eq_of_add_le (by omega)]

@[simp] theorem cat_imm6_at6 (x : BitVec 10) (j : BitVec 6) {lo k : Nat} (h1 : 6 ≤ lo) :
    BitVec.extractLsb' lo k (x ++ j : BitVec 16) = BitVec.extractLsb' (lo - 6) k (x) := by
  erw [BitVec.extractLsb'_append_eq_of_le (by omega)]

@[simp] theorem cat_sreg_at0 (x : BitVec 1) (j : BitVec 5) {lo k : Nat} (h2 : lo + k ≤ 5) :
    BitVec.extractLsb' lo k (x ++ j : BitVec 6) = BitVec.extractLsb' lo k (j) := by
  erw [BitVec.extractLsb'_append_eq_of_add_le (by omega)]

@[simp] theorem cat_sreg_at5 (x : BitVec 1) (j : BitVec 5) {lo k : Nat} (h1 : 5 ≤ lo) :
    BitVec.extractLsb' lo k (x ++ j : BitVec 6) = BitVec.extractLsb' (lo - 5) k (x) := by
  erw [BitVec.extractLsb'_append_eq_of_le (by omega)]

@[simp] theorem cat_tile_at0 (x : BitVec 2) (j : BitVec 4) {lo k : Nat} (h2 : lo + k ≤ 4) :
    BitVec.extractLsb' lo k (x ++ j : BitVec 6) = BitVec.extractLsb' lo k (j) := by
  erw [BitVec.extractLsb'_append_eq_of_add_le (by omega)]

@[simp] theorem cat_tile_at4 (x : BitVec 2) (j : BitVec 4) {lo k : Nat} (h1 : 4 ≤ lo) :
    BitVec.extractLsb' lo k (x ++ j : BitVec 6) = BitVec.extractLsb' (lo - 4) k (x) := by
  erw [BitVec.extractLsb'_append_eq_of_le (by omega)]

@[simp] theorem cat_pcnt_at0 (x : BitVec 2) (j : BitVec 5) {lo k : Nat} (h2 : lo + k ≤ 5) :
    BitVec.extractLsb' lo k (x ++ j : BitVec 7) = BitVec.extractLsb' lo k (j) := by
  erw [BitVec.extractLsb'_append_eq_of_add_le (by omega)]

@[simp] theorem cat_pcnt_at5 (x : BitVec 2) (j : BitVec 5) {lo k : Nat} (h1 : 5 ≤ lo) :
    BitVec.extractLsb' lo k (x ++ j : BitVec 7) = BitVec.extractLsb' (lo - 5) k (x) := by
  erw [BitVec.extractLsb'_append_eq_of_le (by omega)]

@[simp] theorem cat_gmap_at0 (x : BitVec 3) (n : BitVec 1) (g : BitVec 3) {lo k : Nat} (h2 : lo + k ≤ 3) :
    BitVec.extractLsb' lo k (x ++ n ++ g : BitVec 7) = BitVec.extractLsb' lo k (g) := by
  erw [BitVec.extractLsb'_append_eq_of_add_le (by omega)]

@[simp] theorem cat_gmap_at3 (x : BitVec 3) (n : BitVec 1) (g : BitVec 3) {lo k : Nat} (h1 : 3 ≤ lo) (h2 : lo + k ≤ 4) :
    BitVec.extractLsb' lo k (x ++ n ++ g : BitVec 7) = BitVec.extractLsb' (lo - 3) k (n) := by
  erw [BitVec.extractLsb'_append_eq_of_le (by omega)]
  erw [BitVec.extractLsb'_append_eq_of_add_le (by omega)]

@[simp] theorem cat_gmap_at4 (x : BitVec 3) (n : BitVec 1) (g : BitVec 3) {lo k : Nat} (h1 : 4 ≤ lo) :
    BitVec.extractLsb' lo k (x ++ n ++ g : BitVec 7) = BitVec.extractLsb' (lo - 4) k (x) := by
  erw [BitVec.extractLsb'_append_eq_of_le (by omega)]
  erw [BitVec.extractLsb'_append_eq_of_le (by omega)]
  congr 1

@[simp] theorem cat_glean_at0 (x : BitVec 3) (j : BitVec 2) {lo k : Nat} (h2 : lo + k ≤ 2) :
    BitVec.extractLsb' lo k (x ++ j : BitVec 5) = BitVec.extractLsb' lo k (j) := by
  erw [BitVec.extractLsb'_append_eq_of_add_le (by omega)]

@[simp] theorem cat_glean_at2 (x : BitVec 3) (j : BitVec 2) {lo k : Nat} (h1 : 2 ≤ lo) :
    BitVec.extractLsb' lo k (x ++ j : BitVec 5) = BitVec.extractLsb' (lo - 2) k (x) := by
  erw [BitVec.extractLsb'_append_eq_of_le (by omega)]

@[simp] theorem cat_gdrain_at0 (x : BitVec 2) (n : BitVec 1) (g : BitVec 2) {lo k : Nat} (h2 : lo + k ≤ 2) :
    BitVec.extractLsb' lo k (x ++ n ++ g : BitVec 5) = BitVec.extractLsb' lo k (g) := by
  erw [BitVec.extractLsb'_append_eq_of_add_le (by omega)]

@[simp] theorem cat_gdrain_at2 (x : BitVec 2) (n : BitVec 1) (g : BitVec 2) {lo k : Nat} (h1 : 2 ≤ lo) (h2 : lo + k ≤ 3) :
    BitVec.extractLsb' lo k (x ++ n ++ g : BitVec 5) = BitVec.extractLsb' (lo - 2) k (n) := by
  erw [BitVec.extractLsb'_append_eq_of_le (by omega)]
  erw [BitVec.extractLsb'_append_eq_of_add_le (by omega)]

@[simp] theorem cat_gdrain_at3 (x : BitVec 2) (n : BitVec 1) (g : BitVec 2) {lo k : Nat} (h1 : 3 ≤ lo) :
    BitVec.extractLsb' lo k (x ++ n ++ g : BitVec 5) = BitVec.extractLsb' (lo - 3) k (x) := by
  erw [BitVec.extractLsb'_append_eq_of_le (by omega)]
  erw [BitVec.extractLsb'_append_eq_of_le (by omega)]
  congr 1

@[simp] theorem cat_low1_at0 (x : BitVec 3) (n : BitVec 1) {lo k : Nat} (h2 : lo + k ≤ 1) :
    BitVec.extractLsb' lo k (x ++ n : BitVec 4) = BitVec.extractLsb' lo k (n) := by
  erw [BitVec.extractLsb'_append_eq_of_add_le (by omega)]

@[simp] theorem cat_low1_at1 (x : BitVec 3) (n : BitVec 1) {lo k : Nat} (h1 : 1 ≤ lo) :
    BitVec.extractLsb' lo k (x ++ n : BitVec 4) = BitVec.extractLsb' (lo - 1) k (x) := by
  erw [BitVec.extractLsb'_append_eq_of_le (by omega)]

@[simp] theorem cat_kld_at0 (x : BitVec 1) (n : BitVec 4) {lo k : Nat} (h2 : lo + k ≤ 4) :
    BitVec.extractLsb' lo k (x ++ n : BitVec 5) = BitVec.extractLsb' lo k (n) := by
  erw [BitVec.extractLsb'_append_eq_of_add_le (by omega)]

@[simp] theorem cat_kld_at4 (x : BitVec 1) (n : BitVec 4) {lo k : Nat} (h1 : 4 ≤ lo) :
    BitVec.extractLsb' lo k (x ++ n : BitVec 5) = BitVec.extractLsb' (lo - 4) k (x) := by
  erw [BitVec.extractLsb'_append_eq_of_le (by omega)]

theorem getLsbD_extract {w : Nat} (x : BitVec w) (k : Nat) : x.getLsbD k = (BitVec.extractLsb' k 1 x == 1#1) := by
  have h : (BitVec.extractLsb' k 1 x).getLsbD 0 = x.getLsbD k := by simp
  rw [← h]
  generalize BitVec.extractLsb' k 1 x = y
  revert y
  decide

theorem getElem_extract {w : Nat} (x : BitVec w) (k : Nat) (h : k < w) :
    x[k] = (BitVec.extractLsb' k 1 x == 1#1) := by
  rw [← getLsbD_extract, BitVec.getLsbD_eq_getElem h]

/-! ### Where the literal bit is one -/

@[simp] theorem hasLiteral_frameScalar (maj : BitVec 5) (L : BitVec 1) (func : BitVec 9) (b a d : BitVec 5) :
    hasLiteral (frameScalar maj L func b a d) = (L == 1#1 && !(maj.toNat == 12 || maj.toNat == 13 || maj.toNat == 29 || maj.toNat == 31)) := by
  rw [hasLiteral, getLsbD_extract]
  simp [major, bits]

@[simp] theorem hasLiteral_frameImm (L : BitVec 1) (i : BitVec 9) (op a d : BitVec 5) :
    hasLiteral (frameImm L i op a d) = (L == 1#1) := by
  rw [hasLiteral, getLsbD_extract]
  simp [major, bits]

@[simp] theorem hasLiteral_frameLdst (L : BitVec 1) (i : BitVec 10) (x s : BitVec 1) (z : BitVec 2) (a d : BitVec 5) :
    hasLiteral (frameLdst L i x s z a d) = (L == 1#1) := by
  rw [hasLiteral, getLsbD_extract]
  simp [major, bits]

@[simp] theorem hasLiteral_frameBranch (maj : BitVec 5) (L : BitVec 1) (o : BitVec 11) (cond : BitVec 3) (b a : BitVec 5) :
    hasLiteral (frameBranch maj L o cond b a) = (L == 1#1 && !(maj.toNat == 12 || maj.toNat == 13 || maj.toNat == 29 || maj.toNat == 31)) := by
  rw [hasLiteral, getLsbD_extract]
  simp [major, bits]

@[simp] theorem hasLiteral_frameQueue (n : BitVec 6) (op : BitVec 3) (b q d : BitVec 5) :
    hasLiteral (frameQueue n op b q d) = false := by
  rw [hasLiteral, getLsbD_extract]
  simp [major, bits]

@[simp] theorem hasLiteral_frameSys (op : BitVec 5) (x : BitVec 19) :
    hasLiteral (frameSys op x) = false := by
  rw [hasLiteral, getLsbD_extract]
  simp [major, bits]

@[simp] theorem hasLiteral_frameVec (maj : BitVec 5) (func : BitVec 4) (b a d : BitVec 6) (g : BitVec 3) :
    hasLiteral (frameVec maj func b a d g) = (BitVec.extractLsb' 3 1 func == 1#1 && !(maj.toNat == 12 || maj.toNat == 13 || maj.toNat == 29 || maj.toNat == 31)) := by
  rw [hasLiteral, getLsbD_extract]
  simp [major, bits]

@[simp] theorem hasLiteral_frameCmp (L : BitVec 1) (cond : BitVec 2) (b a : BitVec 6) (p : BitVec 7) (g : BitVec 3) :
    hasLiteral (frameCmp L cond b a p g) = (L == 1#1) := by
  rw [hasLiteral, getLsbD_extract]
  simp [major, bits]

@[simp] theorem hasLiteral_framePred (func : BitVec 4) (b a d : BitVec 7) :
    hasLiteral (framePred func b a d) = (BitVec.extractLsb' 3 1 func == 1#1) := by
  rw [hasLiteral, getLsbD_extract]
  simp [major, bits]

@[simp] theorem hasLiteral_frameJob (maj : BitVec 5) (L : BitVec 1) (u m : BitVec 1) (op : BitVec 3) (fb fa : BitVec 4) (a d : BitVec 5) :
    hasLiteral (frameJob maj L u m op fb fa a d) = (L == 1#1 && !(maj.toNat == 12 || maj.toNat == 13 || maj.toNat == 29 || maj.toNat == 31)) := by
  rw [hasLiteral, getLsbD_extract]
  simp [major, bits]

@[simp] theorem hasLiteral_frameHint (L : BitVec 1) (h : BitVec 14) (a d : BitVec 5) :
    hasLiteral (frameHint L h a d) = (L == 1#1) := by
  rw [hasLiteral, getLsbD_extract]
  simp [major, bits]

end Sys2Proof
end

