-- ==== Sys2Proof/Laws/Memory.lean ====
section
/-!
SUPPORT. Laws of the sparse stores: the canonical form as an ordered list, read after write, and that every memory
operation keeps the form.
-/
namespace Sys2Proof.Machine

/-! ### The canonical form -/

/-- The form as the two facts it says: keys strictly rising, no listed zero. -/
theorem Cells.wf_iff {w : Nat} (m : Cells w) :
    m.wf = true ↔ m.Pairwise (fun x y => x.1 < y.1) ∧ ∀ x ∈ m, x.2 ≠ 0 := by
  induction m with
  | nil => simp [Cells.wf]
  | cons c m ih =>
    obtain ⟨a, b⟩ := c
    cases m with
    | nil => simp [Cells.wf]
    | cons c' m =>
      obtain ⟨a', b'⟩ := c'
      simp only [Cells.wf, Bool.and_eq_true, ih, decide_eq_true_eq, bne_iff_ne, List.pairwise_cons, List.mem_cons,
        forall_eq_or_imp]
      constructor
      · rintro ⟨⟨h1, h2⟩, ⟨h3, h4⟩, h5, h6⟩
        exact ⟨⟨⟨h2, fun x hx => lt_trans h2 (h3 x hx)⟩, h3, h4⟩, h1, h5, h6⟩
      · rintro ⟨⟨⟨h2, -⟩, h3, h4⟩, h1, h5, h6⟩
        exact ⟨⟨h1, h2⟩, ⟨h3, h4⟩, h5, h6⟩

theorem Memory.wf_iff (m : Memory) :
    m.wf = true ↔ m.Pairwise (fun x y => x.1 < y.1) ∧ ∀ x ∈ m, x.2 ≠ 0 :=
  Cells.wf_iff (w := 8) m

theorem Cells.wf_nil {w : Nat} : Cells.wf ([] : Cells w) = true := rfl

theorem Cells.wf_tail {w : Nat} {c : Nat × BitVec w} {m : Cells w} (h : Cells.wf (c :: m) = true) : m.wf = true := by
  simp only [Cells.wf_iff, List.pairwise_cons, List.mem_cons, forall_eq_or_imp] at *
  exact ⟨h.1.2, h.2.2⟩

/-- Dropping entries keeps the form. -/
theorem Cells.wf_sublist {w : Nat} {m m' : Cells w} (h : m.wf = true) (hs : m'.Sublist m) : m'.wf = true := by
  rw [Cells.wf_iff] at *
  exact ⟨h.1.sublist hs, fun x hx => h.2 x (hs.subset hx)⟩

/-! ### Read after write -/

theorem Cells.get_of_lt {w : Nat} {m : Cells w} {a : Nat} (h : ∀ x ∈ m, a < x.1) : m.get a = 0 := by
  cases m with
  | nil => rfl
  | cons c m => simp [Cells.get, h c (List.mem_cons_self ..)]

/-- The value just written is read. -/
theorem Cells.get_set_same {w : Nat} (m : Cells w) (hm : m.wf = true) (a : Nat) (b : BitVec w) :
    (m.set a b).get a = b := by
  induction m with
  | nil => by_cases hb : b = 0#w <;> simp [Cells.set, Cells.get, hb]
  | cons c m ih =>
    obtain ⟨k, c⟩ := c
    have hk : ∀ x ∈ m, k < x.1 := by
      have := (Cells.wf_iff _).1 hm
      exact (List.pairwise_cons.1 this.1).1
    unfold Cells.set
    split
    · by_cases hb : b = 0#w <;> simp [Cells.get, *]
    · rename_i hlt
      split
      · rename_i heq
        have hak : a = k := by simpa using heq
        by_cases hb : b = 0#w
        · simp only [hb]
          exact Cells.get_of_lt fun x hx => hak ▸ hk x hx
        · simp [Cells.get, hb]
      · rename_i hne
        simp only [Cells.get, hlt, hne, if_false]
        simpa using ih (Cells.wf_tail hm)

/-- Every other number reads as before. -/
theorem Cells.get_set_ne {w : Nat} (m : Cells w) (hm : m.wf = true) {a a' : Nat} (b : BitVec w) (h : a' ≠ a) :
    (m.set a b).get a' = m.get a' := by
  induction m with
  | nil => by_cases hb : b = 0#w <;> simp [Cells.set, Cells.get, hb, h]
  | cons c m ih =>
    obtain ⟨k, c⟩ := c
    have hk : ∀ x ∈ m, k < x.1 := by
      have := (Cells.wf_iff _).1 hm
      exact (List.pairwise_cons.1 this.1).1
    unfold Cells.set
    split
    · rename_i hlt
      by_cases hb : b = 0#w
      · simp [hb]
      · by_cases h1 : a' < a
        · simp [Cells.get, hb, h1, lt_trans h1 hlt]
        · simp [Cells.get, hb, h1, h]
    · rename_i hlt
      split
      · rename_i heq
        have hak : a = k := by simpa using heq
        subst hak
        by_cases hb : b = 0#w
        · simp only [hb, Cells.get, beq_iff_eq, h, if_false]
          by_cases h1 : a' < a
          · simp only [h1, if_true]
            exact Cells.get_of_lt fun x hx => lt_trans h1 (hk x hx)
          · simp [h1]
        · simp [Cells.get, hb, h]
      · simp only [Cells.get, ih (Cells.wf_tail hm)]

theorem Memory.get_set_same (m : Memory) (hm : m.wf = true) (a : Nat) (b : Byte) : (m.set a b).get a = b :=
  Cells.get_set_same m hm a b

theorem Memory.get_set_ne (m : Memory) (hm : m.wf = true) {a a' : Nat} (b : Byte) (h : a' ≠ a) :
    (m.set a b).get a' = m.get a' :=
  Cells.get_set_ne m hm b h

/-! ### Every operation keeps the form -/

/-- The keys of a written store are the old keys and the new one. -/
theorem Cells.mem_set {w : Nat} {m : Cells w} {a : Nat} {b : BitVec w} {x : Nat × BitVec w} (h : x ∈ m.set a b) :
    x ∈ m ∨ (x = (a, b) ∧ b ≠ 0) := by
  induction m with
  | nil => by_cases hb : b = 0#w <;> simp_all [Cells.set]
  | cons c m ih =>
    obtain ⟨k, c⟩ := c
    unfold Cells.set at h
    split at h
    · by_cases hb : b = 0
      · simp_all
      · simp only [beq_iff_eq, hb, if_false, List.mem_cons] at h
        rcases h with rfl | rfl | h
        · exact .inr ⟨rfl, hb⟩
        · exact .inl (by simp)
        · exact .inl (by simp [h])
    · split at h
      · by_cases hb : b = 0
        · simp only [hb, beq_self_eq_true, if_true] at h; exact .inl (List.mem_cons_of_mem _ h)
        · simp only [beq_iff_eq, hb, if_false, List.mem_cons] at h
          rcases h with rfl | h
          · exact .inr ⟨rfl, hb⟩
          · exact .inl (List.mem_cons_of_mem _ h)
      · rcases List.mem_cons.1 h with rfl | h
        · exact .inl (by simp)
        · exact (ih h).imp (List.mem_cons_of_mem _) id

theorem Cells.wf_set {w : Nat} {m : Cells w} (hm : m.wf = true) (a : Nat) (b : BitVec w) : (m.set a b).wf = true := by
  induction m with
  | nil => by_cases hb : b = 0#w <;> simp [Cells.set, Cells.wf, hb]
  | cons c m ih =>
    obtain ⟨k, c⟩ := c
    have ht := Cells.wf_tail hm
    have h0 := hm
    rw [Cells.wf_iff] at h0
    obtain ⟨h1, h2⟩ := h0
    rw [List.pairwise_cons] at h1
    unfold Cells.set
    split
    · rename_i hlt
      by_cases hb : b = 0
      · simpa [hb] using hm
      · simp only [beq_iff_eq, hb, if_false]
        rw [Cells.wf_iff]
        refine ⟨List.pairwise_cons.2 ⟨?_, ((Cells.wf_iff _).1 hm).1⟩, ?_⟩
        · intro x hx
          rcases List.mem_cons.1 hx with rfl | hx
          · exact hlt
          · exact lt_trans hlt (h1.1 x hx)
        · intro x hx
          rcases List.mem_cons.1 hx with rfl | hx
          · exact hb
          · exact h2 x hx
    · rename_i hlt
      split
      · rename_i heq
        have hak : a = k := by simpa using heq
        by_cases hb : b = 0
        · simpa [hb] using ht
        · simp only [beq_iff_eq, hb, if_false]
          rw [Cells.wf_iff]
          refine ⟨List.pairwise_cons.2 ⟨hak ▸ h1.1, h1.2⟩, ?_⟩
          intro x hx
          rcases List.mem_cons.1 hx with rfl | hx
          · exact hb
          · exact h2 x (List.mem_cons_of_mem _ hx)
      · rename_i hne
        have hne' : a ≠ k := by simpa using hne
        have hih := (Cells.wf_iff _).1 (ih ht)
        rw [Cells.wf_iff]
        refine ⟨List.pairwise_cons.2 ⟨?_, hih.1⟩, ?_⟩
        · intro x hx
          rcases Cells.mem_set hx with hx | ⟨rfl, -⟩
          · exact h1.1 x hx
          · simp only; omega
        · intro x hx
          rcases List.mem_cons.1 hx with rfl | hx
          · exact h2 _ (List.mem_cons_self ..)
          · exact hih.2 x hx

theorem Memory.wf_set {m : Memory} (hm : m.wf = true) (a : Nat) (b : Byte) : (m.set a b).wf = true :=
  Cells.wf_set hm a b

theorem Memory.wf_put {m : Memory} (hm : m.wf = true) (a : Nat) (bs : List Byte) : (m.put a bs).wf = true := by
  induction bs generalizing m a with
  | nil => exact hm
  | cons b bs ih => exact ih (Memory.wf_set hm a b) (a + 1)

theorem Memory.wf_scatter {m : Memory} (hm : m.wf = true) (cs : List (Nat × Byte)) : (m.scatter cs).wf = true := by
  induction cs generalizing m with
  | nil => exact hm
  | cons c cs ih => exact ih (Memory.wf_set hm c.1 c.2)

theorem Memory.wf_filter {m : Memory} (hm : m.wf = true) (p : Host.Cell → Bool) : Memory.wf (m.filter p) = true :=
  Cells.wf_sublist (w := 8) hm List.filter_sublist

theorem Memory.wf_clear {m : Memory} (hm : m.wf = true) (a n : Nat) : (m.clear a n).wf = true :=
  Memory.wf_filter hm _

theorem Memory.wf_slice {m : Memory} (hm : m.wf = true) (a n : Nat) : (m.slice a n).wf = true := by
  have h := (Memory.wf_iff _).1 (Memory.wf_filter hm fun c => a ≤ c.1 && c.1 < a + n)
  have hs : ∀ x ∈ m.filter (fun c => a ≤ c.1 && c.1 < a + n), a ≤ x.1 := by
    intro x hx
    have := (List.mem_filter.1 hx).2
    simp only [Bool.and_eq_true, decide_eq_true_eq] at this
    exact this.1
  rw [Memory.slice, Memory.wf_iff]
  refine ⟨?_, ?_⟩
  · rw [List.pairwise_map]
    refine h.1.imp_of_mem ?_
    intro x y hx hy hxy
    have := hs x hx
    have := hs y hy
    simp only
    omega
  · intro x hx
    obtain ⟨y, hy, rfl⟩ := List.mem_map.1 hx
    exact h.2 y hy

/-- The offsets of a slice lie below its length. -/
theorem Memory.slice_lt {m : Memory} {a n : Nat} {x : Host.Cell} (hx : x ∈ m.slice a n) : x.1 < n := by
  obtain ⟨y, hy, rfl⟩ := List.mem_map.1 hx
  have := (List.mem_filter.1 hy).2
  simp only [Bool.and_eq_true, decide_eq_true_eq] at this
  simp only
  omega

theorem Memory.wf_paste {m c : Memory} (hm : m.wf = true) (hc : c.wf = true) (a n : Nat) (hn : ∀ x ∈ c, x.1 < n) :
    (m.paste a n c).wf = true := by
  have hm' := (Memory.wf_iff _).1 hm
  have hc' := (Memory.wf_iff _).1 hc
  rw [Memory.paste, Memory.wf_iff]
  refine ⟨?_, ?_⟩
  · rw [List.pairwise_append, List.pairwise_append, List.pairwise_map]
    refine ⟨⟨hm'.1.sublist List.filter_sublist, hc'.1.imp fun h => by simp only; omega, ?_⟩,
      hm'.1.sublist List.filter_sublist, ?_⟩
    · intro x hx y hy
      have h1 := (List.mem_filter.1 hx).2
      obtain ⟨z, hz, rfl⟩ := List.mem_map.1 hy
      simp only [decide_eq_true_eq] at h1 ⊢
      omega
    · intro x hx y hy
      have h2 := (List.mem_filter.1 hy).2
      simp only [decide_eq_true_eq] at h2
      rcases List.mem_append.1 hx with hx | hx
      · have h1 := (List.mem_filter.1 hx).2
        simp only [decide_eq_true_eq] at h1
        omega
      · obtain ⟨z, hz, rfl⟩ := List.mem_map.1 hx
        have := hn z hz
        simp only
        omega
  · intro x hx
    rcases List.mem_append.1 hx with hx | hx
    · rcases List.mem_append.1 hx with hx | hx
      · exact hm'.2 x (List.mem_filter.1 hx).1
      · obtain ⟨z, hz, rfl⟩ := List.mem_map.1 hx
        exact hc'.2 z hz
    · exact hm'.2 x (List.mem_filter.1 hx).1

/-- The entries of a listed block lie in its range. -/
theorem listed_range {a : Nat} {bs : List Byte} {x : Host.Cell} (hx : x ∈ listed a bs) :
    a ≤ x.1 ∧ x.1 < a + bs.length ∧ x.2 ≠ 0 := by
  induction bs generalizing a with
  | nil => simp [listed] at hx
  | cons b bs ih =>
    simp only [listed] at hx
    by_cases hb : b = 0
    · simp only [hb, beq_self_eq_true, if_true] at hx
      obtain ⟨h1, h2, h3⟩ := ih hx
      exact ⟨by omega, by simp only [List.length_cons]; omega, h3⟩
    · simp only [beq_iff_eq, hb, if_false, List.mem_cons] at hx
      rcases hx with rfl | hx
      · exact ⟨le_refl _, by simp, hb⟩
      · obtain ⟨h1, h2, h3⟩ := ih hx
        exact ⟨by omega, by simp only [List.length_cons]; omega, h3⟩

theorem Memory.wf_listed (a : Nat) (bs : List Byte) : Memory.wf (listed a bs) = true := by
  rw [Memory.wf_iff]
  refine ⟨?_, fun x hx => (listed_range hx).2.2⟩
  induction bs generalizing a with
  | nil => simp [listed]
  | cons b bs ih =>
    simp only [listed]
    split
    · exact ih _
    · exact List.pairwise_cons.2 ⟨fun x hx => by have := listed_range hx; simp only; omega, ih _⟩

theorem Memory.wf_blit {m : Memory} (hm : m.wf = true) (a : Nat) (bs : List Byte) : (m.blit a bs).wf = true :=
  Memory.wf_paste hm (Memory.wf_listed 0 bs) a bs.length fun x hx => by have := listed_range hx; omega

/-! ### Bytes that a write leaves alone -/

theorem Memory.get_put_outside {m : Memory} (hm : m.wf = true) {a a' : Nat} (bs : List Byte)
    (h : a' < a ∨ a + bs.length ≤ a') : (m.put a bs).get a' = m.get a' := by
  induction bs generalizing m a with
  | nil => rfl
  | cons b bs ih =>
    simp only [List.length_cons] at h
    rw [Memory.put, ih (Memory.wf_set hm a b) (by omega), Memory.get_set_ne m hm b (by omega)]

/-- Each byte of a block just written is read. -/
theorem Memory.get_put_inside {m : Memory} (hm : m.wf = true) (a : Nat) (bs : List Byte) (k : Nat)
    (hk : k < bs.length) : (m.put a bs).get (a + k) = bs[k] := by
  induction bs generalizing m a k with
  | nil => simp at hk
  | cons b bs ih =>
    rw [Memory.put]
    cases k with
    | zero =>
      rw [Memory.get_put_outside (Memory.wf_set hm a b) bs (by omega)]
      exact Memory.get_set_same m hm a b
    | succ k =>
      have := ih (Memory.wf_set hm a b) (a + 1) k (by simpa using hk)
      simpa [Nat.add_assoc, Nat.add_comm 1 k] using this

/-- Numbers not named by a scatter read as before. -/
theorem Memory.get_scatter_outside {m : Memory} (hm : m.wf = true) {a : Nat} (cs : List (Nat × Byte))
    (h : ∀ c ∈ cs, c.1 ≠ a) : (m.scatter cs).get a = m.get a := by
  induction cs generalizing m with
  | nil => rfl
  | cons c cs ih =>
    rw [Memory.scatter, ih (Memory.wf_set hm c.1 c.2) fun x hx => h x (List.mem_cons_of_mem _ hx),
      Memory.get_set_ne m hm c.2 (Ne.symm (h c (List.mem_cons_self ..)))]

/-- A place that no cell is at reads as 0. -/
theorem Memory.get_unlisted {m : Memory} {a : Nat} (h : ∀ c ∈ m, c.1 ≠ a) : m.get a = 0 := by
  induction m with
  | nil => rfl
  | cons c m ih =>
    obtain ⟨k, b⟩ := c
    have hk : k ≠ a := h _ (List.mem_cons_self ..)
    show (if a < k then 0 else if a == k then b else Cells.get m a) = 0
    have hb : (a == k) = false := by simpa using fun e => hk e.symm
    rw [hb]
    split
    · rfl
    · exact ih fun c hc => h c (List.mem_cons_of_mem _ hc)
/-- So does a word of such places. -/
theorem Memory.nat_unlisted {m : Memory} : ∀ {n a : Nat}, (∀ c ∈ m, c.1 < a ∨ a + n ≤ c.1) → m.nat a n = 0
  | 0, _, _ => rfl
  | n + 1, a, h => by
    have h0 : m.get a = 0 := Memory.get_unlisted fun c hc e => by have := h c hc; omega
    have h1 : m.nat (a + 1) n = 0 := Memory.nat_unlisted fun c hc => by have := h c hc; omega
    show (m.get a).toNat + 256 * m.nat (a + 1) n = 0
    rw [h0, h1]; rfl


theorem Memory.wf_reset : Memory.wf State.reset.dev.mem = true := rfl

end Sys2Proof.Machine
end

