-- ==== Sys2Proof/Laws/State.lean ====
section
/-!
SUPPORT. What each shared update of the state does to each field: one lemma per field and update, so that no proof
unfolds a record.
-/
namespace Sys2Proof.Machine

/-! ### The state's own updates -/

@[simp] theorem State.setCur_cur (s : State) (k : Strand) : (s.setCur k).cur = k := rfl
@[simp] theorem State.setCur_others (s : State) (k : Strand) : (s.setCur k).others = s.others := rfl
@[simp] theorem State.setCur_turn (s : State) (k : Strand) : (s.setCur k).turn = s.turn := rfl
@[simp] theorem State.setCur_agenda (s : State) (k : Strand) : (s.setCur k).agenda = s.agenda := rfl
@[simp] theorem State.setCur_dev (s : State) (k : Strand) : (s.setCur k).dev = s.dev := rfl
@[simp] theorem State.setCur_fresh (s : State) (k : Strand) : (s.setCur k).fresh = s.fresh := rfl
@[simp] theorem State.setDev_cur (s : State) (d : Device) : (s.setDev d).cur = s.cur := rfl
@[simp] theorem State.setDev_others (s : State) (d : Device) : (s.setDev d).others = s.others := rfl
@[simp] theorem State.setDev_turn (s : State) (d : Device) : (s.setDev d).turn = s.turn := rfl
@[simp] theorem State.setDev_agenda (s : State) (d : Device) : (s.setDev d).agenda = s.agenda := rfl
@[simp] theorem State.setDev_dev (s : State) (d : Device) : (s.setDev d).dev = d := rfl
@[simp] theorem State.setDev_fresh (s : State) (d : Device) : (s.setDev d).fresh = s.fresh := rfl
@[simp] theorem State.setMe_cur (s : State) (x : Stream) : (s.setMe x).cur = s.cur.setStream s.who x := rfl
@[simp] theorem State.setMe_others (s : State) (x : Stream) : (s.setMe x).others = s.others := rfl
@[simp] theorem State.setMe_turn (s : State) (x : Stream) : (s.setMe x).turn = s.turn := rfl
@[simp] theorem State.setMe_agenda (s : State) (x : Stream) : (s.setMe x).agenda = s.agenda := rfl
@[simp] theorem State.setMe_dev (s : State) (x : Stream) : (s.setMe x).dev = s.dev := rfl
@[simp] theorem State.setMe_fresh (s : State) (x : Stream) : (s.setMe x).fresh = s.fresh := rfl
@[simp] theorem State.wr_cur (s : State) (r : Reg) (v : Word) : (s.wr r v).cur = s.cur.setStream s.who (s.me.put r v) := rfl
@[simp] theorem State.wr_others (s : State) (r : Reg) (v : Word) : (s.wr r v).others = s.others := rfl
@[simp] theorem State.wr_turn (s : State) (r : Reg) (v : Word) : (s.wr r v).turn = s.turn := rfl
@[simp] theorem State.wr_agenda (s : State) (r : Reg) (v : Word) : (s.wr r v).agenda = s.agenda := rfl
@[simp] theorem State.wr_dev (s : State) (r : Reg) (v : Word) : (s.wr r v).dev = s.dev := rfl
@[simp] theorem State.wr_fresh (s : State) (r : Reg) (v : Word) : (s.wr r v).fresh = s.fresh := rfl
@[simp] theorem State.complete_cur (s : State) (n : Nat) : (s.complete n).cur = s.cur.setStream s.who (s.me.done n) := rfl
@[simp] theorem State.complete_others (s : State) (n : Nat) : (s.complete n).others = s.others := rfl
@[simp] theorem State.complete_turn (s : State) (n : Nat) : (s.complete n).turn = s.turn := rfl
@[simp] theorem State.complete_agenda (s : State) (n : Nat) : (s.complete n).agenda = s.agenda := rfl
@[simp] theorem State.complete_dev (s : State) (n : Nat) : (s.complete n).dev = s.dev := rfl
@[simp] theorem State.complete_fresh (s : State) (n : Nat) : (s.complete n).fresh = s.fresh := rfl
@[simp] theorem State.freeze_cur (s : State) (r : FaultRec) : (s.freeze r).cur = { s.cur with frozen := true, faults := s.cur.faults ++ [r] } := rfl
@[simp] theorem State.freeze_others (s : State) (r : FaultRec) : (s.freeze r).others = s.others := rfl
@[simp] theorem State.freeze_turn (s : State) (r : FaultRec) : (s.freeze r).turn = s.turn := rfl
@[simp] theorem State.freeze_agenda (s : State) (r : FaultRec) : (s.freeze r).agenda = s.agenda := rfl
@[simp] theorem State.freeze_dev (s : State) (r : FaultRec) : (s.freeze r).dev = s.dev := rfl
@[simp] theorem State.freeze_fresh (s : State) (r : FaultRec) : (s.freeze r).fresh = s.fresh := rfl
@[simp] theorem State.drew_cur (s : State) : s.drew.cur = s.cur := rfl
@[simp] theorem State.drew_others (s : State) : s.drew.others = s.others := rfl
@[simp] theorem State.drew_turn (s : State) : s.drew.turn = s.turn := rfl
@[simp] theorem State.drew_agenda (s : State) : s.drew.agenda = s.agenda := rfl
@[simp] theorem State.drew_dev (s : State) : s.drew.dev = s.dev := rfl
@[simp] theorem State.drew_fresh (s : State) : s.drew.fresh = s.fresh + 1 := rfl
@[simp] theorem State.raiseFlags_cur (s : State) (f : BitVec 5) : (s.raiseFlags f).cur = { s.cur with fflags := s.cur.fflags ||| f } := rfl
@[simp] theorem State.raiseFlags_others (s : State) (f : BitVec 5) : (s.raiseFlags f).others = s.others := rfl
@[simp] theorem State.raiseFlags_turn (s : State) (f : BitVec 5) : (s.raiseFlags f).turn = s.turn := rfl
@[simp] theorem State.raiseFlags_agenda (s : State) (f : BitVec 5) : (s.raiseFlags f).agenda = s.agenda := rfl
@[simp] theorem State.raiseFlags_dev (s : State) (f : BitVec 5) : (s.raiseFlags f).dev = s.dev := rfl
@[simp] theorem State.raiseFlags_fresh (s : State) (f : BitVec 5) : (s.raiseFlags f).fresh = s.fresh := rfl
@[simp] theorem State.raiseUi_cur (s : State) (b : Nat) : (s.raiseUi b).cur = { s.cur with ui := s.cur.ui.raise b } := rfl
@[simp] theorem State.raiseUi_others (s : State) (b : Nat) : (s.raiseUi b).others = s.others := rfl
@[simp] theorem State.raiseUi_turn (s : State) (b : Nat) : (s.raiseUi b).turn = s.turn := rfl
@[simp] theorem State.raiseUi_agenda (s : State) (b : Nat) : (s.raiseUi b).agenda = s.agenda := rfl
@[simp] theorem State.raiseUi_dev (s : State) (b : Nat) : (s.raiseUi b).dev = s.dev := rfl
@[simp] theorem State.raiseUi_fresh (s : State) (b : Nat) : (s.raiseUi b).fresh = s.fresh := rfl
@[simp] theorem State.stallOn_others (s : State) (k : Nat) : (s.stallOn k).others = s.others := rfl
@[simp] theorem State.stallOn_turn (s : State) (k : Nat) : (s.stallOn k).turn = s.turn := rfl
@[simp] theorem State.stallOn_agenda (s : State) (k : Nat) : (s.stallOn k).agenda = s.agenda := rfl
@[simp] theorem State.stallOn_dev (s : State) (k : Nat) : (s.stallOn k).dev = s.dev := rfl
@[simp] theorem State.stallOn_fresh (s : State) (k : Nat) : (s.stallOn k).fresh = s.fresh := rfl
@[simp] theorem State.fault_others (s : State) (c : BitVec 8) (d : BitVec 16) (a x : Word) : (s.fault c d a x).others = s.others := rfl
@[simp] theorem State.fault_turn (s : State) (c : BitVec 8) (d : BitVec 16) (a x : Word) : (s.fault c d a x).turn = s.turn := rfl
@[simp] theorem State.fault_agenda (s : State) (c : BitVec 8) (d : BitVec 16) (a x : Word) : (s.fault c d a x).agenda = s.agenda := rfl
@[simp] theorem State.fault_dev (s : State) (c : BitVec 8) (d : BitVec 16) (a x : Word) : (s.fault c d a x).dev = s.dev := rfl
@[simp] theorem State.fault_fresh (s : State) (c : BitVec 8) (d : BitVec 16) (a x : Word) : (s.fault c d a x).fresh = s.fresh := rfl
@[simp] theorem State.setMe_who (s : State) (x : Stream) : (s.setMe x).who = s.who := rfl
@[simp] theorem State.wr_who (s : State) (r : Reg) (v : Word) : (s.wr r v).who = s.who := rfl
@[simp] theorem State.complete_who (s : State) (n : Nat) : (s.complete n).who = s.who := rfl
@[simp] theorem State.stallOn_who (s : State) (n : Nat) : (s.stallOn n).who = s.who := rfl
@[simp] theorem State.setDev_who (s : State) (d : Device) : (s.setDev d).who = s.who := rfl
@[simp] theorem State.raiseFlags_who (s : State) (f : BitVec 5) : (s.raiseFlags f).who = s.who := rfl

/-! ### A strand with one stream replaced -/

@[simp] theorem Strand.setStream_id (k : Strand) (t : StreamId) (x : Stream) : (k.setStream t x).id = k.id := by cases t <;> rfl
@[simp] theorem Strand.setStream_resident (k : Strand) (t : StreamId) (x : Stream) : (k.setStream t x).resident = k.resident := by cases t <;> rfl
@[simp] theorem Strand.setStream_frozen (k : Strand) (t : StreamId) (x : Stream) : (k.setStream t x).frozen = k.frozen := by cases t <;> rfl
@[simp] theorem Strand.setStream_hung (k : Strand) (t : StreamId) (x : Stream) : (k.setStream t x).hung = k.hung := by cases t <;> rfl
@[simp] theorem Strand.setStream_ended (k : Strand) (t : StreamId) (x : Stream) : (k.setStream t x).ended = k.ended := by cases t <;> rfl
@[simp] theorem Strand.setStream_parked (k : Strand) (t : StreamId) (x : Stream) : (k.setStream t x).parked = k.parked := by cases t <;> rfl
@[simp] theorem Strand.setStream_spillReady (k : Strand) (t : StreamId) (x : Stream) : (k.setStream t x).spillReady = k.spillReady := by cases t <;> rfl
@[simp] theorem Strand.setStream_portable (k : Strand) (t : StreamId) (x : Stream) : (k.setStream t x).portable = k.portable := by cases t <;> rfl
@[simp] theorem Strand.setStream_faults (k : Strand) (t : StreamId) (x : Stream) : (k.setStream t x).faults = k.faults := by cases t <;> rfl
@[simp] theorem Strand.setStream_published (k : Strand) (t : StreamId) (x : Stream) : (k.setStream t x).published = k.published := by cases t <;> rfl
@[simp] theorem Strand.setStream_turned (k : Strand) (t : StreamId) (x : Stream) : (k.setStream t x).turned = k.turned := by cases t <;> rfl
@[simp] theorem Strand.setStream_deferred (k : Strand) (t : StreamId) (x : Stream) : (k.setStream t x).deferred = k.deferred := by cases t <;> rfl
@[simp] theorem Strand.setStream_v (k : Strand) (t : StreamId) (x : Stream) : (k.setStream t x).v = k.v := by cases t <;> rfl
@[simp] theorem Strand.setStream_p (k : Strand) (t : StreamId) (x : Stream) : (k.setStream t x).p = k.p := by cases t <;> rfl
@[simp] theorem Strand.setStream_gmap (k : Strand) (t : StreamId) (x : Stream) : (k.setStream t x).gmap = k.gmap := by cases t <;> rfl
@[simp] theorem Strand.setStream_vrb (k : Strand) (t : StreamId) (x : Stream) : (k.setStream t x).vrb = k.vrb := by cases t <;> rfl
@[simp] theorem Strand.setStream_prb (k : Strand) (t : StreamId) (x : Stream) : (k.setStream t x).prb = k.prb := by cases t <;> rfl
@[simp] theorem Strand.setStream_tiles (k : Strand) (t : StreamId) (x : Stream) : (k.setStream t x).tiles = k.tiles := by cases t <;> rfl
@[simp] theorem Strand.setStream_k (k : Strand) (t : StreamId) (x : Stream) : (k.setStream t x).k = k.k := by cases t <;> rfl
@[simp] theorem Strand.setStream_queues (k : Strand) (t : StreamId) (x : Stream) : (k.setStream t x).queues = k.queues := by cases t <;> rfl
@[simp] theorem Strand.setStream_qstreams (k : Strand) (t : StreamId) (x : Stream) : (k.setStream t x).qstreams = k.qstreams := by cases t <;> rfl
@[simp] theorem Strand.setStream_glean (k : Strand) (t : StreamId) (x : Stream) : (k.setStream t x).glean = k.glean := by cases t <;> rfl
@[simp] theorem Strand.setStream_gleanOcc (k : Strand) (t : StreamId) (x : Stream) : (k.setStream t x).gleanOcc = k.gleanOcc := by cases t <;> rfl
@[simp] theorem Strand.setStream_gleanHead (k : Strand) (t : StreamId) (x : Stream) : (k.setStream t x).gleanHead = k.gleanHead := by cases t <;> rfl
@[simp] theorem Strand.setStream_ld (k : Strand) (t : StreamId) (x : Stream) : (k.setStream t x).ld = k.ld := by cases t <;> rfl
@[simp] theorem Strand.setStream_st (k : Strand) (t : StreamId) (x : Stream) : (k.setStream t x).st = k.st := by cases t <;> rfl
@[simp] theorem Strand.setStream_ui (k : Strand) (t : StreamId) (x : Stream) : (k.setStream t x).ui = k.ui := by cases t <;> rfl
@[simp] theorem Strand.setStream_fflags (k : Strand) (t : StreamId) (x : Stream) : (k.setStream t x).fflags = k.fflags := by cases t <;> rfl
@[simp] theorem Strand.setStream_nbv (k : Strand) (t : StreamId) (x : Stream) : (k.setStream t x).nbv = k.nbv := by cases t <;> rfl
@[simp] theorem Strand.setStream_pbst (k : Strand) (t : StreamId) (x : Stream) : (k.setStream t x).pbst = k.pbst := by cases t <;> rfl
@[simp] theorem Strand.setStream_wptr (k : Strand) (t : StreamId) (x : Stream) : (k.setStream t x).wptr = k.wptr := by cases t <;> rfl
@[simp] theorem Strand.setStream_cptr (k : Strand) (t : StreamId) (x : Stream) : (k.setStream t x).cptr = k.cptr := by cases t <;> rfl
@[simp] theorem Strand.setStream_srt (k : Strand) (t : StreamId) (x : Stream) : (k.setStream t x).srt = k.srt := by cases t <;> rfl
@[simp] theorem Strand.setStream_jobs (k : Strand) (t : StreamId) (x : Stream) : (k.setStream t x).jobs = k.jobs := by cases t <;> rfl
@[simp] theorem Strand.setStream_ls (k : Strand) (t : StreamId) (x : Stream) : (k.setStream t x).ls = k.ls := by cases t <;> rfl
@[simp] theorem Strand.setStream_gr (k : Strand) (t : StreamId) (x : Stream) : (k.setStream t x).gr = k.gr := by cases t <;> rfl
@[simp] theorem Strand.setStream_spec (k : Strand) (t : StreamId) (x : Stream) : (k.setStream t x).spec = k.spec := by cases t <;> rfl
@[simp] theorem Strand.setStream_ctxSt (k : Strand) (t : StreamId) (x : Stream) : (k.setStream t x).ctxSt = k.ctxSt := by cases t <;> rfl
@[simp] theorem Strand.setStream_snapshot (k : Strand) (t : StreamId) (x : Stream) : (k.setStream t x).snapshot = k.snapshot := by cases t <;> rfl
@[simp] theorem Strand.setStream_table (k : Strand) (t : StreamId) (x : Stream) : (k.setStream t x).table = k.table := by cases t <;> rfl
@[simp] theorem Strand.setStream_imageAt (k : Strand) (t : StreamId) (x : Stream) : (k.setStream t x).imageAt = k.imageAt := by cases t <;> rfl

@[simp] theorem Strand.stream_setStream_same (k : Strand) (t : StreamId) (x : Stream) : (k.setStream t x).stream t = x := by
  cases t <;> rfl

theorem Strand.stream_setStream_ne (k : Strand) {t u : StreamId} (x : Stream) (h : u ≠ t) :
    (k.setStream t x).stream u = k.stream u := by
  cases t <;> cases u <;> first | rfl | exact absurd rfl h

@[simp] theorem Strand.setStream_setStream (k : Strand) (t : StreamId) (x y : Stream) :
    (k.setStream t x).setStream t y = k.setStream t y := by
  cases t <;> rfl

@[simp] theorem Strand.setStream_stream (k : Strand) (t : StreamId) : k.setStream t (k.stream t) = k := by
  cases t <;> rfl

@[simp] theorem State.me_setMe (s : State) (x : Stream) : (s.setMe x).me = x :=
  Strand.stream_setStream_same ..

@[simp] theorem State.setMe_setMe (s : State) (x y : Stream) : (s.setMe x).setMe y = s.setMe y := by
  simp [State.setMe, State.who]

@[simp] theorem State.setMe_me (s : State) : s.setMe s.me = s := by
  simp [State.setMe, State.me]

/-! ### A stream's own updates -/

@[simp] theorem Stream.calm_regs (x : Stream) : x.calm.regs = x.regs := rfl
@[simp] theorem Stream.calm_pc (x : Stream) : x.calm.pc = x.pc := rfl
@[simp] theorem Stream.calm_hdr (x : Stream) : x.calm.hdr = x.hdr := rfl
@[simp] theorem Stream.calm_bodyEnd (x : Stream) : x.calm.bodyEnd = x.bodyEnd := rfl
@[simp] theorem Stream.calm_left (x : Stream) : x.calm.left = x.left := rfl
@[simp] theorem Stream.calm_pass (x : Stream) : x.calm.pass = x.pass := rfl
@[simp] theorem Stream.calm_atHeader (x : Stream) : x.calm.atHeader = x.atHeader := rfl
@[simp] theorem Stream.calm_run (x : Stream) : x.calm.run = x.run := rfl
@[simp] theorem Stream.calm_stall (x : Stream) : x.calm.stall = 0 := rfl
@[simp] theorem Stream.calm_stallCycles (x : Stream) : x.calm.stallCycles = 0 := rfl
@[simp] theorem Stream.calm_stack (x : Stream) : x.calm.stack = x.stack := rfl
@[simp] theorem Stream.calm_spl (x : Stream) : x.calm.spl = x.spl := rfl
@[simp] theorem Stream.calm_rsbase (x : Stream) : x.calm.rsbase = x.rsbase := rfl
@[simp] theorem Stream.calm_rep (x : Stream) : x.calm.rep = x.rep := rfl
@[simp] theorem Stream.calm_drop (x : Stream) : x.calm.drop = x.drop := rfl
@[simp] theorem Stream.calm_pause (x : Stream) : x.calm.pause = x.pause := rfl
@[simp] theorem Stream.calm_barwait (x : Stream) : x.calm.barwait = x.barwait := rfl
@[simp] theorem Stream.calm_reply (x : Stream) : x.calm.reply = x.reply := rfl
@[simp] theorem Stream.calm_claim (x : Stream) : x.calm.claim = x.claim := rfl
@[simp] theorem Stream.put_pc (x : Stream) (r : Reg) (v : Word) : (x.put r v).pc = x.pc := by unfold Stream.put; split <;> rfl
@[simp] theorem Stream.put_hdr (x : Stream) (r : Reg) (v : Word) : (x.put r v).hdr = x.hdr := by unfold Stream.put; split <;> rfl
@[simp] theorem Stream.put_bodyEnd (x : Stream) (r : Reg) (v : Word) : (x.put r v).bodyEnd = x.bodyEnd := by unfold Stream.put; split <;> rfl
@[simp] theorem Stream.put_left (x : Stream) (r : Reg) (v : Word) : (x.put r v).left = x.left := by unfold Stream.put; split <;> rfl
@[simp] theorem Stream.put_pass (x : Stream) (r : Reg) (v : Word) : (x.put r v).pass = x.pass := by unfold Stream.put; split <;> rfl
@[simp] theorem Stream.put_atHeader (x : Stream) (r : Reg) (v : Word) : (x.put r v).atHeader = x.atHeader := by unfold Stream.put; split <;> rfl
@[simp] theorem Stream.put_run (x : Stream) (r : Reg) (v : Word) : (x.put r v).run = x.run := by unfold Stream.put; split <;> rfl
@[simp] theorem Stream.put_stall (x : Stream) (r : Reg) (v : Word) : (x.put r v).stall = x.stall := by unfold Stream.put; split <;> rfl
@[simp] theorem Stream.put_stallCycles (x : Stream) (r : Reg) (v : Word) : (x.put r v).stallCycles = x.stallCycles := by unfold Stream.put; split <;> rfl
@[simp] theorem Stream.put_stack (x : Stream) (r : Reg) (v : Word) : (x.put r v).stack = x.stack := by unfold Stream.put; split <;> rfl
@[simp] theorem Stream.put_spl (x : Stream) (r : Reg) (v : Word) : (x.put r v).spl = x.spl := by unfold Stream.put; split <;> rfl
@[simp] theorem Stream.put_rsbase (x : Stream) (r : Reg) (v : Word) : (x.put r v).rsbase = x.rsbase := by unfold Stream.put; split <;> rfl
@[simp] theorem Stream.put_rep (x : Stream) (r : Reg) (v : Word) : (x.put r v).rep = x.rep := by unfold Stream.put; split <;> rfl
@[simp] theorem Stream.put_drop (x : Stream) (r : Reg) (v : Word) : (x.put r v).drop = x.drop := by unfold Stream.put; split <;> rfl
@[simp] theorem Stream.put_pause (x : Stream) (r : Reg) (v : Word) : (x.put r v).pause = x.pause := by unfold Stream.put; split <;> rfl
@[simp] theorem Stream.put_barwait (x : Stream) (r : Reg) (v : Word) : (x.put r v).barwait = x.barwait := by unfold Stream.put; split <;> rfl
@[simp] theorem Stream.put_reply (x : Stream) (r : Reg) (v : Word) : (x.put r v).reply = x.reply := by unfold Stream.put; split <;> rfl
@[simp] theorem Stream.put_claim (x : Stream) (r : Reg) (v : Word) : (x.put r v).claim = x.claim := by unfold Stream.put; split <;> rfl
@[simp] theorem Stream.settle_regs (x : Stream) (n : Word) : (x.settle n).regs = x.regs := by
  unfold Stream.settle
  repeat' split
  all_goals rfl
@[simp] theorem Stream.settle_hdr (x : Stream) (n : Word) : (x.settle n).hdr = x.hdr := by
  unfold Stream.settle
  repeat' split
  all_goals rfl
@[simp] theorem Stream.settle_bodyEnd (x : Stream) (n : Word) : (x.settle n).bodyEnd = x.bodyEnd := by
  unfold Stream.settle
  repeat' split
  all_goals rfl
@[simp] theorem Stream.settle_run (x : Stream) (n : Word) : (x.settle n).run = x.run := by
  unfold Stream.settle
  repeat' split
  all_goals rfl
@[simp] theorem Stream.settle_stall (x : Stream) (n : Word) : (x.settle n).stall = x.stall := by
  unfold Stream.settle
  repeat' split
  all_goals rfl
@[simp] theorem Stream.settle_stallCycles (x : Stream) (n : Word) : (x.settle n).stallCycles = x.stallCycles := by
  unfold Stream.settle
  repeat' split
  all_goals rfl
@[simp] theorem Stream.settle_stack (x : Stream) (n : Word) : (x.settle n).stack = x.stack := by
  unfold Stream.settle
  repeat' split
  all_goals rfl
@[simp] theorem Stream.settle_spl (x : Stream) (n : Word) : (x.settle n).spl = x.spl := by
  unfold Stream.settle
  repeat' split
  all_goals rfl
@[simp] theorem Stream.settle_rsbase (x : Stream) (n : Word) : (x.settle n).rsbase = x.rsbase := by
  unfold Stream.settle
  repeat' split
  all_goals rfl
@[simp] theorem Stream.settle_rep (x : Stream) (n : Word) : (x.settle n).rep = x.rep := by
  unfold Stream.settle
  repeat' split
  all_goals rfl
@[simp] theorem Stream.settle_drop (x : Stream) (n : Word) : (x.settle n).drop = x.drop := by
  unfold Stream.settle
  repeat' split
  all_goals rfl
@[simp] theorem Stream.settle_pause (x : Stream) (n : Word) : (x.settle n).pause = x.pause := by
  unfold Stream.settle
  repeat' split
  all_goals rfl
@[simp] theorem Stream.settle_barwait (x : Stream) (n : Word) : (x.settle n).barwait = x.barwait := by
  unfold Stream.settle
  repeat' split
  all_goals rfl
@[simp] theorem Stream.settle_reply (x : Stream) (n : Word) : (x.settle n).reply = x.reply := by
  unfold Stream.settle
  repeat' split
  all_goals rfl
@[simp] theorem Stream.settle_claim (x : Stream) (n : Word) : (x.settle n).claim = x.claim := by
  unfold Stream.settle
  repeat' split
  all_goals rfl
@[simp] theorem Stream.done_regs (x : Stream) (n : Nat) : (x.done n).regs = x.regs := by
  unfold Stream.done
  repeat' split
  all_goals simp
@[simp] theorem Stream.done_hdr (x : Stream) (n : Nat) : (x.done n).hdr = x.hdr := by
  unfold Stream.done
  repeat' split
  all_goals simp
@[simp] theorem Stream.done_bodyEnd (x : Stream) (n : Nat) : (x.done n).bodyEnd = x.bodyEnd := by
  unfold Stream.done
  repeat' split
  all_goals simp
@[simp] theorem Stream.done_run (x : Stream) (n : Nat) : (x.done n).run = x.run := by
  unfold Stream.done
  repeat' split
  all_goals simp
@[simp] theorem Stream.done_stack (x : Stream) (n : Nat) : (x.done n).stack = x.stack := by
  unfold Stream.done
  repeat' split
  all_goals simp
@[simp] theorem Stream.done_spl (x : Stream) (n : Nat) : (x.done n).spl = x.spl := by
  unfold Stream.done
  repeat' split
  all_goals simp
@[simp] theorem Stream.done_rsbase (x : Stream) (n : Nat) : (x.done n).rsbase = x.rsbase := by
  unfold Stream.done
  repeat' split
  all_goals simp
@[simp] theorem Stream.done_drop (x : Stream) (n : Nat) : (x.done n).drop = x.drop := by
  unfold Stream.done
  repeat' split
  all_goals simp
@[simp] theorem Stream.done_pause (x : Stream) (n : Nat) : (x.done n).pause = x.pause := by
  unfold Stream.done
  repeat' split
  all_goals simp
@[simp] theorem Stream.done_barwait (x : Stream) (n : Nat) : (x.done n).barwait = x.barwait := by
  unfold Stream.done
  repeat' split
  all_goals simp
@[simp] theorem Stream.done_reply (x : Stream) (n : Nat) : (x.done n).reply = x.reply := by
  unfold Stream.done
  repeat' split
  all_goals simp
@[simp] theorem Stream.done_claim (x : Stream) (n : Nat) : (x.done n).claim = x.claim := by
  unfold Stream.done
  repeat' split
  all_goals simp
@[simp] theorem Stream.done_stall (x : Stream) (n : Nat) : (x.done n).stall = 0 := by
  unfold Stream.done
  repeat' split
  all_goals simp
@[simp] theorem Stream.done_stallCycles (x : Stream) (n : Nat) : (x.done n).stallCycles = 0 := by
  unfold Stream.done
  repeat' split
  all_goals simp

end Sys2Proof.Machine
end

