-- ==== Sys2Proof/Laws/Ops.lean ====
section
/-!
SUPPORT. One law for each shared operation of Machine/Ops.lean and Machine/Queues.lean: all that it can do.
-/
namespace Sys2Proof.Machine

/-! ### Scalar registers -/

@[simp] theorem Stream.get_zero (x : Stream) : x.get 0 = 0 := rfl

@[simp] theorem Stream.put_zero (x : Stream) (v : Word) : x.put 0 v = x := rfl

theorem Stream.get_put_same (x : Stream) {r : Reg} (v : Word) (h : r ≠ 0) : (x.put r v).get r = v := by
  simp only [Stream.get, Stream.put, h, if_false]
  exact Vector.getElem_set_self _

theorem Stream.get_put_ne (x : Stream) {r q : Reg} (v : Word) (h : q ≠ r) : (x.put r v).get q = x.get q := by
  unfold Stream.get Stream.put
  by_cases hr : r = 0
  · simp [hr]
  · simp only [hr, if_false]
    split
    · rfl
    · exact Vector.getElem_set_ne _ _ fun e => h (BitVec.eq_of_toNat_eq e.symm)

@[simp] theorem Stream.get_done (x : Stream) (n : Nat) (r : Reg) : (x.done n).get r = x.get r := by
  simp [Stream.get]

@[simp] theorem State.rd_zero (s : State) : s.rd 0 = 0 := rfl

@[simp] theorem State.me_wr (s : State) (r : Reg) (v : Word) : (s.wr r v).me = s.me.put r v := State.me_setMe ..

@[simp] theorem State.me_complete (s : State) (n : Nat) : (s.complete n).me = s.me.done n := State.me_setMe ..

@[simp] theorem State.rd_complete (s : State) (n : Nat) (r : Reg) : (s.complete n).rd r = s.rd r := by
  simp [State.rd]

theorem State.rd_wr_same (s : State) {r : Reg} (v : Word) (h : r ≠ 0) : (s.wr r v).rd r = v := by
  simp [State.rd, Stream.get_put_same _ _ h]

theorem State.rd_wr_ne (s : State) {r q : Reg} (v : Word) (h : q ≠ r) : (s.wr r v).rd q = s.rd q := by
  simp [State.rd, Stream.get_put_ne _ _ h]

/-! ### The end of an instruction -/

theorem Stream.goesOn_settle (x : Stream) (next : Word) : x.GoesOn (x.settle next) next := by
  unfold Stream.settle
  refine ⟨fun h => ?_, fun h h0 => ?_, fun h h0 => ?_⟩
  · rw [if_neg h]
    exact ⟨rfl, rfl, rfl, rfl⟩
  · rw [if_pos h, if_pos h0]
    exact ⟨rfl, h0, rfl, rfl⟩
  · rw [if_pos h, if_neg h0]
    exact ⟨rfl, rfl, rfl, rfl⟩

theorem Stream.advanced_done (x : Stream) (n : Nat) : x.Advanced (x.done n) n := by
  refine ⟨by simp, by simp, fun r hr hlt => ?_, fun r hr hle => ?_, fun hr => ?_⟩
  · simp [Stream.done, hr, hlt]
  · have e : x.done n = { x.calm with rep := none }.settle (x.pc + 4 + BitVec.ofNat 64 n) := by
      simp only [Stream.done, hr, if_neg (Nat.not_lt.2 hle)]
    rw [e]
    exact ⟨by simp, Stream.goesOn_settle { x.calm with rep := none } _⟩
  · have e : x.done n = x.calm.settle (x.pc + BitVec.ofNat 64 n) := by simp only [Stream.done, hr]
    rw [e]
    exact ⟨by simp [hr], Stream.goesOn_settle x.calm _⟩

theorem Stream.sameControl_done (x : Stream) (n : Nat) : x.SameControl (x.done n) := by
  simp [Stream.SameControl]

theorem Stream.put_done_comm (x : Stream) (d : Reg) (v : Word) (n : Nat) : (x.put d v).done n = (x.done n).put d v := by
  unfold Stream.put
  split
  · rfl
  · unfold Stream.done Stream.settle Stream.calm
    dsimp only
    repeat' split
    all_goals rfl

theorem onlyMe_setMe (s : State) (x : Stream) : OnlyMe s (s.setMe x) := by
  simp [OnlyMe]

theorem State.complete_eq (s : State) (n : Nat) : s.complete n = s.setMe (s.me.done n) := rfl

theorem Stream.put_zero_regs (x : Stream) {d : Reg} (v : Word) (h : d = 0) : x.put d v = x := by subst h; rfl

theorem Stream.advanced_put_done (x : Stream) (d : Reg) (v : Word) (n : Nat) : x.Advanced ((x.put d v).done n) n := by
  rw [Stream.put_done_comm]
  simpa [Stream.Advanced, Stream.GoesOn] using Stream.advanced_done x n

theorem Stream.sameControl_put_done (x : Stream) (d : Reg) (v : Word) (n : Nat) :
    x.SameControl ((x.put d v).done n) := by
  simp [Stream.SameControl]

/-- What the end of an instruction that writes one scalar register does to its stream. -/
theorem Stream.wrote_put_done (x : Stream) (d : Reg) (v : Word) (n : Nat) : x.Wrote ((x.put d v).done n) d v n where
  value h := by simpa using Stream.get_put_same x v h
  zero h := by subst h; simpa using congrArg Stream.regs (Stream.put_zero x v)
  others r h := by simpa using Stream.get_put_ne x v h
  control := Stream.sameControl_put_done ..
  next := Stream.advanced_put_done ..

/-- What the end of an instruction that writes no scalar register does to its stream. -/
theorem Stream.went_done (x : Stream) (n : Nat) : x.Went (x.done n) n :=
  ⟨by simp, Stream.sameControl_done x n, Stream.advanced_done x n⟩

/-- An instruction that ends by completing on a machine whose issuing stream is still the one it began with. -/
theorem does_of (s u : State) (i : Instr) (n : Nat) (h : exec i s = .next (u.complete n)) (hm : u.me = s.me) :
    Does s i u n :=
  ⟨_, h, onlyMe_setMe u _, by simpa [hm] using Stream.went_done s.me n⟩

/-- The same for an instruction that writes a scalar register last. -/
theorem yields_of (s u : State) (i : Instr) (d : Reg) (v : Word) (n : Nat)
    (h : exec i s = .next ((u.wr d v).complete n)) (hm : u.me = s.me) : Yields s i u d v n := by
  refine ⟨_, h, ?_, by simpa [hm] using Stream.wrote_put_done s.me d v n⟩
  have : (u.wr d v).complete n = u.setMe ((u.me.put d v).done n) := by simp [State.complete, State.wr]
  rw [this]
  exact onlyMe_setMe u _

theorem gives_of (s : State) (i : Instr) (d : Reg) (v : Word) (n : Nat)
    (h : exec i s = .next ((s.wr d v).complete n)) : Gives s i d v n :=
  yields_of s s i d v n h rfl

theorem passes_of (s : State) (i : Instr) (n : Nat) (h : exec i s = .next (s.complete n)) : Passes s i n :=
  does_of s s i n h rfl

theorem stalls_of (s : State) (i : Instr) (kind : Nat) (h : exec i s = .next (s.stallOn kind)) : Stalls s i kind := by
  refine ⟨_, h, ?_, ?_⟩
  · exact onlyMe_setMe ..
  · simp [State.stallOn]

/-! ### Faults -/

theorem State.raise_eq_fault (s : State) (h : s.cur.spec = none) (c : BitVec 8) (d : BitVec 16) (a x : Word) :
    s.raise c d a x = s.fault c d a x := by
  simp [State.raise, h]

theorem faulted_fault (s : State) (c : BitVec 8) (d : BitVec 16) (a x : Word) :
    Faulted s (s.fault c d a x) c d a (s.faultRec c s.who.num false d s.me.iaddr a (s.me.aux x)) where
  state := rfl
  cause := rfl
  detail := rfl
  iaddr := rfl
  faddr := rfl
  src := by
    show (BitVec.ofNat 3 s.who.num).toNat = s.who.num
    cases s.who <;> rfl
  sys := rfl
  precise := rfl
  rin := rfl

theorem faults_of (s : State) (i : Instr) (hs : s.cur.spec = none) (c : BitVec 8) (d : BitVec 16) (a x : Word)
    (h : exec i s = .next (s.raise c d a x)) : Faults s i c d a :=
  ⟨_, _, by rw [h, State.raise_eq_fault s hs], faulted_fault s c d a x⟩

/-! ### Flags and interrupts -/

/-- A raised flag stays: no flag of cfg.fflags falls (R121). -/
theorem State.raiseFlags_sticky (s : State) (f : BitVec 5) (i : Nat) (h : s.cur.fflags.getLsbD i = true) :
    (s.raiseFlags f).cur.fflags.getLsbD i = true := by
  simp [h]

/-- A table with one entry has the leaves of that entry. -/
theorem leavesOf_one {m : Memory} {unit fuel level key : Nat} (i : Nat) (hi : i < 1024)
    (h : ∀ c ∈ m, (c.1 < key ∨ key + 8192 ≤ c.1) ∨ (key + 8 * i ≤ c.1 ∧ c.1 < key + 8 * i + 8)) :
    leavesOf m unit (fuel + 1) level key =
      let e := m.nat (key + 8 * i) 8
      let target := physKey (e / 2 ^ 52 % 2048) (e / 2 ^ 13 % 2 ^ 39 * 2 ^ 13)
      if e % 2 = 0 then []
      else if e / 2 % 2 = 1 then
        if target / 65536 ≤ unit && unit < target / 65536 + 1024 ^ (3 - level) then [(key + 8 * i, level, e)] else []
      else leavesOf m unit fuel (level + 1) target := by
  have one {α : Type} (f : Nat → List α) (n : Nat) (hn : i < n) (hf : ∀ j < n, j ≠ i → f j = []) : (upto n).flatMap f = f i := by
    induction n with
    | zero => omega
    | succ n ih =>
      have hu : upto (n + 1) = upto n ++ [n] := List.range_succ
      rw [hu, List.flatMap_append]
      by_cases hin : i = n
      · subst hin
        have : (upto i).flatMap f = [] := by
          rw [List.flatMap_eq_nil_iff]
          intro j hj
          have := List.mem_range.1 hj
          exact hf j (by omega) (by omega)
        simp [this]
      · rw [ih (by omega) fun j hj hne => hf j (by omega) hne]
        simp [hf n (by omega) fun e => hin e.symm]
  rw [leavesOf]
  refine one _ 1024 hi fun j hj hne => ?_
  have : m.nat (key + 8 * j) 8 = 0 := Memory.nat_unlisted fun c hc => by have := h c hc; omega
  simp [this]

end Sys2Proof.Machine
end

