-- ==== Sys2Proof/Laws/PerInstr.lean ====
section
/-!
SUPPORT. One lemma per instruction: the decoder reads what the encoder writes.
-/
set_option Elab.async false
set_option linter.unusedSimpArgs false
set_option linter.unusedVariables false

namespace Sys2Proof.Laws

/-- The two lowest bits of a code, which tell a halfword from a word (R153). -/
def RoundTrip.Quadrant : Code → Prop
  | .half h => bits h 0 2 = 0#2 ∨ bits h 0 2 = 1#2
  | .word w => bits w 0 2 = 3#2
  | .wide w _ => bits w 0 2 = 3#2

/-- The decoder reads back every code that the encoder writes for a well-formed instruction, and its length. -/
def RoundTrip.Statement (i : Instr) : Prop :=
  ∀ c, encode i = some c → wellFormed i = true → decode c = some i ∧ RoundTrip.Quadrant c

theorem RoundTrip.of_raw (i : Instr) (c : Code) (h : encode i = some c) (hq : RoundTrip.Quadrant c)
    (hr : wellFormed i = true → decodeRaw c = some i) : RoundTrip.Statement i := by
  intro c' h' hw
  rw [h] at h'
  cases h'
  exact ⟨by simp [decode, hr hw, hw], hq⟩

theorem RoundTrip.of_none (i : Instr) (h : encode i = none) : RoundTrip.Statement i := by
  intro c hc
  rw [h] at hc
  cases hc


theorem RoundTrip.caddi x0 x1 : RoundTrip.Statement (.caddi x0 x1) := RoundTrip.of_raw _ _ rfl (by simp [RoundTrip.Quadrant, bits]) fun hw => by simp [decodeRaw, major, decodeWord, bits, onlyIf, decodeHalf, getLsbD_extract, getElem_extract]
theorem RoundTrip.cli x0 x1 : RoundTrip.Statement (.cli x0 x1) := RoundTrip.of_raw _ _ rfl (by simp [RoundTrip.Quadrant, bits]) fun hw => by simp [decodeRaw, major, decodeWord, bits, onlyIf, decodeHalf, getLsbD_extract, getElem_extract]
theorem RoundTrip.cshli x0 x1 : RoundTrip.Statement (.cshli x0 x1) := RoundTrip.of_raw _ _ rfl (by simp [RoundTrip.Quadrant, bits]) fun hw => by simp [decodeRaw, major, decodeWord, bits, onlyIf, decodeHalf, getLsbD_extract, getElem_extract]
theorem RoundTrip.cshri x0 x1 : RoundTrip.Statement (.cshri x0 x1) := RoundTrip.of_raw _ _ rfl (by simp [RoundTrip.Quadrant, bits]) fun hw => by simp [decodeRaw, major, decodeWord, bits, onlyIf, decodeHalf, getLsbD_extract, getElem_extract]
theorem RoundTrip.csrai x0 x1 : RoundTrip.Statement (.csrai x0 x1) := RoundTrip.of_raw _ _ rfl (by simp [RoundTrip.Quadrant, bits]) fun hw => by simp [decodeRaw, major, decodeWord, bits, onlyIf, decodeHalf, getLsbD_extract, getElem_extract]
theorem RoundTrip.candi x0 x1 : RoundTrip.Statement (.candi x0 x1) := RoundTrip.of_raw _ _ rfl (by simp [RoundTrip.Quadrant, bits]) fun hw => by simp [decodeRaw, major, decodeWord, bits, onlyIf, decodeHalf, getLsbD_extract, getElem_extract]
theorem RoundTrip.cmov x0 x1 : RoundTrip.Statement (.cmov x0 x1) := RoundTrip.of_raw _ _ rfl (by simp [RoundTrip.Quadrant, bits]) fun hw => by simp [decodeRaw, major, decodeWord, bits, onlyIf, decodeHalf, getLsbD_extract, getElem_extract]
theorem RoundTrip.cadd x0 x1 : RoundTrip.Statement (.cadd x0 x1) := RoundTrip.of_raw _ _ rfl (by simp [RoundTrip.Quadrant, bits]) fun hw => by simp [decodeRaw, major, decodeWord, bits, onlyIf, decodeHalf, getLsbD_extract, getElem_extract]
theorem RoundTrip.cnop : RoundTrip.Statement (.cnop) := RoundTrip.of_raw _ _ rfl (by simp [RoundTrip.Quadrant, bits]) fun hw => by simp [decodeRaw, major, decodeWord, bits, onlyIf, decodeHalf, getLsbD_extract, getElem_extract]
theorem RoundTrip.cqpush x0 x1 : RoundTrip.Statement (.cqpush x0 x1) := RoundTrip.of_raw _ _ rfl (by simp [RoundTrip.Quadrant, bits]) fun hw => by simp [decodeRaw, major, decodeWord, bits, onlyIf, decodeHalf, getLsbD_extract, getElem_extract]
theorem RoundTrip.cqpop x0 x1 : RoundTrip.Statement (.cqpop x0 x1) := RoundTrip.of_raw _ _ rfl (by simp [RoundTrip.Quadrant, bits]) fun hw => by simp [decodeRaw, major, decodeWord, bits, onlyIf, decodeHalf, getLsbD_extract, getElem_extract]
theorem RoundTrip.cbqpush x0 x1 : RoundTrip.Statement (.cbqpush x0 x1) := RoundTrip.of_raw _ _ rfl (by simp [RoundTrip.Quadrant, bits]) fun hw => by simp [decodeRaw, major, decodeWord, bits, onlyIf, decodeHalf, getLsbD_extract, getElem_extract]
theorem RoundTrip.cret : RoundTrip.Statement (.cret) := RoundTrip.of_raw _ _ rfl (by simp [RoundTrip.Quadrant, bits]) fun hw => by simp [decodeRaw, major, decodeWord, bits, onlyIf, decodeHalf, getLsbD_extract, getElem_extract]
theorem RoundTrip.add x0 x1 x2 : RoundTrip.Statement (.add x0 x1 x2) := by cases x2 <;> exact RoundTrip.of_raw _ _ rfl (by simp [RoundTrip.Quadrant, bits, encSalu]) fun hw => by simp [decodeRaw, major, decodeWord, bits, onlyIf, decodeSalu, encSalu]
theorem RoundTrip.sub x0 x1 x2 : RoundTrip.Statement (.sub x0 x1 x2) := by cases x2 <;> exact RoundTrip.of_raw _ _ rfl (by simp [RoundTrip.Quadrant, bits, encSalu]) fun hw => by simp [decodeRaw, major, decodeWord, bits, onlyIf, decodeSalu, encSalu]
theorem RoundTrip.and x0 x1 x2 : RoundTrip.Statement (.and x0 x1 x2) := by cases x2 <;> exact RoundTrip.of_raw _ _ rfl (by simp [RoundTrip.Quadrant, bits, encSalu]) fun hw => by simp [decodeRaw, major, decodeWord, bits, onlyIf, decodeSalu, encSalu]
theorem RoundTrip.or x0 x1 x2 : RoundTrip.Statement (.or x0 x1 x2) := by cases x2 <;> exact RoundTrip.of_raw _ _ rfl (by simp [RoundTrip.Quadrant, bits, encSalu]) fun hw => by simp [decodeRaw, major, decodeWord, bits, onlyIf, decodeSalu, encSalu]
theorem RoundTrip.xor x0 x1 x2 : RoundTrip.Statement (.xor x0 x1 x2) := by cases x2 <;> exact RoundTrip.of_raw _ _ rfl (by simp [RoundTrip.Quadrant, bits, encSalu]) fun hw => by simp [decodeRaw, major, decodeWord, bits, onlyIf, decodeSalu, encSalu]
theorem RoundTrip.shl x0 x1 x2 : RoundTrip.Statement (.shl x0 x1 x2) := by cases x2 <;> exact RoundTrip.of_raw _ _ rfl (by simp [RoundTrip.Quadrant, bits, encSalu]) fun hw => by simp [decodeRaw, major, decodeWord, bits, onlyIf, decodeSalu, encSalu]
theorem RoundTrip.shr x0 x1 x2 : RoundTrip.Statement (.shr x0 x1 x2) := by cases x2 <;> exact RoundTrip.of_raw _ _ rfl (by simp [RoundTrip.Quadrant, bits, encSalu]) fun hw => by simp [decodeRaw, major, decodeWord, bits, onlyIf, decodeSalu, encSalu]
theorem RoundTrip.sra x0 x1 x2 : RoundTrip.Statement (.sra x0 x1 x2) := by cases x2 <;> exact RoundTrip.of_raw _ _ rfl (by simp [RoundTrip.Quadrant, bits, encSalu]) fun hw => by simp [decodeRaw, major, decodeWord, bits, onlyIf, decodeSalu, encSalu]
theorem RoundTrip.mul x0 x1 x2 : RoundTrip.Statement (.mul x0 x1 x2) := by cases x2 <;> exact RoundTrip.of_raw _ _ rfl (by simp [RoundTrip.Quadrant, bits, encSalu]) fun hw => by simp [decodeRaw, major, decodeWord, bits, onlyIf, decodeSalu, encSalu]
theorem RoundTrip.mulh x0 x1 x2 : RoundTrip.Statement (.mulh x0 x1 x2) := by cases x2 <;> exact RoundTrip.of_raw _ _ rfl (by simp [RoundTrip.Quadrant, bits, encSalu]) fun hw => by simp [decodeRaw, major, decodeWord, bits, onlyIf, decodeSalu, encSalu]
theorem RoundTrip.mulhU x0 x1 x2 : RoundTrip.Statement (.mulhU x0 x1 x2) := by cases x2 <;> exact RoundTrip.of_raw _ _ rfl (by simp [RoundTrip.Quadrant, bits, encSalu]) fun hw => by simp [decodeRaw, major, decodeWord, bits, onlyIf, decodeSalu, encSalu]
theorem RoundTrip.div x0 x1 x2 : RoundTrip.Statement (.div x0 x1 x2) := by cases x2 <;> exact RoundTrip.of_raw _ _ rfl (by simp [RoundTrip.Quadrant, bits, encSalu]) fun hw => by simp [decodeRaw, major, decodeWord, bits, onlyIf, decodeSalu, encSalu]
theorem RoundTrip.divU x0 x1 x2 : RoundTrip.Statement (.divU x0 x1 x2) := by cases x2 <;> exact RoundTrip.of_raw _ _ rfl (by simp [RoundTrip.Quadrant, bits, encSalu]) fun hw => by simp [decodeRaw, major, decodeWord, bits, onlyIf, decodeSalu, encSalu]
theorem RoundTrip.rem x0 x1 x2 : RoundTrip.Statement (.rem x0 x1 x2) := by cases x2 <;> exact RoundTrip.of_raw _ _ rfl (by simp [RoundTrip.Quadrant, bits, encSalu]) fun hw => by simp [decodeRaw, major, decodeWord, bits, onlyIf, decodeSalu, encSalu]
theorem RoundTrip.remU x0 x1 x2 : RoundTrip.Statement (.remU x0 x1 x2) := by cases x2 <;> exact RoundTrip.of_raw _ _ rfl (by simp [RoundTrip.Quadrant, bits, encSalu]) fun hw => by simp [decodeRaw, major, decodeWord, bits, onlyIf, decodeSalu, encSalu]
theorem RoundTrip.min x0 x1 x2 : RoundTrip.Statement (.min x0 x1 x2) := by cases x2 <;> exact RoundTrip.of_raw _ _ rfl (by simp [RoundTrip.Quadrant, bits, encSalu]) fun hw => by simp [decodeRaw, major, decodeWord, bits, onlyIf, decodeSalu, encSalu]
theorem RoundTrip.minU x0 x1 x2 : RoundTrip.Statement (.minU x0 x1 x2) := by cases x2 <;> exact RoundTrip.of_raw _ _ rfl (by simp [RoundTrip.Quadrant, bits, encSalu]) fun hw => by simp [decodeRaw, major, decodeWord, bits, onlyIf, decodeSalu, encSalu]
theorem RoundTrip.max x0 x1 x2 : RoundTrip.Statement (.max x0 x1 x2) := by cases x2 <;> exact RoundTrip.of_raw _ _ rfl (by simp [RoundTrip.Quadrant, bits, encSalu]) fun hw => by simp [decodeRaw, major, decodeWord, bits, onlyIf, decodeSalu, encSalu]
theorem RoundTrip.maxU x0 x1 x2 : RoundTrip.Statement (.maxU x0 x1 x2) := by cases x2 <;> exact RoundTrip.of_raw _ _ rfl (by simp [RoundTrip.Quadrant, bits, encSalu]) fun hw => by simp [decodeRaw, major, decodeWord, bits, onlyIf, decodeSalu, encSalu]
theorem RoundTrip.clz x0 x1 : RoundTrip.Statement (.clz x0 x1) := RoundTrip.of_raw _ _ rfl (by simp [RoundTrip.Quadrant, bits]) fun hw => by simp [decodeRaw, major, decodeWord, bits, onlyIf, decodeSalu]
theorem RoundTrip.popc x0 x1 : RoundTrip.Statement (.popc x0 x1) := RoundTrip.of_raw _ _ rfl (by simp [RoundTrip.Quadrant, bits]) fun hw => by simp [decodeRaw, major, decodeWord, bits, onlyIf, decodeSalu]
theorem RoundTrip.brev x0 x1 : RoundTrip.Statement (.brev x0 x1) := RoundTrip.of_raw _ _ rfl (by simp [RoundTrip.Quadrant, bits]) fun hw => by simp [decodeRaw, major, decodeWord, bits, onlyIf, decodeSalu]
theorem RoundTrip.ext x0 x1 x2 : RoundTrip.Statement (.ext x0 x1 x2) := by cases x2 <;> exact RoundTrip.of_raw _ _ rfl (by simp [RoundTrip.Quadrant, bits, encSalu]) fun hw => by simp [decodeRaw, major, decodeWord, bits, onlyIf, decodeSalu, encSalu]
theorem RoundTrip.extS x0 x1 x2 : RoundTrip.Statement (.extS x0 x1 x2) := by cases x2 <;> exact RoundTrip.of_raw _ _ rfl (by simp [RoundTrip.Quadrant, bits, encSalu]) fun hw => by simp [decodeRaw, major, decodeWord, bits, onlyIf, decodeSalu, encSalu]
theorem RoundTrip.ins x0 x1 x2 : RoundTrip.Statement (.ins x0 x1 x2) := by cases x2 <;> exact RoundTrip.of_raw _ _ rfl (by simp [RoundTrip.Quadrant, bits, encSalu]) fun hw => by simp [decodeRaw, major, decodeWord, bits, onlyIf, decodeSalu, encSalu]
theorem RoundTrip.madda x0 x1 x2 : RoundTrip.Statement (.madda x0 x1 x2) := by cases x2 <;> exact RoundTrip.of_raw _ _ rfl (by simp [RoundTrip.Quadrant, bits, encSalu]) fun hw => by simp [decodeRaw, major, decodeWord, bits, onlyIf, decodeSalu, encSalu]
theorem RoundTrip.addImm x0 x1 x2 : RoundTrip.Statement (.addImm x0 x1 x2) := by cases x2 <;> exact RoundTrip.of_raw _ _ rfl (by simp [RoundTrip.Quadrant, bits, encSalui]) fun hw => by simp [decodeRaw, major, decodeWord, bits, onlyIf, decodeSalui, encSalui]
theorem RoundTrip.subImm x0 x1 x2 : RoundTrip.Statement (.subImm x0 x1 x2) := by cases x2 <;> exact RoundTrip.of_raw _ _ rfl (by simp [RoundTrip.Quadrant, bits, encSalui]) fun hw => by simp [decodeRaw, major, decodeWord, bits, onlyIf, decodeSalui, encSalui]
theorem RoundTrip.andImm x0 x1 x2 : RoundTrip.Statement (.andImm x0 x1 x2) := by cases x2 <;> exact RoundTrip.of_raw _ _ rfl (by simp [RoundTrip.Quadrant, bits, encSalui]) fun hw => by simp [decodeRaw, major, decodeWord, bits, onlyIf, decodeSalui, encSalui]
theorem RoundTrip.orImm x0 x1 x2 : RoundTrip.Statement (.orImm x0 x1 x2) := by cases x2 <;> exact RoundTrip.of_raw _ _ rfl (by simp [RoundTrip.Quadrant, bits, encSalui]) fun hw => by simp [decodeRaw, major, decodeWord, bits, onlyIf, decodeSalui, encSalui]
theorem RoundTrip.xorImm x0 x1 x2 : RoundTrip.Statement (.xorImm x0 x1 x2) := by cases x2 <;> exact RoundTrip.of_raw _ _ rfl (by simp [RoundTrip.Quadrant, bits, encSalui]) fun hw => by simp [decodeRaw, major, decodeWord, bits, onlyIf, decodeSalui, encSalui]
theorem RoundTrip.shlImm x0 x1 x2 : RoundTrip.Statement (.shlImm x0 x1 x2) := by cases x2 <;> exact RoundTrip.of_raw _ _ rfl (by simp [RoundTrip.Quadrant, bits, encSalui]) fun hw => by simp [decodeRaw, major, decodeWord, bits, onlyIf, decodeSalui, encSalui]
theorem RoundTrip.shrImm x0 x1 x2 : RoundTrip.Statement (.shrImm x0 x1 x2) := by cases x2 <;> exact RoundTrip.of_raw _ _ rfl (by simp [RoundTrip.Quadrant, bits, encSalui]) fun hw => by simp [decodeRaw, major, decodeWord, bits, onlyIf, decodeSalui, encSalui]
theorem RoundTrip.sraImm x0 x1 x2 : RoundTrip.Statement (.sraImm x0 x1 x2) := by cases x2 <;> exact RoundTrip.of_raw _ _ rfl (by simp [RoundTrip.Quadrant, bits, encSalui]) fun hw => by simp [decodeRaw, major, decodeWord, bits, onlyIf, decodeSalui, encSalui]
theorem RoundTrip.mulImm x0 x1 x2 : RoundTrip.Statement (.mulImm x0 x1 x2) := by cases x2 <;> exact RoundTrip.of_raw _ _ rfl (by simp [RoundTrip.Quadrant, bits, encSalui]) fun hw => by simp [decodeRaw, major, decodeWord, bits, onlyIf, decodeSalui, encSalui]
theorem RoundTrip.mulhImm x0 x1 x2 : RoundTrip.Statement (.mulhImm x0 x1 x2) := by cases x2 <;> exact RoundTrip.of_raw _ _ rfl (by simp [RoundTrip.Quadrant, bits, encSalui]) fun hw => by simp [decodeRaw, major, decodeWord, bits, onlyIf, decodeSalui, encSalui]
theorem RoundTrip.mulhUImm x0 x1 x2 : RoundTrip.Statement (.mulhUImm x0 x1 x2) := by cases x2 <;> exact RoundTrip.of_raw _ _ rfl (by simp [RoundTrip.Quadrant, bits, encSalui]) fun hw => by simp [decodeRaw, major, decodeWord, bits, onlyIf, decodeSalui, encSalui]
theorem RoundTrip.divImm x0 x1 x2 : RoundTrip.Statement (.divImm x0 x1 x2) := by cases x2 <;> exact RoundTrip.of_raw _ _ rfl (by simp [RoundTrip.Quadrant, bits, encSalui]) fun hw => by simp [decodeRaw, major, decodeWord, bits, onlyIf, decodeSalui, encSalui]
theorem RoundTrip.divUImm x0 x1 x2 : RoundTrip.Statement (.divUImm x0 x1 x2) := by cases x2 <;> exact RoundTrip.of_raw _ _ rfl (by simp [RoundTrip.Quadrant, bits, encSalui]) fun hw => by simp [decodeRaw, major, decodeWord, bits, onlyIf, decodeSalui, encSalui]
theorem RoundTrip.remImm x0 x1 x2 : RoundTrip.Statement (.remImm x0 x1 x2) := by cases x2 <;> exact RoundTrip.of_raw _ _ rfl (by simp [RoundTrip.Quadrant, bits, encSalui]) fun hw => by simp [decodeRaw, major, decodeWord, bits, onlyIf, decodeSalui, encSalui]
theorem RoundTrip.remUImm x0 x1 x2 : RoundTrip.Statement (.remUImm x0 x1 x2) := by cases x2 <;> exact RoundTrip.of_raw _ _ rfl (by simp [RoundTrip.Quadrant, bits, encSalui]) fun hw => by simp [decodeRaw, major, decodeWord, bits, onlyIf, decodeSalui, encSalui]
theorem RoundTrip.minImm x0 x1 x2 : RoundTrip.Statement (.minImm x0 x1 x2) := by cases x2 <;> exact RoundTrip.of_raw _ _ rfl (by simp [RoundTrip.Quadrant, bits, encSalui]) fun hw => by simp [decodeRaw, major, decodeWord, bits, onlyIf, decodeSalui, encSalui]
theorem RoundTrip.minUImm x0 x1 x2 : RoundTrip.Statement (.minUImm x0 x1 x2) := by cases x2 <;> exact RoundTrip.of_raw _ _ rfl (by simp [RoundTrip.Quadrant, bits, encSalui]) fun hw => by simp [decodeRaw, major, decodeWord, bits, onlyIf, decodeSalui, encSalui]
theorem RoundTrip.maxImm x0 x1 x2 : RoundTrip.Statement (.maxImm x0 x1 x2) := by cases x2 <;> exact RoundTrip.of_raw _ _ rfl (by simp [RoundTrip.Quadrant, bits, encSalui]) fun hw => by simp [decodeRaw, major, decodeWord, bits, onlyIf, decodeSalui, encSalui]
theorem RoundTrip.maxUImm x0 x1 x2 : RoundTrip.Statement (.maxUImm x0 x1 x2) := by cases x2 <;> exact RoundTrip.of_raw _ _ rfl (by simp [RoundTrip.Quadrant, bits, encSalui]) fun hw => by simp [decodeRaw, major, decodeWord, bits, onlyIf, decodeSalui, encSalui]
theorem RoundTrip.li x0 x1 : RoundTrip.Statement (.li x0 x1) := RoundTrip.of_raw _ _ rfl (by simp [RoundTrip.Quadrant, bits]) fun hw => by simp [decodeRaw, major, decodeWord, bits, onlyIf, decodeLi, getLsbD_extract, getElem_extract, hasLiteral, getLsbD_extract, getElem_extract]
theorem RoundTrip.liw x0 x1 : RoundTrip.Statement (.liw x0 x1) := RoundTrip.of_raw _ _ rfl (by simp [RoundTrip.Quadrant, bits]) fun hw => by simp [decodeRaw, major, decodeWord, bits, onlyIf, decodeLi, getLsbD_extract, getElem_extract, hasLiteral, getLsbD_extract, getElem_extract]
theorem RoundTrip.liwH x0 x1 : RoundTrip.Statement (.liwH x0 x1) := RoundTrip.of_raw _ _ rfl (by simp [RoundTrip.Quadrant, bits]) fun hw => by simp [decodeRaw, major, decodeWord, bits, onlyIf, decodeLi, getLsbD_extract, getElem_extract, hasLiteral, getLsbD_extract, getElem_extract]
theorem RoundTrip.cbEq x0 x1 x2 : RoundTrip.Statement (.cbEq x0 x1 x2) := by cases x2 <;> exact RoundTrip.of_raw _ _ rfl (by simp [RoundTrip.Quadrant, bits, encBr]) fun hw => by simp [decodeRaw, major, decodeWord, bits, onlyIf, decodeBr, readOff, encBr]
theorem RoundTrip.cbNe x0 x1 x2 : RoundTrip.Statement (.cbNe x0 x1 x2) := by cases x2 <;> exact RoundTrip.of_raw _ _ rfl (by simp [RoundTrip.Quadrant, bits, encBr]) fun hw => by simp [decodeRaw, major, decodeWord, bits, onlyIf, decodeBr, readOff, encBr]
theorem RoundTrip.cbLt x0 x1 x2 : RoundTrip.Statement (.cbLt x0 x1 x2) := by cases x2 <;> exact RoundTrip.of_raw _ _ rfl (by simp [RoundTrip.Quadrant, bits, encBr]) fun hw => by simp [decodeRaw, major, decodeWord, bits, onlyIf, decodeBr, readOff, encBr]
theorem RoundTrip.cbGe x0 x1 x2 : RoundTrip.Statement (.cbGe x0 x1 x2) := by cases x2 <;> exact RoundTrip.of_raw _ _ rfl (by simp [RoundTrip.Quadrant, bits, encBr]) fun hw => by simp [decodeRaw, major, decodeWord, bits, onlyIf, decodeBr, readOff, encBr]
theorem RoundTrip.cbLtU x0 x1 x2 : RoundTrip.Statement (.cbLtU x0 x1 x2) := by cases x2 <;> exact RoundTrip.of_raw _ _ rfl (by simp [RoundTrip.Quadrant, bits, encBr]) fun hw => by simp [decodeRaw, major, decodeWord, bits, onlyIf, decodeBr, readOff, encBr]
theorem RoundTrip.cbGeU x0 x1 x2 : RoundTrip.Statement (.cbGeU x0 x1 x2) := by cases x2 <;> exact RoundTrip.of_raw _ _ rfl (by simp [RoundTrip.Quadrant, bits, encBr]) fun hw => by simp [decodeRaw, major, decodeWord, bits, onlyIf, decodeBr, readOff, encBr]
theorem RoundTrip.b x0 : RoundTrip.Statement (.b x0) := by cases x0 <;> exact RoundTrip.of_raw _ _ rfl (by simp [RoundTrip.Quadrant, bits, encBr]) fun hw => by simp [decodeRaw, major, decodeWord, bits, onlyIf, decodeBr, readOff, encBr]
theorem RoundTrip.bqb x0 x1 : RoundTrip.Statement (.bqb x0 x1) := by cases x1 <;> exact RoundTrip.of_raw _ _ rfl (by simp [RoundTrip.Quadrant, bits, encBr]) fun hw => by simp [decodeRaw, major, decodeWord, bits, onlyIf, decodeBr, readOff, encBr]
theorem RoundTrip.call x0 : RoundTrip.Statement (.call x0) := by cases x0 <;> exact RoundTrip.of_raw _ _ rfl (by simp [RoundTrip.Quadrant, bits, encBr]) fun hw => by simp [decodeRaw, major, decodeWord, bits, onlyIf, decodeJmp, readOff, encBr]
theorem RoundTrip.ret : RoundTrip.Statement (.ret) := RoundTrip.of_raw _ _ rfl (by simp [RoundTrip.Quadrant, bits]) fun hw => by simp [decodeRaw, major, decodeWord, bits, onlyIf, decodeJmp, readOff]
theorem RoundTrip.jmpr x0 x1 : RoundTrip.Statement (.jmpr x0 x1) := by cases x1 <;> exact RoundTrip.of_raw _ _ rfl (by simp [RoundTrip.Quadrant, bits, encBr]) fun hw => by simp [decodeRaw, major, decodeWord, bits, onlyIf, decodeJmp, readOff, encBr]
theorem RoundTrip.callr x0 : RoundTrip.Statement (.callr x0) := RoundTrip.of_raw _ _ rfl (by simp [RoundTrip.Quadrant, bits]) fun hw => by simp [decodeRaw, major, decodeWord, bits, onlyIf, decodeJmp, readOff]
theorem RoundTrip.qpush x0 x1 : RoundTrip.Statement (.qpush x0 x1) := RoundTrip.of_raw _ _ rfl (by simp [RoundTrip.Quadrant, bits]) fun hw => by simp [decodeRaw, major, decodeWord, bits, onlyIf, decodeQop]
theorem RoundTrip.qpop x0 x1 : RoundTrip.Statement (.qpop x0 x1) := RoundTrip.of_raw _ _ rfl (by simp [RoundTrip.Quadrant, bits]) fun hw => by simp [decodeRaw, major, decodeWord, bits, onlyIf, decodeQop]
theorem RoundTrip.qdrop x0 x1 : RoundTrip.Statement (.qdrop x0 x1) := RoundTrip.of_raw _ _ rfl (by simp [RoundTrip.Quadrant, bits]) fun hw => by simp [decodeRaw, major, decodeWord, bits, onlyIf, decodeQop]
theorem RoundTrip.qdropN x0 x1 : RoundTrip.Statement (.qdropN x0 x1) := RoundTrip.of_raw _ _ rfl (by simp [RoundTrip.Quadrant, bits]) fun hw => by simp [decodeRaw, major, decodeWord, bits, onlyIf, decodeQop]
theorem RoundTrip.bqpush x0 x1 : RoundTrip.Statement (.bqpush x0 x1) := RoundTrip.of_raw _ _ rfl (by simp [RoundTrip.Quadrant, bits]) fun hw => by simp [decodeRaw, major, decodeWord, bits, onlyIf, decodeQop]
theorem RoundTrip.wait x0 x1 x2 x3 : RoundTrip.Statement (.wait x0 x1 x2 x3) := RoundTrip.of_raw _ _ rfl (by simp [RoundTrip.Quadrant, bits]) fun hw => by simp [decodeRaw, major, decodeWord, bits, onlyIf, decodeSys]
theorem RoundTrip.pause x0 : RoundTrip.Statement (.pause x0) := RoundTrip.of_raw _ _ rfl (by simp [RoundTrip.Quadrant, bits]) fun hw => by simp [decodeRaw, major, decodeWord, bits, onlyIf, decodeSys]
theorem RoundTrip.cfgr x0 x1 : RoundTrip.Statement (.cfgr x0 x1) := RoundTrip.of_raw _ _ rfl (by simp [RoundTrip.Quadrant, bits]) fun hw => by simp [decodeRaw, major, decodeWord, bits, onlyIf, decodeSys]
theorem RoundTrip.cfgw x0 x1 : RoundTrip.Statement (.cfgw x0 x1) := RoundTrip.of_raw _ _ rfl (by simp [RoundTrip.Quadrant, bits]) fun hw => by simp [decodeRaw, major, decodeWord, bits, onlyIf, decodeSys]
theorem RoundTrip.capr x0 x1 : RoundTrip.Statement (.capr x0 x1) := RoundTrip.of_raw _ _ rfl (by simp [RoundTrip.Quadrant, bits]) fun hw => by simp [decodeRaw, major, decodeWord, bits, onlyIf, decodeSys]
theorem RoundTrip.trap x0 : RoundTrip.Statement (.trap x0) := RoundTrip.of_raw _ _ rfl (by simp [RoundTrip.Quadrant, bits]) fun hw => by simp [decodeRaw, major, decodeWord, bits, onlyIf, decodeSys]
theorem RoundTrip.uiret : RoundTrip.Statement (.uiret) := RoundTrip.of_raw _ _ rfl (by simp [RoundTrip.Quadrant, bits]) fun hw => by simp [decodeRaw, major, decodeWord, bits, onlyIf, decodeSys]
theorem RoundTrip.uimask x0 : RoundTrip.Statement (.uimask x0) := RoundTrip.of_raw _ _ rfl (by simp [RoundTrip.Quadrant, bits]) fun hw => by simp [decodeRaw, major, decodeWord, bits, onlyIf, decodeSys]
theorem RoundTrip.launch x0 x1 x2 : RoundTrip.Statement (.launch x0 x1 x2) := RoundTrip.of_raw _ _ rfl (by simp [RoundTrip.Quadrant, bits]) fun hw => by simp [decodeRaw, major, decodeWord, bits, onlyIf, decodeSys]
theorem RoundTrip.ld x0 x1 x2 x3 x4 : RoundTrip.Statement (.ld x0 x1 x2 x3 x4) := by cases x4 <;> exact RoundTrip.of_raw _ _ rfl (by simp [RoundTrip.Quadrant, bits]) fun hw => by simp [decodeRaw, major, decodeWord, bits, onlyIf, decodeLdst, getLsbD_extract, getElem_extract]
theorem RoundTrip.st x0 x1 x2 x3 : RoundTrip.Statement (.st x0 x1 x2 x3) := by cases x3 <;> exact RoundTrip.of_raw _ _ rfl (by simp [RoundTrip.Quadrant, bits]) fun hw => by simp [decodeRaw, major, decodeWord, bits, onlyIf, decodeLdst, getLsbD_extract, getElem_extract]
theorem RoundTrip.ldIndexed x0 x1 x2 x3 x4 x5 : RoundTrip.Statement (.ldIndexed x0 x1 x2 x3 x4 x5) := RoundTrip.of_raw _ _ rfl (by simp [RoundTrip.Quadrant, bits]) fun hw => by simp [decodeRaw, major, decodeWord, bits, onlyIf, decodeLdstx, getLsbD_extract, getElem_extract]
theorem RoundTrip.stIndexed x0 x1 x2 x3 x4 : RoundTrip.Statement (.stIndexed x0 x1 x2 x3 x4) := RoundTrip.of_raw _ _ rfl (by simp [RoundTrip.Quadrant, bits]) fun hw => by simp [decodeRaw, major, decodeWord, bits, onlyIf, decodeLdstx, getLsbD_extract, getElem_extract]
theorem RoundTrip.ldq x0 x1 x2 x3 x4 : RoundTrip.Statement (.ldq x0 x1 x2 x3 x4) := RoundTrip.of_raw _ _ rfl (by simp [RoundTrip.Quadrant, bits]) fun hw => by simp [decodeRaw, major, decodeWord, bits, onlyIf, decodeLdqs, getLsbD_extract, getElem_extract]
theorem RoundTrip.stq x0 x1 x2 x3 : RoundTrip.Statement (.stq x0 x1 x2 x3) := RoundTrip.of_raw _ _ rfl (by simp [RoundTrip.Quadrant, bits]) fun hw => by simp [decodeRaw, major, decodeWord, bits, onlyIf, decodeLdqs, getLsbD_extract, getElem_extract]
theorem RoundTrip.lda x0 x1 x2 x3 x4 : RoundTrip.Statement (.lda x0 x1 x2 x3 x4) := by cases x4 <;> exact RoundTrip.of_raw _ _ rfl (by simp [RoundTrip.Quadrant, bits, encOrd]) fun hw => by simp [decodeRaw, major, decodeWord, bits, onlyIf, decodeOrd, encOrd]
theorem RoundTrip.strel x0 x1 x2 x3 x4 : RoundTrip.Statement (.strel x0 x1 x2 x3 x4) := by cases x4 <;> exact RoundTrip.of_raw _ _ rfl (by simp [RoundTrip.Quadrant, bits, encOrd]) fun hw => by simp [decodeRaw, major, decodeWord, bits, onlyIf, decodeOrd, encOrd]
theorem RoundTrip.fence x0 : RoundTrip.Statement (.fence x0) := RoundTrip.of_raw _ _ rfl (by simp [RoundTrip.Quadrant, bits, encOrd]) fun hw => by simp [decodeRaw, major, decodeWord, bits, onlyIf, decodeOrd, encOrd]
theorem RoundTrip.pref x0 x1 : RoundTrip.Statement (.pref x0 x1) := by cases x1 <;> exact RoundTrip.of_raw _ _ rfl (by simp [RoundTrip.Quadrant, bits, encOrd]) fun hw => by simp [decodeRaw, major, decodeWord, bits, onlyIf, decodeOrd, encOrd]
theorem RoundTrip.gadd x0 x1 x2 x3 x4 : RoundTrip.Statement (.gadd x0 x1 x2 x3 x4) := RoundTrip.of_raw _ _ rfl (by simp [RoundTrip.Quadrant, bits]) fun hw => by simp [decodeRaw, major, decodeWord, bits, onlyIf, decodeAtom, hasLiteral, getLsbD_extract, getElem_extract]
theorem RoundTrip.gswap x0 x1 x2 x3 x4 x5 : RoundTrip.Statement (.gswap x0 x1 x2 x3 x4 x5) := RoundTrip.of_raw _ _ rfl (by simp [RoundTrip.Quadrant, bits]) fun hw => by simp [decodeRaw, major, decodeWord, bits, onlyIf, decodeAtom, hasLiteral, getLsbD_extract, getElem_extract]
theorem RoundTrip.gcas x0 x1 x2 x3 x4 x5 : RoundTrip.Statement (.gcas x0 x1 x2 x3 x4 x5) := RoundTrip.of_raw _ _ rfl (by simp [RoundTrip.Quadrant, bits]) fun hw => by simp [decodeRaw, major, decodeWord, bits, onlyIf, decodeAtom, hasLiteral, getLsbD_extract, getElem_extract]
theorem RoundTrip.gfadd x0 x1 x2 x3 x4 x5 : RoundTrip.Statement (.gfadd x0 x1 x2 x3 x4 x5) := RoundTrip.of_raw _ _ rfl (by simp [RoundTrip.Quadrant, bits]) fun hw => by simp [decodeRaw, major, decodeWord, bits, onlyIf, decodeAtom, hasLiteral, getLsbD_extract, getElem_extract]
theorem RoundTrip.gbfadd x0 x1 x2 x3 x4 : RoundTrip.Statement (.gbfadd x0 x1 x2 x3 x4) := RoundTrip.of_raw _ _ rfl (by simp [RoundTrip.Quadrant, bits]) fun hw => by simp [decodeRaw, major, decodeWord, bits, onlyIf, decodeAtom, hasLiteral, getLsbD_extract, getElem_extract]
theorem RoundTrip.gincw x0 x1 x2 x3 x4 x5 : RoundTrip.Statement (.gincw x0 x1 x2 x3 x4 x5) := RoundTrip.of_raw _ _ rfl (by simp [RoundTrip.Quadrant, bits]) fun hw => by simp [decodeRaw, major, decodeWord, bits, onlyIf, decodeAtom, hasLiteral, getLsbD_extract, getElem_extract]
theorem RoundTrip.gmin x0 x1 x2 x3 x4 x5 : RoundTrip.Statement (.gmin x0 x1 x2 x3 x4 x5) := RoundTrip.of_raw _ _ rfl (by simp [RoundTrip.Quadrant, bits]) fun hw => by simp [decodeRaw, major, decodeWord, bits, onlyIf, decodeAtom, hasLiteral, getLsbD_extract, getElem_extract]
theorem RoundTrip.gmax x0 x1 x2 x3 x4 x5 : RoundTrip.Statement (.gmax x0 x1 x2 x3 x4 x5) := RoundTrip.of_raw _ _ rfl (by simp [RoundTrip.Quadrant, bits]) fun hw => by simp [decodeRaw, major, decodeWord, bits, onlyIf, decodeAtom, hasLiteral, getLsbD_extract, getElem_extract]
theorem RoundTrip.gand x0 x1 x2 x3 x4 x5 : RoundTrip.Statement (.gand x0 x1 x2 x3 x4 x5) := RoundTrip.of_raw _ _ rfl (by simp [RoundTrip.Quadrant, bits]) fun hw => by simp [decodeRaw, major, decodeWord, bits, onlyIf, decodeAtom, hasLiteral, getLsbD_extract, getElem_extract]
theorem RoundTrip.gor x0 x1 x2 x3 x4 x5 : RoundTrip.Statement (.gor x0 x1 x2 x3 x4 x5) := RoundTrip.of_raw _ _ rfl (by simp [RoundTrip.Quadrant, bits]) fun hw => by simp [decodeRaw, major, decodeWord, bits, onlyIf, decodeAtom, hasLiteral, getLsbD_extract, getElem_extract]
theorem RoundTrip.gswapQ x0 x1 x2 x3 x4 : RoundTrip.Statement (.gswapQ x0 x1 x2 x3 x4) := RoundTrip.of_raw _ _ rfl (by simp [RoundTrip.Quadrant, bits]) fun hw => by simp [decodeRaw, major, decodeWord, bits, onlyIf, decodeAtomw, getLsbD_extract, getElem_extract, hasLiteral, getLsbD_extract, getElem_extract]
theorem RoundTrip.gcasQ x0 x1 x2 x3 x4 : RoundTrip.Statement (.gcasQ x0 x1 x2 x3 x4) := RoundTrip.of_raw _ _ rfl (by simp [RoundTrip.Quadrant, bits]) fun hw => by simp [decodeRaw, major, decodeWord, bits, onlyIf, decodeAtomw, getLsbD_extract, getElem_extract, hasLiteral, getLsbD_extract, getElem_extract]
theorem RoundTrip.gandQ x0 x1 x2 x3 x4 : RoundTrip.Statement (.gandQ x0 x1 x2 x3 x4) := RoundTrip.of_raw _ _ rfl (by simp [RoundTrip.Quadrant, bits]) fun hw => by simp [decodeRaw, major, decodeWord, bits, onlyIf, decodeAtomw, getLsbD_extract, getElem_extract, hasLiteral, getLsbD_extract, getElem_extract]
theorem RoundTrip.gorQ x0 x1 x2 x3 x4 : RoundTrip.Statement (.gorQ x0 x1 x2 x3 x4) := RoundTrip.of_raw _ _ rfl (by simp [RoundTrip.Quadrant, bits]) fun hw => by simp [decodeRaw, major, decodeWord, bits, onlyIf, decodeAtomw, getLsbD_extract, getElem_extract, hasLiteral, getLsbD_extract, getElem_extract]
theorem RoundTrip.barinit x0 x1 x2 x3 x4 : RoundTrip.Statement (.barinit x0 x1 x2 x3 x4) := RoundTrip.of_raw _ _ rfl (by simp [RoundTrip.Quadrant, bits]) fun hw => by simp [decodeRaw, major, decodeWord, bits, onlyIf, decodeAtomw, getLsbD_extract, getElem_extract, hasLiteral, getLsbD_extract, getElem_extract]
theorem RoundTrip.bararr x0 x1 x2 x3 x4 : RoundTrip.Statement (.bararr x0 x1 x2 x3 x4) := RoundTrip.of_raw _ _ rfl (by simp [RoundTrip.Quadrant, bits]) fun hw => by simp [decodeRaw, major, decodeWord, bits, onlyIf, decodeAtomw, getLsbD_extract, getElem_extract, hasLiteral, getLsbD_extract, getElem_extract]
theorem RoundTrip.barwait x0 x1 x2 x3 : RoundTrip.Statement (.barwait x0 x1 x2 x3) := RoundTrip.of_raw _ _ rfl (by simp [RoundTrip.Quadrant, bits]) fun hw => by simp [decodeRaw, major, decodeWord, bits, onlyIf, decodeAtomw, getLsbD_extract, getElem_extract, hasLiteral, getLsbD_extract, getElem_extract]
theorem RoundTrip.barqry x0 x1 x2 x3 : RoundTrip.Statement (.barqry x0 x1 x2 x3) := RoundTrip.of_raw _ _ rfl (by simp [RoundTrip.Quadrant, bits]) fun hw => by simp [decodeRaw, major, decodeWord, bits, onlyIf, decodeAtomw, getLsbD_extract, getElem_extract, hasLiteral, getLsbD_extract, getElem_extract]
theorem RoundTrip.rresv x0 x1 x2 : RoundTrip.Statement (.rresv x0 x1 x2) := RoundTrip.of_raw _ _ rfl (by simp [RoundTrip.Quadrant, bits]) fun hw => by simp [decodeRaw, major, decodeWord, bits, onlyIf, decodeRing]
theorem RoundTrip.rpub x0 x1 x2 : RoundTrip.Statement (.rpub x0 x1 x2) := RoundTrip.of_raw _ _ rfl (by simp [RoundTrip.Quadrant, bits]) fun hw => by simp [decodeRaw, major, decodeWord, bits, onlyIf, decodeRing]
theorem RoundTrip.wenq x0 x1 x2 : RoundTrip.Statement (.wenq x0 x1 x2) := RoundTrip.of_raw _ _ rfl (by simp [RoundTrip.Quadrant, bits]) fun hw => by simp [decodeRaw, major, decodeWord, bits, onlyIf, decodeRing]
theorem RoundTrip.rpop x0 x1 : RoundTrip.Statement (.rpop x0 x1) := RoundTrip.of_raw _ _ rfl (by simp [RoundTrip.Quadrant, bits]) fun hw => by simp [decodeRaw, major, decodeWord, bits, onlyIf, decodeRing]
theorem RoundTrip.rpeek x0 x1 : RoundTrip.Statement (.rpeek x0 x1) := RoundTrip.of_raw _ _ rfl (by simp [RoundTrip.Quadrant, bits]) fun hw => by simp [decodeRaw, major, decodeWord, bits, onlyIf, decodeRing]
theorem RoundTrip.msend x0 x1 x2 : RoundTrip.Statement (.msend x0 x1 x2) := RoundTrip.of_raw _ _ rfl (by simp [RoundTrip.Quadrant, bits]) fun hw => by simp [decodeRaw, major, decodeWord, bits, onlyIf, decodeRing]
theorem RoundTrip.mstore x0 x1 x2 : RoundTrip.Statement (.mstore x0 x1 x2) := RoundTrip.of_raw _ _ rfl (by simp [RoundTrip.Quadrant, bits]) fun hw => by simp [decodeRaw, major, decodeWord, bits, onlyIf, decodeRing]
theorem RoundTrip.seal x0 : RoundTrip.Statement (.seal x0) := RoundTrip.of_raw _ _ rfl (by simp [RoundTrip.Quadrant, bits]) fun hw => by simp [decodeRaw, major, decodeWord, bits, onlyIf, decodeSealop]
theorem RoundTrip.sealw x0 x1 x2 x3 : RoundTrip.Statement (.sealw x0 x1 x2 x3) := RoundTrip.of_raw _ _ rfl (by simp [RoundTrip.Quadrant, bits]) fun hw => by simp [decodeRaw, major, decodeWord, bits, onlyIf, decodeSealop]
theorem RoundTrip.rinr x0 : RoundTrip.Statement (.rinr x0) := RoundTrip.of_raw _ _ rfl (by simp [RoundTrip.Quadrant, bits]) fun hw => by simp [decodeRaw, major, decodeWord, bits, onlyIf, decodeSealop]
theorem RoundTrip.vadd x0 x1 x2 x3 : RoundTrip.Statement (.vadd x0 x1 x2 x3) := RoundTrip.of_raw _ _ rfl (by simp [RoundTrip.Quadrant, bits]) fun hw => by simp [decodeRaw, major, decodeWord, bits, onlyIf, decodeVint, readMod, Modifier.zero]
theorem RoundTrip.vsub x0 x1 x2 x3 : RoundTrip.Statement (.vsub x0 x1 x2 x3) := RoundTrip.of_raw _ _ rfl (by simp [RoundTrip.Quadrant, bits]) fun hw => by simp [decodeRaw, major, decodeWord, bits, onlyIf, decodeVint, readMod, Modifier.zero]
theorem RoundTrip.vmul x0 x1 x2 x3 : RoundTrip.Statement (.vmul x0 x1 x2 x3) := RoundTrip.of_raw _ _ rfl (by simp [RoundTrip.Quadrant, bits]) fun hw => by simp [decodeRaw, major, decodeWord, bits, onlyIf, decodeVint, readMod, Modifier.zero]
theorem RoundTrip.vmin x0 x1 x2 x3 : RoundTrip.Statement (.vmin x0 x1 x2 x3) := RoundTrip.of_raw _ _ rfl (by simp [RoundTrip.Quadrant, bits]) fun hw => by simp [decodeRaw, major, decodeWord, bits, onlyIf, decodeVint, readMod, Modifier.zero]
theorem RoundTrip.vmax x0 x1 x2 x3 : RoundTrip.Statement (.vmax x0 x1 x2 x3) := RoundTrip.of_raw _ _ rfl (by simp [RoundTrip.Quadrant, bits]) fun hw => by simp [decodeRaw, major, decodeWord, bits, onlyIf, decodeVint, readMod, Modifier.zero]
theorem RoundTrip.vand x0 x1 x2 x3 : RoundTrip.Statement (.vand x0 x1 x2 x3) := RoundTrip.of_raw _ _ rfl (by simp [RoundTrip.Quadrant, bits]) fun hw => by simp [decodeRaw, major, decodeWord, bits, onlyIf, decodeVint, readMod, Modifier.zero]
theorem RoundTrip.vor x0 x1 x2 x3 : RoundTrip.Statement (.vor x0 x1 x2 x3) := RoundTrip.of_raw _ _ rfl (by simp [RoundTrip.Quadrant, bits]) fun hw => by simp [decodeRaw, major, decodeWord, bits, onlyIf, decodeVint, readMod, Modifier.zero]
theorem RoundTrip.vxor x0 x1 x2 x3 : RoundTrip.Statement (.vxor x0 x1 x2 x3) := RoundTrip.of_raw _ _ rfl (by simp [RoundTrip.Quadrant, bits]) fun hw => by simp [decodeRaw, major, decodeWord, bits, onlyIf, decodeVint, readMod, Modifier.zero]
theorem RoundTrip.vmulh x0 x1 x2 x3 : RoundTrip.Statement (.vmulh x0 x1 x2 x3) := RoundTrip.of_raw _ _ rfl (by simp [RoundTrip.Quadrant, bits]) fun hw => by simp [decodeRaw, major, decodeWord, bits, onlyIf, decodeVint, readMod, Modifier.zero]
theorem RoundTrip.vmulhU x0 x1 x2 x3 : RoundTrip.Statement (.vmulhU x0 x1 x2 x3) := RoundTrip.of_raw _ _ rfl (by simp [RoundTrip.Quadrant, bits]) fun hw => by simp [decodeRaw, major, decodeWord, bits, onlyIf, decodeVint, readMod, Modifier.zero]
theorem RoundTrip.vminU x0 x1 x2 x3 : RoundTrip.Statement (.vminU x0 x1 x2 x3) := RoundTrip.of_raw _ _ rfl (by simp [RoundTrip.Quadrant, bits]) fun hw => by simp [decodeRaw, major, decodeWord, bits, onlyIf, decodeVint, readMod, Modifier.zero]
theorem RoundTrip.vmaxU x0 x1 x2 x3 : RoundTrip.Statement (.vmaxU x0 x1 x2 x3) := RoundTrip.of_raw _ _ rfl (by simp [RoundTrip.Quadrant, bits]) fun hw => by simp [decodeRaw, major, decodeWord, bits, onlyIf, decodeVint, readMod, Modifier.zero]
theorem RoundTrip.vaddSat x0 x1 x2 x3 : RoundTrip.Statement (.vaddSat x0 x1 x2 x3) := RoundTrip.of_raw _ _ rfl (by simp [RoundTrip.Quadrant, bits]) fun hw => by simp [decodeRaw, major, decodeWord, bits, onlyIf, decodeVint, readMod, Modifier.zero]
theorem RoundTrip.vsubSat x0 x1 x2 x3 : RoundTrip.Statement (.vsubSat x0 x1 x2 x3) := RoundTrip.of_raw _ _ rfl (by simp [RoundTrip.Quadrant, bits]) fun hw => by simp [decodeRaw, major, decodeWord, bits, onlyIf, decodeVint, readMod, Modifier.zero]
theorem RoundTrip.vdiv x0 x1 x2 x3 : RoundTrip.Statement (.vdiv x0 x1 x2 x3) := RoundTrip.of_raw _ _ rfl (by simp [RoundTrip.Quadrant, bits]) fun hw => by simp [decodeRaw, major, decodeWord, bits, onlyIf, decodeVint, readMod, Modifier.zero]
theorem RoundTrip.vdivU x0 x1 x2 x3 : RoundTrip.Statement (.vdivU x0 x1 x2 x3) := RoundTrip.of_raw _ _ rfl (by simp [RoundTrip.Quadrant, bits]) fun hw => by simp [decodeRaw, major, decodeWord, bits, onlyIf, decodeVint, readMod, Modifier.zero]
theorem RoundTrip.vrem x0 x1 x2 x3 : RoundTrip.Statement (.vrem x0 x1 x2 x3) := RoundTrip.of_raw _ _ rfl (by simp [RoundTrip.Quadrant, bits]) fun hw => by simp [decodeRaw, major, decodeWord, bits, onlyIf, decodeVint, readMod, Modifier.zero]
theorem RoundTrip.vremU x0 x1 x2 x3 : RoundTrip.Statement (.vremU x0 x1 x2 x3) := RoundTrip.of_raw _ _ rfl (by simp [RoundTrip.Quadrant, bits]) fun hw => by simp [decodeRaw, major, decodeWord, bits, onlyIf, decodeVint, readMod, Modifier.zero]
theorem RoundTrip.vshl x0 x1 x2 x3 : RoundTrip.Statement (.vshl x0 x1 x2 x3) := RoundTrip.of_raw _ _ rfl (by simp [RoundTrip.Quadrant, bits]) fun hw => by simp [decodeRaw, major, decodeWord, bits, onlyIf, decodeVint, readMod, Modifier.zero]
theorem RoundTrip.vshr x0 x1 x2 x3 : RoundTrip.Statement (.vshr x0 x1 x2 x3) := RoundTrip.of_raw _ _ rfl (by simp [RoundTrip.Quadrant, bits]) fun hw => by simp [decodeRaw, major, decodeWord, bits, onlyIf, decodeVint, readMod, Modifier.zero]
theorem RoundTrip.vsra x0 x1 x2 x3 : RoundTrip.Statement (.vsra x0 x1 x2 x3) := RoundTrip.of_raw _ _ rfl (by simp [RoundTrip.Quadrant, bits]) fun hw => by simp [decodeRaw, major, decodeWord, bits, onlyIf, decodeVint, readMod, Modifier.zero]
theorem RoundTrip.vabs x0 x1 x2 : RoundTrip.Statement (.vabs x0 x1 x2) := RoundTrip.of_raw _ _ rfl (by simp [RoundTrip.Quadrant, bits]) fun hw => by simp [decodeRaw, major, decodeWord, bits, onlyIf, decodeVint, readMod, Modifier.zero]
theorem RoundTrip.vnot x0 x1 x2 : RoundTrip.Statement (.vnot x0 x1 x2) := RoundTrip.of_raw _ _ rfl (by simp [RoundTrip.Quadrant, bits]) fun hw => by simp [decodeRaw, major, decodeWord, bits, onlyIf, decodeVint, readMod, Modifier.zero]
theorem RoundTrip.vclz x0 x1 x2 : RoundTrip.Statement (.vclz x0 x1 x2) := RoundTrip.of_raw _ _ rfl (by simp [RoundTrip.Quadrant, bits]) fun hw => by simp [decodeRaw, major, decodeWord, bits, onlyIf, decodeVint, readMod, Modifier.zero]
theorem RoundTrip.vpopc x0 x1 x2 : RoundTrip.Statement (.vpopc x0 x1 x2) := RoundTrip.of_raw _ _ rfl (by simp [RoundTrip.Quadrant, bits]) fun hw => by simp [decodeRaw, major, decodeWord, bits, onlyIf, decodeVint, readMod, Modifier.zero]
theorem RoundTrip.vmadd x0 x1 x2 x3 : RoundTrip.Statement (.vmadd x0 x1 x2 x3) := RoundTrip.of_raw _ _ rfl (by simp [RoundTrip.Quadrant, bits]) fun hw => by simp [decodeRaw, major, decodeWord, bits, onlyIf, decodeVint, readMod, Modifier.zero]
theorem RoundTrip.vaddImm x0 x1 x2 x3 : RoundTrip.Statement (.vaddImm x0 x1 x2 x3) := RoundTrip.of_raw _ _ rfl (by simp [RoundTrip.Quadrant, bits]) fun hw => by simp [decodeRaw, major, decodeWord, bits, onlyIf, decodeVint, readMod, Modifier.zero]
theorem RoundTrip.vsubImm x0 x1 x2 x3 : RoundTrip.Statement (.vsubImm x0 x1 x2 x3) := RoundTrip.of_raw _ _ rfl (by simp [RoundTrip.Quadrant, bits]) fun hw => by simp [decodeRaw, major, decodeWord, bits, onlyIf, decodeVint, readMod, Modifier.zero]
theorem RoundTrip.vmulImm x0 x1 x2 x3 : RoundTrip.Statement (.vmulImm x0 x1 x2 x3) := RoundTrip.of_raw _ _ rfl (by simp [RoundTrip.Quadrant, bits]) fun hw => by simp [decodeRaw, major, decodeWord, bits, onlyIf, decodeVint, readMod, Modifier.zero]
theorem RoundTrip.vminImm x0 x1 x2 x3 : RoundTrip.Statement (.vminImm x0 x1 x2 x3) := RoundTrip.of_raw _ _ rfl (by simp [RoundTrip.Quadrant, bits]) fun hw => by simp [decodeRaw, major, decodeWord, bits, onlyIf, decodeVint, readMod, Modifier.zero]
theorem RoundTrip.vmaxImm x0 x1 x2 x3 : RoundTrip.Statement (.vmaxImm x0 x1 x2 x3) := RoundTrip.of_raw _ _ rfl (by simp [RoundTrip.Quadrant, bits]) fun hw => by simp [decodeRaw, major, decodeWord, bits, onlyIf, decodeVint, readMod, Modifier.zero]
theorem RoundTrip.vandImm x0 x1 x2 x3 : RoundTrip.Statement (.vandImm x0 x1 x2 x3) := RoundTrip.of_raw _ _ rfl (by simp [RoundTrip.Quadrant, bits]) fun hw => by simp [decodeRaw, major, decodeWord, bits, onlyIf, decodeVint, readMod, Modifier.zero]
theorem RoundTrip.vorImm x0 x1 x2 x3 : RoundTrip.Statement (.vorImm x0 x1 x2 x3) := RoundTrip.of_raw _ _ rfl (by simp [RoundTrip.Quadrant, bits]) fun hw => by simp [decodeRaw, major, decodeWord, bits, onlyIf, decodeVint, readMod, Modifier.zero]
theorem RoundTrip.vxorImm x0 x1 x2 x3 : RoundTrip.Statement (.vxorImm x0 x1 x2 x3) := RoundTrip.of_raw _ _ rfl (by simp [RoundTrip.Quadrant, bits]) fun hw => by simp [decodeRaw, major, decodeWord, bits, onlyIf, decodeVint, readMod, Modifier.zero]
theorem RoundTrip.vmulhImm x0 x1 x2 x3 : RoundTrip.Statement (.vmulhImm x0 x1 x2 x3) := RoundTrip.of_raw _ _ rfl (by simp [RoundTrip.Quadrant, bits]) fun hw => by simp [decodeRaw, major, decodeWord, bits, onlyIf, decodeVint, readMod, Modifier.zero]
theorem RoundTrip.vmulhUImm x0 x1 x2 x3 : RoundTrip.Statement (.vmulhUImm x0 x1 x2 x3) := RoundTrip.of_raw _ _ rfl (by simp [RoundTrip.Quadrant, bits]) fun hw => by simp [decodeRaw, major, decodeWord, bits, onlyIf, decodeVint, readMod, Modifier.zero]
theorem RoundTrip.vminUImm x0 x1 x2 x3 : RoundTrip.Statement (.vminUImm x0 x1 x2 x3) := RoundTrip.of_raw _ _ rfl (by simp [RoundTrip.Quadrant, bits]) fun hw => by simp [decodeRaw, major, decodeWord, bits, onlyIf, decodeVint, readMod, Modifier.zero]
theorem RoundTrip.vmaxUImm x0 x1 x2 x3 : RoundTrip.Statement (.vmaxUImm x0 x1 x2 x3) := RoundTrip.of_raw _ _ rfl (by simp [RoundTrip.Quadrant, bits]) fun hw => by simp [decodeRaw, major, decodeWord, bits, onlyIf, decodeVint, readMod, Modifier.zero]
theorem RoundTrip.vaddSatImm x0 x1 x2 x3 : RoundTrip.Statement (.vaddSatImm x0 x1 x2 x3) := RoundTrip.of_raw _ _ rfl (by simp [RoundTrip.Quadrant, bits]) fun hw => by simp [decodeRaw, major, decodeWord, bits, onlyIf, decodeVint, readMod, Modifier.zero]
theorem RoundTrip.vsubSatImm x0 x1 x2 x3 : RoundTrip.Statement (.vsubSatImm x0 x1 x2 x3) := RoundTrip.of_raw _ _ rfl (by simp [RoundTrip.Quadrant, bits]) fun hw => by simp [decodeRaw, major, decodeWord, bits, onlyIf, decodeVint, readMod, Modifier.zero]
theorem RoundTrip.vdivImm x0 x1 x2 x3 : RoundTrip.Statement (.vdivImm x0 x1 x2 x3) := RoundTrip.of_raw _ _ rfl (by simp [RoundTrip.Quadrant, bits]) fun hw => by simp [decodeRaw, major, decodeWord, bits, onlyIf, decodeVint, readMod, Modifier.zero]
theorem RoundTrip.vdivUImm x0 x1 x2 x3 : RoundTrip.Statement (.vdivUImm x0 x1 x2 x3) := RoundTrip.of_raw _ _ rfl (by simp [RoundTrip.Quadrant, bits]) fun hw => by simp [decodeRaw, major, decodeWord, bits, onlyIf, decodeVint, readMod, Modifier.zero]
theorem RoundTrip.vremImm x0 x1 x2 x3 : RoundTrip.Statement (.vremImm x0 x1 x2 x3) := RoundTrip.of_raw _ _ rfl (by simp [RoundTrip.Quadrant, bits]) fun hw => by simp [decodeRaw, major, decodeWord, bits, onlyIf, decodeVint, readMod, Modifier.zero]
theorem RoundTrip.vremUImm x0 x1 x2 x3 : RoundTrip.Statement (.vremUImm x0 x1 x2 x3) := RoundTrip.of_raw _ _ rfl (by simp [RoundTrip.Quadrant, bits]) fun hw => by simp [decodeRaw, major, decodeWord, bits, onlyIf, decodeVint, readMod, Modifier.zero]
theorem RoundTrip.vshlImm x0 x1 x2 x3 : RoundTrip.Statement (.vshlImm x0 x1 x2 x3) := RoundTrip.of_raw _ _ rfl (by simp [RoundTrip.Quadrant, bits]) fun hw => by simp [decodeRaw, major, decodeWord, bits, onlyIf, decodeVint, readMod, Modifier.zero]
theorem RoundTrip.vshrImm x0 x1 x2 x3 : RoundTrip.Statement (.vshrImm x0 x1 x2 x3) := RoundTrip.of_raw _ _ rfl (by simp [RoundTrip.Quadrant, bits]) fun hw => by simp [decodeRaw, major, decodeWord, bits, onlyIf, decodeVint, readMod, Modifier.zero]
theorem RoundTrip.vsraImm x0 x1 x2 x3 : RoundTrip.Statement (.vsraImm x0 x1 x2 x3) := RoundTrip.of_raw _ _ rfl (by simp [RoundTrip.Quadrant, bits]) fun hw => by simp [decodeRaw, major, decodeWord, bits, onlyIf, decodeVint, readMod, Modifier.zero]
theorem RoundTrip.vmaddImm x0 x1 x2 x3 : RoundTrip.Statement (.vmaddImm x0 x1 x2 x3) := RoundTrip.of_raw _ _ rfl (by simp [RoundTrip.Quadrant, bits]) fun hw => by simp [decodeRaw, major, decodeWord, bits, onlyIf, decodeVint, readMod, Modifier.zero]
theorem RoundTrip.vfadd x0 x1 x2 x3 : RoundTrip.Statement (.vfadd x0 x1 x2 x3) := RoundTrip.of_raw _ _ rfl (by simp [RoundTrip.Quadrant, bits]) fun hw => by simp [decodeRaw, major, decodeWord, bits, onlyIf, decodeVfp, readMod, Modifier.zero]
theorem RoundTrip.vfsub x0 x1 x2 x3 : RoundTrip.Statement (.vfsub x0 x1 x2 x3) := RoundTrip.of_raw _ _ rfl (by simp [RoundTrip.Quadrant, bits]) fun hw => by simp [decodeRaw, major, decodeWord, bits, onlyIf, decodeVfp, readMod, Modifier.zero]
theorem RoundTrip.vfmul x0 x1 x2 x3 : RoundTrip.Statement (.vfmul x0 x1 x2 x3) := RoundTrip.of_raw _ _ rfl (by simp [RoundTrip.Quadrant, bits]) fun hw => by simp [decodeRaw, major, decodeWord, bits, onlyIf, decodeVfp, readMod, Modifier.zero]
theorem RoundTrip.vfmin x0 x1 x2 x3 : RoundTrip.Statement (.vfmin x0 x1 x2 x3) := RoundTrip.of_raw _ _ rfl (by simp [RoundTrip.Quadrant, bits]) fun hw => by simp [decodeRaw, major, decodeWord, bits, onlyIf, decodeVfp, readMod, Modifier.zero]
theorem RoundTrip.vfmax x0 x1 x2 x3 : RoundTrip.Statement (.vfmax x0 x1 x2 x3) := RoundTrip.of_raw _ _ rfl (by simp [RoundTrip.Quadrant, bits]) fun hw => by simp [decodeRaw, major, decodeWord, bits, onlyIf, decodeVfp, readMod, Modifier.zero]
theorem RoundTrip.vfma x0 x1 x2 x3 : RoundTrip.Statement (.vfma x0 x1 x2 x3) := RoundTrip.of_raw _ _ rfl (by simp [RoundTrip.Quadrant, bits]) fun hw => by simp [decodeRaw, major, decodeWord, bits, onlyIf, decodeVfp, readMod, Modifier.zero]
theorem RoundTrip.vfms x0 x1 x2 x3 : RoundTrip.Statement (.vfms x0 x1 x2 x3) := RoundTrip.of_raw _ _ rfl (by simp [RoundTrip.Quadrant, bits]) fun hw => by simp [decodeRaw, major, decodeWord, bits, onlyIf, decodeVfp, readMod, Modifier.zero]
theorem RoundTrip.vfdiv x0 x1 x2 x3 : RoundTrip.Statement (.vfdiv x0 x1 x2 x3) := RoundTrip.of_raw _ _ rfl (by simp [RoundTrip.Quadrant, bits]) fun hw => by simp [decodeRaw, major, decodeWord, bits, onlyIf, decodeVfp, readMod, Modifier.zero]
theorem RoundTrip.vfaddRm x0 x1 x2 x3 x4 : RoundTrip.Statement (.vfaddRm x0 x1 x2 x3 x4) := RoundTrip.of_raw _ _ rfl (by simp [RoundTrip.Quadrant, bits]) fun hw => by simp [decodeRaw, major, decodeWord, bits, onlyIf, decodeVfp, readMod, Modifier.zero]
theorem RoundTrip.vfsubRm x0 x1 x2 x3 x4 : RoundTrip.Statement (.vfsubRm x0 x1 x2 x3 x4) := RoundTrip.of_raw _ _ rfl (by simp [RoundTrip.Quadrant, bits]) fun hw => by simp [decodeRaw, major, decodeWord, bits, onlyIf, decodeVfp, readMod, Modifier.zero]
theorem RoundTrip.vfmulRm x0 x1 x2 x3 x4 : RoundTrip.Statement (.vfmulRm x0 x1 x2 x3 x4) := RoundTrip.of_raw _ _ rfl (by simp [RoundTrip.Quadrant, bits]) fun hw => by simp [decodeRaw, major, decodeWord, bits, onlyIf, decodeVfp, readMod, Modifier.zero]
theorem RoundTrip.vfminRm x0 x1 x2 x3 x4 : RoundTrip.Statement (.vfminRm x0 x1 x2 x3 x4) := RoundTrip.of_raw _ _ rfl (by simp [RoundTrip.Quadrant, bits]) fun hw => by simp [decodeRaw, major, decodeWord, bits, onlyIf, decodeVfp, readMod, Modifier.zero]
theorem RoundTrip.vfmaxRm x0 x1 x2 x3 x4 : RoundTrip.Statement (.vfmaxRm x0 x1 x2 x3 x4) := RoundTrip.of_raw _ _ rfl (by simp [RoundTrip.Quadrant, bits]) fun hw => by simp [decodeRaw, major, decodeWord, bits, onlyIf, decodeVfp, readMod, Modifier.zero]
theorem RoundTrip.vfmaRm x0 x1 x2 x3 x4 : RoundTrip.Statement (.vfmaRm x0 x1 x2 x3 x4) := RoundTrip.of_raw _ _ rfl (by simp [RoundTrip.Quadrant, bits]) fun hw => by simp [decodeRaw, major, decodeWord, bits, onlyIf, decodeVfp, readMod, Modifier.zero]
theorem RoundTrip.vfmsRm x0 x1 x2 x3 x4 : RoundTrip.Statement (.vfmsRm x0 x1 x2 x3 x4) := RoundTrip.of_raw _ _ rfl (by simp [RoundTrip.Quadrant, bits]) fun hw => by simp [decodeRaw, major, decodeWord, bits, onlyIf, decodeVfp, readMod, Modifier.zero]
theorem RoundTrip.vfdivRm x0 x1 x2 x3 x4 : RoundTrip.Statement (.vfdivRm x0 x1 x2 x3 x4) := RoundTrip.of_raw _ _ rfl (by simp [RoundTrip.Quadrant, bits]) fun hw => by simp [decodeRaw, major, decodeWord, bits, onlyIf, decodeVfp, readMod, Modifier.zero]
theorem RoundTrip.vfsqrt x0 x1 x2 x3 : RoundTrip.Statement (.vfsqrt x0 x1 x2 x3) := RoundTrip.of_raw _ _ rfl (by simp [RoundTrip.Quadrant, bits]) fun hw => by simp [decodeRaw, major, decodeWord, bits, onlyIf, decodeVfp, readMod, Modifier.zero]
theorem RoundTrip.vfrcp x0 x1 x2 : RoundTrip.Statement (.vfrcp x0 x1 x2) := RoundTrip.of_raw _ _ rfl (by simp [RoundTrip.Quadrant, bits]) fun hw => by simp [decodeRaw, major, decodeWord, bits, onlyIf, decodeVfp, readMod, Modifier.zero]
theorem RoundTrip.vfrsq x0 x1 x2 : RoundTrip.Statement (.vfrsq x0 x1 x2) := RoundTrip.of_raw _ _ rfl (by simp [RoundTrip.Quadrant, bits]) fun hw => by simp [decodeRaw, major, decodeWord, bits, onlyIf, decodeVfp, readMod, Modifier.zero]
theorem RoundTrip.vfexp2 x0 x1 x2 : RoundTrip.Statement (.vfexp2 x0 x1 x2) := RoundTrip.of_raw _ _ rfl (by simp [RoundTrip.Quadrant, bits]) fun hw => by simp [decodeRaw, major, decodeWord, bits, onlyIf, decodeVfp, readMod, Modifier.zero]
theorem RoundTrip.vflog2 x0 x1 x2 : RoundTrip.Statement (.vflog2 x0 x1 x2) := RoundTrip.of_raw _ _ rfl (by simp [RoundTrip.Quadrant, bits]) fun hw => by simp [decodeRaw, major, decodeWord, bits, onlyIf, decodeVfp, readMod, Modifier.zero]
theorem RoundTrip.vfabs x0 x1 x2 : RoundTrip.Statement (.vfabs x0 x1 x2) := RoundTrip.of_raw _ _ rfl (by simp [RoundTrip.Quadrant, bits]) fun hw => by simp [decodeRaw, major, decodeWord, bits, onlyIf, decodeVfp, readMod, Modifier.zero]
theorem RoundTrip.vfneg x0 x1 x2 : RoundTrip.Statement (.vfneg x0 x1 x2) := RoundTrip.of_raw _ _ rfl (by simp [RoundTrip.Quadrant, bits]) fun hw => by simp [decodeRaw, major, decodeWord, bits, onlyIf, decodeVfp, readMod, Modifier.zero]
theorem RoundTrip.vfnma x0 x1 x2 x3 x4 : RoundTrip.Statement (.vfnma x0 x1 x2 x3 x4) := RoundTrip.of_raw _ _ rfl (by simp [RoundTrip.Quadrant, bits]) fun hw => by simp [decodeRaw, major, decodeWord, bits, onlyIf, decodeVfp, readMod, Modifier.zero]
theorem RoundTrip.vfaddImm x0 x1 x2 x3 x4 : RoundTrip.Statement (.vfaddImm x0 x1 x2 x3 x4) := RoundTrip.of_raw _ _ rfl (by simp [RoundTrip.Quadrant, bits]) fun hw => by simp [decodeRaw, major, decodeWord, bits, onlyIf, decodeVfp, readMod, Modifier.zero]
theorem RoundTrip.vfsubImm x0 x1 x2 x3 x4 : RoundTrip.Statement (.vfsubImm x0 x1 x2 x3 x4) := RoundTrip.of_raw _ _ rfl (by simp [RoundTrip.Quadrant, bits]) fun hw => by simp [decodeRaw, major, decodeWord, bits, onlyIf, decodeVfp, readMod, Modifier.zero]
theorem RoundTrip.vfmulImm x0 x1 x2 x3 x4 : RoundTrip.Statement (.vfmulImm x0 x1 x2 x3 x4) := RoundTrip.of_raw _ _ rfl (by simp [RoundTrip.Quadrant, bits]) fun hw => by simp [decodeRaw, major, decodeWord, bits, onlyIf, decodeVfp, readMod, Modifier.zero]
theorem RoundTrip.vfminImm x0 x1 x2 x3 x4 : RoundTrip.Statement (.vfminImm x0 x1 x2 x3 x4) := RoundTrip.of_raw _ _ rfl (by simp [RoundTrip.Quadrant, bits]) fun hw => by simp [decodeRaw, major, decodeWord, bits, onlyIf, decodeVfp, readMod, Modifier.zero]
theorem RoundTrip.vfmaxImm x0 x1 x2 x3 x4 : RoundTrip.Statement (.vfmaxImm x0 x1 x2 x3 x4) := RoundTrip.of_raw _ _ rfl (by simp [RoundTrip.Quadrant, bits]) fun hw => by simp [decodeRaw, major, decodeWord, bits, onlyIf, decodeVfp, readMod, Modifier.zero]
theorem RoundTrip.vfmaImm x0 x1 x2 x3 x4 : RoundTrip.Statement (.vfmaImm x0 x1 x2 x3 x4) := RoundTrip.of_raw _ _ rfl (by simp [RoundTrip.Quadrant, bits]) fun hw => by simp [decodeRaw, major, decodeWord, bits, onlyIf, decodeVfp, readMod, Modifier.zero]
theorem RoundTrip.vfmsImm x0 x1 x2 x3 x4 : RoundTrip.Statement (.vfmsImm x0 x1 x2 x3 x4) := RoundTrip.of_raw _ _ rfl (by simp [RoundTrip.Quadrant, bits]) fun hw => by simp [decodeRaw, major, decodeWord, bits, onlyIf, decodeVfp, readMod, Modifier.zero]
theorem RoundTrip.vfdivImm x0 x1 x2 x3 x4 : RoundTrip.Statement (.vfdivImm x0 x1 x2 x3 x4) := RoundTrip.of_raw _ _ rfl (by simp [RoundTrip.Quadrant, bits]) fun hw => by simp [decodeRaw, major, decodeWord, bits, onlyIf, decodeVfp, readMod, Modifier.zero]
theorem RoundTrip.vfnmaImm x0 x1 x2 x3 x4 : RoundTrip.Statement (.vfnmaImm x0 x1 x2 x3 x4) := RoundTrip.of_raw _ _ rfl (by simp [RoundTrip.Quadrant, bits]) fun hw => by simp [decodeRaw, major, decodeWord, bits, onlyIf, decodeVfp, readMod, Modifier.zero]
theorem RoundTrip.vhadd x0 x1 x2 x3 x4 x5 x6 : RoundTrip.Statement (.vhadd x0 x1 x2 x3 x4 x5 x6) := RoundTrip.of_raw _ _ rfl (by simp [RoundTrip.Quadrant, bits]) fun hw => by simp [decodeRaw, major, decodeWord, bits, onlyIf, decodeVhalf, readMod, Modifier.zero]
theorem RoundTrip.vhsub x0 x1 x2 x3 x4 x5 x6 : RoundTrip.Statement (.vhsub x0 x1 x2 x3 x4 x5 x6) := RoundTrip.of_raw _ _ rfl (by simp [RoundTrip.Quadrant, bits]) fun hw => by simp [decodeRaw, major, decodeWord, bits, onlyIf, decodeVhalf, readMod, Modifier.zero]
theorem RoundTrip.vhmul x0 x1 x2 x3 x4 x5 x6 : RoundTrip.Statement (.vhmul x0 x1 x2 x3 x4 x5 x6) := RoundTrip.of_raw _ _ rfl (by simp [RoundTrip.Quadrant, bits]) fun hw => by simp [decodeRaw, major, decodeWord, bits, onlyIf, decodeVhalf, readMod, Modifier.zero]
theorem RoundTrip.vhmin x0 x1 x2 x3 x4 x5 x6 : RoundTrip.Statement (.vhmin x0 x1 x2 x3 x4 x5 x6) := RoundTrip.of_raw _ _ rfl (by simp [RoundTrip.Quadrant, bits]) fun hw => by simp [decodeRaw, major, decodeWord, bits, onlyIf, decodeVhalf, readMod, Modifier.zero]
theorem RoundTrip.vhmax x0 x1 x2 x3 x4 x5 x6 : RoundTrip.Statement (.vhmax x0 x1 x2 x3 x4 x5 x6) := RoundTrip.of_raw _ _ rfl (by simp [RoundTrip.Quadrant, bits]) fun hw => by simp [decodeRaw, major, decodeWord, bits, onlyIf, decodeVhalf, readMod, Modifier.zero]
theorem RoundTrip.vhfma x0 x1 x2 x3 x4 x5 x6 : RoundTrip.Statement (.vhfma x0 x1 x2 x3 x4 x5 x6) := RoundTrip.of_raw _ _ rfl (by simp [RoundTrip.Quadrant, bits]) fun hw => by simp [decodeRaw, major, decodeWord, bits, onlyIf, decodeVhalf, readMod, Modifier.zero]
theorem RoundTrip.vcvt x0 x1 x2 x3 x4 x5 x6 : RoundTrip.Statement (.vcvt x0 x1 x2 x3 x4 x5 x6) := RoundTrip.of_raw _ _ rfl (by simp [RoundTrip.Quadrant, bits]) fun hw => by simp [decodeRaw, major, decodeWord, bits, onlyIf, decodeVcvt, readMod, Modifier.zero]
theorem RoundTrip.vcvtPk x0 x1 x2 x3 x4 x5 x6 : RoundTrip.Statement (.vcvtPk x0 x1 x2 x3 x4 x5 x6) := RoundTrip.of_raw _ _ rfl (by simp [RoundTrip.Quadrant, bits]) fun hw => by simp [decodeRaw, major, decodeWord, bits, onlyIf, decodeVcvt, readMod, Modifier.zero]
theorem RoundTrip.vcvtUpk x0 x1 x2 x3 x4 x5 x6 : RoundTrip.Statement (.vcvtUpk x0 x1 x2 x3 x4 x5 x6) := RoundTrip.of_raw _ _ rfl (by simp [RoundTrip.Quadrant, bits]) fun hw => by simp [decodeRaw, major, decodeWord, bits, onlyIf, decodeVcvt, readMod, Modifier.zero]
theorem RoundTrip.vcmpEq x0 x1 x2 x3 : RoundTrip.Statement (.vcmpEq x0 x1 x2 x3) := RoundTrip.of_raw _ _ rfl (by simp [RoundTrip.Quadrant, bits]) fun hw => by simp [decodeRaw, major, decodeWord, bits, onlyIf, decodeVcmp, readMod, Modifier.zero]
theorem RoundTrip.vcmpNe x0 x1 x2 x3 : RoundTrip.Statement (.vcmpNe x0 x1 x2 x3) := RoundTrip.of_raw _ _ rfl (by simp [RoundTrip.Quadrant, bits]) fun hw => by simp [decodeRaw, major, decodeWord, bits, onlyIf, decodeVcmp, readMod, Modifier.zero]
theorem RoundTrip.vcmpLt x0 x1 x2 x3 : RoundTrip.Statement (.vcmpLt x0 x1 x2 x3) := RoundTrip.of_raw _ _ rfl (by simp [RoundTrip.Quadrant, bits]) fun hw => by simp [decodeRaw, major, decodeWord, bits, onlyIf, decodeVcmp, readMod, Modifier.zero]
theorem RoundTrip.vcmpLe x0 x1 x2 x3 : RoundTrip.Statement (.vcmpLe x0 x1 x2 x3) := RoundTrip.of_raw _ _ rfl (by simp [RoundTrip.Quadrant, bits]) fun hw => by simp [decodeRaw, major, decodeWord, bits, onlyIf, decodeVcmp, readMod, Modifier.zero]
theorem RoundTrip.vcmpEqFmt x0 x1 x2 x3 x4 x5 : RoundTrip.Statement (.vcmpEqFmt x0 x1 x2 x3 x4 x5) := RoundTrip.of_raw _ _ rfl (by simp [RoundTrip.Quadrant, bits]) fun hw => by simp [decodeRaw, major, decodeWord, bits, onlyIf, decodeVcmp, readMod, Modifier.zero]
theorem RoundTrip.vcmpNeFmt x0 x1 x2 x3 x4 x5 : RoundTrip.Statement (.vcmpNeFmt x0 x1 x2 x3 x4 x5) := RoundTrip.of_raw _ _ rfl (by simp [RoundTrip.Quadrant, bits]) fun hw => by simp [decodeRaw, major, decodeWord, bits, onlyIf, decodeVcmp, readMod, Modifier.zero]
theorem RoundTrip.vcmpLtFmt x0 x1 x2 x3 x4 x5 : RoundTrip.Statement (.vcmpLtFmt x0 x1 x2 x3 x4 x5) := RoundTrip.of_raw _ _ rfl (by simp [RoundTrip.Quadrant, bits]) fun hw => by simp [decodeRaw, major, decodeWord, bits, onlyIf, decodeVcmp, readMod, Modifier.zero]
theorem RoundTrip.vcmpLeFmt x0 x1 x2 x3 x4 x5 : RoundTrip.Statement (.vcmpLeFmt x0 x1 x2 x3 x4 x5) := RoundTrip.of_raw _ _ rfl (by simp [RoundTrip.Quadrant, bits]) fun hw => by simp [decodeRaw, major, decodeWord, bits, onlyIf, decodeVcmp, readMod, Modifier.zero]
theorem RoundTrip.vcmpLtU x0 x1 x2 x3 : RoundTrip.Statement (.vcmpLtU x0 x1 x2 x3) := RoundTrip.of_raw _ _ rfl (by simp [RoundTrip.Quadrant, bits]) fun hw => by simp [decodeRaw, major, decodeWord, bits, onlyIf, decodeVcmp, readMod, Modifier.zero]
theorem RoundTrip.vcmpLeU x0 x1 x2 x3 : RoundTrip.Statement (.vcmpLeU x0 x1 x2 x3) := RoundTrip.of_raw _ _ rfl (by simp [RoundTrip.Quadrant, bits]) fun hw => by simp [decodeRaw, major, decodeWord, bits, onlyIf, decodeVcmp, readMod, Modifier.zero]
theorem RoundTrip.vcmpUn x0 x1 x2 x3 x4 x5 : RoundTrip.Statement (.vcmpUn x0 x1 x2 x3 x4 x5) := RoundTrip.of_raw _ _ rfl (by simp [RoundTrip.Quadrant, bits]) fun hw => by simp [decodeRaw, major, decodeWord, bits, onlyIf, decodeVcmp, readMod, Modifier.zero]
theorem RoundTrip.vcmpOrd x0 x1 x2 x3 x4 x5 : RoundTrip.Statement (.vcmpOrd x0 x1 x2 x3 x4 x5) := RoundTrip.of_raw _ _ rfl (by simp [RoundTrip.Quadrant, bits]) fun hw => by simp [decodeRaw, major, decodeWord, bits, onlyIf, decodeVcmp, readMod, Modifier.zero]
theorem RoundTrip.vmov x0 x1 x2 : RoundTrip.Statement (.vmov x0 x1 x2) := RoundTrip.of_raw _ _ rfl (by simp [RoundTrip.Quadrant, bits]) fun hw => by simp [decodeRaw, major, decodeWord, bits, onlyIf, decodeVperm, readMod, Modifier.zero]
theorem RoundTrip.vsel x0 x1 x2 x3 x4 : RoundTrip.Statement (.vsel x0 x1 x2 x3 x4) := RoundTrip.of_raw _ _ rfl (by simp [RoundTrip.Quadrant, bits]) fun hw => by simp [decodeRaw, major, decodeWord, bits, onlyIf, decodeVperm, readMod, Modifier.zero]
theorem RoundTrip.vperm x0 x1 x2 x3 : RoundTrip.Statement (.vperm x0 x1 x2 x3) := RoundTrip.of_raw _ _ rfl (by simp [RoundTrip.Quadrant, bits]) fun hw => by simp [decodeRaw, major, decodeWord, bits, onlyIf, decodeVperm, readMod, Modifier.zero]
theorem RoundTrip.vbcast x0 x1 x2 x3 : RoundTrip.Statement (.vbcast x0 x1 x2 x3) := RoundTrip.of_raw _ _ rfl (by simp [RoundTrip.Quadrant, bits]) fun hw => by simp [decodeRaw, major, decodeWord, bits, onlyIf, decodeVperm, readMod, Modifier.zero]
theorem RoundTrip.vshup x0 x1 x2 x3 x4 : RoundTrip.Statement (.vshup x0 x1 x2 x3 x4) := RoundTrip.of_raw _ _ rfl (by simp [RoundTrip.Quadrant, bits]) fun hw => by simp [decodeRaw, major, decodeWord, bits, onlyIf, decodeVperm, readMod, Modifier.zero]
theorem RoundTrip.vshdn x0 x1 x2 x3 x4 : RoundTrip.Statement (.vshdn x0 x1 x2 x3 x4) := RoundTrip.of_raw _ _ rfl (by simp [RoundTrip.Quadrant, bits]) fun hw => by simp [decodeRaw, major, decodeWord, bits, onlyIf, decodeVperm, readMod, Modifier.zero]
theorem RoundTrip.vidx x0 x1 x2 : RoundTrip.Statement (.vidx x0 x1 x2) := RoundTrip.of_raw _ _ rfl (by simp [RoundTrip.Quadrant, bits]) fun hw => by simp [decodeRaw, major, decodeWord, bits, onlyIf, decodeVperm, readMod, Modifier.zero]
theorem RoundTrip.vredadd x0 x1 x2 x3 : RoundTrip.Statement (.vredadd x0 x1 x2 x3) := RoundTrip.of_raw _ _ rfl (by simp [RoundTrip.Quadrant, bits]) fun hw => by simp [decodeRaw, major, decodeWord, bits, onlyIf, decodeVperm, readMod, Modifier.zero]
theorem RoundTrip.vredmin x0 x1 x2 x3 : RoundTrip.Statement (.vredmin x0 x1 x2 x3) := RoundTrip.of_raw _ _ rfl (by simp [RoundTrip.Quadrant, bits]) fun hw => by simp [decodeRaw, major, decodeWord, bits, onlyIf, decodeVperm, readMod, Modifier.zero]
theorem RoundTrip.vredmax x0 x1 x2 x3 : RoundTrip.Statement (.vredmax x0 x1 x2 x3) := RoundTrip.of_raw _ _ rfl (by simp [RoundTrip.Quadrant, bits]) fun hw => by simp [decodeRaw, major, decodeWord, bits, onlyIf, decodeVperm, readMod, Modifier.zero]
theorem RoundTrip.vfredadd x0 x1 x2 x3 x4 : RoundTrip.Statement (.vfredadd x0 x1 x2 x3 x4) := RoundTrip.of_raw _ _ rfl (by simp [RoundTrip.Quadrant, bits]) fun hw => by simp [decodeRaw, major, decodeWord, bits, onlyIf, decodeVperm, readMod, Modifier.zero]
theorem RoundTrip.vfredmin x0 x1 x2 x3 : RoundTrip.Statement (.vfredmin x0 x1 x2 x3) := RoundTrip.of_raw _ _ rfl (by simp [RoundTrip.Quadrant, bits]) fun hw => by simp [decodeRaw, major, decodeWord, bits, onlyIf, decodeVperm, readMod, Modifier.zero]
theorem RoundTrip.vfredmax x0 x1 x2 x3 : RoundTrip.Statement (.vfredmax x0 x1 x2 x3) := RoundTrip.of_raw _ _ rfl (by simp [RoundTrip.Quadrant, bits]) fun hw => by simp [decodeRaw, major, decodeWord, bits, onlyIf, decodeVperm, readMod, Modifier.zero]
theorem RoundTrip.vbcasts x0 x1 x2 : RoundTrip.Statement (.vbcasts x0 x1 x2) := RoundTrip.of_raw _ _ rfl (by simp [RoundTrip.Quadrant, bits]) fun hw => by simp [decodeRaw, major, decodeWord, bits, onlyIf, decodeVperm, readMod, Modifier.zero]
theorem RoundTrip.vpop x0 x1 x2 : RoundTrip.Statement (.vpop x0 x1 x2) := RoundTrip.of_raw _ _ rfl (by simp [RoundTrip.Quadrant, bits]) fun hw => by simp [decodeRaw, major, decodeWord, bits, onlyIf, decodeVqt]
theorem RoundTrip.vpush x0 x1 x2 : RoundTrip.Statement (.vpush x0 x1 x2) := RoundTrip.of_raw _ _ rfl (by simp [RoundTrip.Quadrant, bits]) fun hw => by simp [decodeRaw, major, decodeWord, bits, onlyIf, decodeVqt]
theorem RoundTrip.trow x0 x1 x2 x3 : RoundTrip.Statement (.trow x0 x1 x2 x3) := RoundTrip.of_raw _ _ rfl (by simp [RoundTrip.Quadrant, bits]) fun hw => by simp [decodeRaw, major, decodeWord, bits, onlyIf, decodeVqt]
theorem RoundTrip.twrow x0 x1 x2 x3 : RoundTrip.Statement (.twrow x0 x1 x2 x3) := RoundTrip.of_raw _ _ rfl (by simp [RoundTrip.Quadrant, bits]) fun hw => by simp [decodeRaw, major, decodeWord, bits, onlyIf, decodeVqt]
theorem RoundTrip.tempty x0 : RoundTrip.Statement (.tempty x0) := RoundTrip.of_raw _ _ rfl (by simp [RoundTrip.Quadrant, bits]) fun hw => by simp [decodeRaw, major, decodeWord, bits, onlyIf, decodeVqt]
theorem RoundTrip.tfill x0 : RoundTrip.Statement (.tfill x0) := RoundTrip.of_raw _ _ rfl (by simp [RoundTrip.Quadrant, bits]) fun hw => by simp [decodeRaw, major, decodeWord, bits, onlyIf, decodeVqt]
theorem RoundTrip.twait x0 : RoundTrip.Statement (.twait x0) := RoundTrip.of_raw _ _ rfl (by simp [RoundTrip.Quadrant, bits]) fun hw => by simp [decodeRaw, major, decodeWord, bits, onlyIf, decodeVqt]
theorem RoundTrip.brc x0 x1 : RoundTrip.Statement (.brc x0 x1) := by cases x1 <;> exact RoundTrip.of_raw _ _ rfl (by simp [RoundTrip.Quadrant, bits, encBr]) fun hw => by simp [decodeRaw, major, decodeWord, bits, onlyIf, decodeBrc, readOff, encBr]
theorem RoundTrip.brcQ x0 : RoundTrip.Statement (.brcQ x0) := by cases x0 <;> exact RoundTrip.of_raw _ _ rfl (by simp [RoundTrip.Quadrant, bits, encBr]) fun hw => by simp [decodeRaw, major, decodeWord, bits, onlyIf, decodeBrc, readOff, encBr]
theorem RoundTrip.pand x0 x1 x2 : RoundTrip.Statement (.pand x0 x1 x2) := RoundTrip.of_raw _ _ rfl (by simp [RoundTrip.Quadrant, bits]) fun hw => by simp [decodeRaw, major, decodeWord, bits, onlyIf, decodePred]
theorem RoundTrip.por x0 x1 x2 : RoundTrip.Statement (.por x0 x1 x2) := RoundTrip.of_raw _ _ rfl (by simp [RoundTrip.Quadrant, bits]) fun hw => by simp [decodeRaw, major, decodeWord, bits, onlyIf, decodePred]
theorem RoundTrip.pxor x0 x1 x2 : RoundTrip.Statement (.pxor x0 x1 x2) := RoundTrip.of_raw _ _ rfl (by simp [RoundTrip.Quadrant, bits]) fun hw => by simp [decodeRaw, major, decodeWord, bits, onlyIf, decodePred]
theorem RoundTrip.pnot x0 x1 : RoundTrip.Statement (.pnot x0 x1) := RoundTrip.of_raw _ _ rfl (by simp [RoundTrip.Quadrant, bits]) fun hw => by simp [decodeRaw, major, decodeWord, bits, onlyIf, decodePred]
theorem RoundTrip.pcnt x0 x1 x2 : RoundTrip.Statement (.pcnt x0 x1 x2) := RoundTrip.of_raw _ _ rfl (by simp [RoundTrip.Quadrant, bits]) fun hw => by simp [decodeRaw, major, decodeWord, bits, onlyIf, decodePred]
theorem RoundTrip.pfirst x0 x1 : RoundTrip.Statement (.pfirst x0 x1) := RoundTrip.of_raw _ _ rfl (by simp [RoundTrip.Quadrant, bits]) fun hw => by simp [decodeRaw, major, decodeWord, bits, onlyIf, decodePred]
theorem RoundTrip.gmap x0 x1 x2 : RoundTrip.Statement (.gmap x0 x1 x2) := RoundTrip.of_raw _ _ rfl (by simp [RoundTrip.Quadrant, bits]) fun hw => by simp [decodeRaw, major, decodeWord, bits, onlyIf, decodePred]
theorem RoundTrip.glean x0 x1 x2 x3 : RoundTrip.Statement (.glean x0 x1 x2 x3) := RoundTrip.of_raw _ _ rfl (by simp [RoundTrip.Quadrant, bits]) fun hw => by simp [decodeRaw, major, decodeWord, bits, onlyIf, decodeGln, readMod, Modifier.zero]
theorem RoundTrip.gdrain x0 x1 x2 x3 : RoundTrip.Statement (.gdrain x0 x1 x2 x3) := RoundTrip.of_raw _ _ rfl (by simp [RoundTrip.Quadrant, bits]) fun hw => by simp [decodeRaw, major, decodeWord, bits, onlyIf, decodeGln, readMod, Modifier.zero]
theorem RoundTrip.nset x0 x1 : RoundTrip.Statement (.nset x0 x1) := by
  have h : BitVec.extractLsb' 4 4 x0 ++ BitVec.extractLsb' 0 4 x0 = x0 := by
    revert x0
    decide
  cases x1 <;> exact RoundTrip.of_raw _ _ rfl (by simp [RoundTrip.Quadrant, bits]) fun hw => by
    simp [decodeRaw, major, decodeWord, bits, onlyIf, decodeJobm, h]
theorem RoundTrip.mma x0 x1 x2 x3 x4 : RoundTrip.Statement (.mma x0 x1 x2 x3 x4) := RoundTrip.of_raw _ _ rfl (by simp [RoundTrip.Quadrant, bits]) fun hw => by simp [decodeRaw, major, decodeWord, bits, onlyIf, decodeJobm]
theorem RoundTrip.mmag x0 x1 x2 x3 x4 : RoundTrip.Statement (.mmag x0 x1 x2 x3 x4) := RoundTrip.of_raw _ _ rfl (by simp [RoundTrip.Quadrant, bits]) fun hw => by simp [decodeRaw, major, decodeWord, bits, onlyIf, decodeJobm]
theorem RoundTrip.mmags x0 x1 x2 x3 x4 : RoundTrip.Statement (.mmags x0 x1 x2 x3 x4) := RoundTrip.of_raw _ _ rfl (by simp [RoundTrip.Quadrant, bits]) fun hw => by simp [decodeRaw, major, decodeWord, bits, onlyIf, decodeJobm]
theorem RoundTrip.plane x0 x1 x2 x3 : RoundTrip.Statement (.plane x0 x1 x2 x3) := RoundTrip.of_raw _ _ rfl (by simp [RoundTrip.Quadrant, bits]) fun hw => by simp [decodeRaw, major, decodeWord, bits, onlyIf, decodeJobm]
theorem RoundTrip.sacc x0 x1 x2 x3 x4 x5 : RoundTrip.Statement (.sacc x0 x1 x2 x3 x4 x5) := RoundTrip.of_raw _ _ rfl (by simp [RoundTrip.Quadrant, bits]) fun hw => by simp [decodeRaw, major, decodeWord, bits, onlyIf, decodeJobg]
theorem RoundTrip.kld x0 x1 x2 : RoundTrip.Statement (.kld x0 x1 x2) := RoundTrip.of_raw _ _ rfl (by simp [RoundTrip.Quadrant, bits]) fun hw => by simp [decodeRaw, major, decodeWord, bits, onlyIf, decodeJobg]
theorem RoundTrip.drain x0 x1 x2 x3 x4 : RoundTrip.Statement (.drain x0 x1 x2 x3 x4) := RoundTrip.of_raw _ _ rfl (by simp [RoundTrip.Quadrant, bits]) fun hw => by simp [decodeRaw, major, decodeWord, bits, onlyIf, decodeJobg]
theorem RoundTrip.gclr x0 x1 x2 : RoundTrip.Statement (.gclr x0 x1 x2) := RoundTrip.of_raw _ _ rfl (by simp [RoundTrip.Quadrant, bits]) fun hw => by simp [decodeRaw, major, decodeWord, bits, onlyIf, decodeJobg]
theorem RoundTrip.copyj x0 x1 : RoundTrip.Statement (.copyj x0 x1) := RoundTrip.of_raw _ _ rfl (by simp [RoundTrip.Quadrant, bits]) fun hw => by simp [decodeRaw, major, decodeWord, bits, onlyIf, decodeJobc]
theorem RoundTrip.jobw x0 x1 x2 : RoundTrip.Statement (.jobw x0 x1 x2) := RoundTrip.of_raw _ _ rfl (by simp [RoundTrip.Quadrant, bits]) fun hw => by simp [decodeRaw, major, decodeWord, bits, onlyIf, decodeJobc]
theorem RoundTrip.publish x0 x1 : RoundTrip.Statement (.publish x0 x1) := RoundTrip.of_raw _ _ rfl (by simp [RoundTrip.Quadrant, bits]) fun hw => by simp [decodeRaw, major, decodeWord, bits, onlyIf, decodeJobc]
theorem RoundTrip.rep x0 x1 x2 x3 : RoundTrip.Statement (.rep x0 x1 x2 x3) := RoundTrip.of_raw _ _ rfl (by simp [RoundTrip.Quadrant, bits]) fun hw => by simp [decodeRaw, major, decodeWord, bits, onlyIf, decodeRep, hasLiteral, getLsbD_extract, getElem_extract]
theorem RoundTrip.hint x0 x1 x2 x3 : RoundTrip.Statement (.hint x0 x1 x2 x3) := by
  cases x3 <;> refine RoundTrip.of_raw _ _ rfl (by simp [RoundTrip.Quadrant, bits, encHint]) fun hw => ?_ <;>
    simp [decodeRaw, major, decodeWord, bits, decodeHint, encHint] <;> split <;>
    simp_all [wellFormed, ← BitVec.toNat_inj]
theorem RoundTrip.hintLoopBufferResident x0 x1 x2 : RoundTrip.Statement (.hintLoopBufferResident x0 x1 x2) := by cases x2 <;> exact RoundTrip.of_raw _ _ rfl (by simp [RoundTrip.Quadrant, bits, encHint]) fun hw => by simp [decodeRaw, major, decodeWord, bits, onlyIf, decodeHint, encHint]
theorem RoundTrip.hintFreeQueueSlots x0 x1 x2 : RoundTrip.Statement (.hintFreeQueueSlots x0 x1 x2) := by cases x2 <;> exact RoundTrip.of_raw _ _ rfl (by simp [RoundTrip.Quadrant, bits, encHint]) fun hw => by simp [decodeRaw, major, decodeWord, bits, onlyIf, decodeHint, encHint]
theorem RoundTrip.hintPinRequest x0 x1 x2 : RoundTrip.Statement (.hintPinRequest x0 x1 x2) := by cases x2 <;> exact RoundTrip.of_raw _ _ rfl (by simp [RoundTrip.Quadrant, bits, encHint]) fun hw => by simp [decodeRaw, major, decodeWord, bits, onlyIf, decodeHint, encHint]
theorem RoundTrip.blk x0 x1 x2 x3 x4 : RoundTrip.Statement (.blk x0 x1 x2 x3 x4) := RoundTrip.of_raw _ _ rfl (by simp [RoundTrip.Quadrant, bits]) fun hw => by simp [decodeRaw, major, decodeWord, bits, onlyIf, decodeBlk, hasLiteral, getLsbD_extract, getElem_extract]
theorem RoundTrip.strandEnd : RoundTrip.Statement (.strandEnd) := RoundTrip.of_none _ rfl
theorem RoundTrip.userInterruptTake : RoundTrip.Statement (.userInterruptTake) := RoundTrip.of_none _ rfl
theorem RoundTrip.pauseExpiry : RoundTrip.Statement (.pauseExpiry) := RoundTrip.of_none _ rfl
theorem RoundTrip.hangCapture : RoundTrip.Statement (.hangCapture) := RoundTrip.of_none _ rfl
theorem RoundTrip.ldqEntryPush x0 : RoundTrip.Statement (.ldqEntryPush x0) := RoundTrip.of_none _ rfl
theorem RoundTrip.stqElementStore x0 : RoundTrip.Statement (.stqElementStore x0) := RoundTrip.of_none _ rfl
theorem RoundTrip.barwaitBoundExpiry : RoundTrip.Statement (.barwaitBoundExpiry) := RoundTrip.of_none _ rfl
theorem RoundTrip.jobHandoff x0 : RoundTrip.Statement (.jobHandoff x0) := RoundTrip.of_none _ rfl
theorem RoundTrip.blockEmit : RoundTrip.Statement (.blockEmit) := RoundTrip.of_none _ rfl
theorem RoundTrip.saccBufferRead : RoundTrip.Statement (.saccBufferRead) := RoundTrip.of_none _ rfl
theorem RoundTrip.tilePortClaim x0 : RoundTrip.Statement (.tilePortClaim x0) := RoundTrip.of_none _ rfl
theorem RoundTrip.copyBarrierArrival x0 : RoundTrip.Statement (.copyBarrierArrival x0) := RoundTrip.of_none _ rfl
theorem RoundTrip.jobRetire x0 : RoundTrip.Statement (.jobRetire x0) := RoundTrip.of_none _ rfl
theorem RoundTrip.jobRunningFault x0 x1 x2 : RoundTrip.Statement (.jobRunningFault x0 x1 x2) := RoundTrip.of_none _ rfl
theorem RoundTrip.remoteTimeout x0 x1 : RoundTrip.Statement (.remoteTimeout x0 x1) := RoundTrip.of_none _ rfl
theorem RoundTrip.faultRecordPublish : RoundTrip.Statement (.faultRecordPublish) := RoundTrip.of_none _ rfl
theorem RoundTrip.preemption x0 : RoundTrip.Statement (.preemption x0) := RoundTrip.of_none _ rfl
theorem RoundTrip.sresumeResume x0 x1 : RoundTrip.Statement (.sresumeResume x0 x1) := RoundTrip.of_none _ rfl
theorem RoundTrip.sresumeEnd x0 x1 : RoundTrip.Statement (.sresumeEnd x0 x1) := RoundTrip.of_none _ rfl
theorem RoundTrip.contextSave x0 x1 : RoundTrip.Statement (.contextSave x0 x1) := RoundTrip.of_none _ rfl
theorem RoundTrip.contextRestore x0 x1 : RoundTrip.Statement (.contextRestore x0 x1) := RoundTrip.of_none _ rfl
theorem RoundTrip.expansionTableLoad x0 x1 : RoundTrip.Statement (.expansionTableLoad x0 x1) := RoundTrip.of_none _ rfl
theorem RoundTrip.expansionTableSwitch x0 : RoundTrip.Statement (.expansionTableSwitch x0) := RoundTrip.of_none _ rfl
theorem RoundTrip.registerWrite x0 x1 x2 x3 : RoundTrip.Statement (.registerWrite x0 x1 x2 x3) := RoundTrip.of_none _ rfl
theorem RoundTrip.xshoot x0 x1 x2 : RoundTrip.Statement (.xshoot x0 x1 x2) := RoundTrip.of_none _ rfl
theorem RoundTrip.shootdownComplete x0 : RoundTrip.Statement (.shootdownComplete x0) := RoundTrip.of_none _ rfl
theorem RoundTrip.migration x0 x1 x2 x3 : RoundTrip.Statement (.migration x0 x1 x2 x3) := RoundTrip.of_none _ rfl
theorem RoundTrip.migrationCountHalving x0 : RoundTrip.Statement (.migrationCountHalving x0) := RoundTrip.of_none _ rfl
theorem RoundTrip.remoteRequest x0 x1 : RoundTrip.Statement (.remoteRequest x0 x1) := RoundTrip.of_none _ rfl
theorem RoundTrip.refusalNotice x0 x1 : RoundTrip.Statement (.refusalNotice x0 x1) := RoundTrip.of_none _ rfl
theorem RoundTrip.backoffExpiry x0 x1 : RoundTrip.Statement (.backoffExpiry x0 x1) := RoundTrip.of_none _ rfl
theorem RoundTrip.reply x0 x1 : RoundTrip.Statement (.reply x0 x1) := RoundTrip.of_none _ rfl
theorem RoundTrip.lineEviction x0 x1 : RoundTrip.Statement (.lineEviction x0 x1) := RoundTrip.of_none _ rfl
theorem RoundTrip.multicastMemberWrite x0 x1 x2 : RoundTrip.Statement (.multicastMemberWrite x0 x1 x2) := RoundTrip.of_none _ rfl
theorem RoundTrip.multicastReply x0 x1 : RoundTrip.Statement (.multicastReply x0 x1) := RoundTrip.of_none _ rfl
theorem RoundTrip.dataFlit x0 x1 : RoundTrip.Statement (.dataFlit x0 x1) := RoundTrip.of_none _ rfl
theorem RoundTrip.marker x0 x1 : RoundTrip.Statement (.marker x0 x1) := RoundTrip.of_none _ rfl
theorem RoundTrip.acknowledgement x0 x1 : RoundTrip.Statement (.acknowledgement x0 x1) := RoundTrip.of_none _ rfl
theorem RoundTrip.negativeAcknowledgement x0 x1 : RoundTrip.Statement (.negativeAcknowledgement x0 x1) := RoundTrip.of_none _ rfl
theorem RoundTrip.rotationRequest x0 : RoundTrip.Statement (.rotationRequest x0) := RoundTrip.of_none _ rfl
theorem RoundTrip.kickclr x0 x1 : RoundTrip.Statement (.kickclr x0 x1) := RoundTrip.of_none _ rfl
theorem RoundTrip.nodestart x0 x1 : RoundTrip.Statement (.nodestart x0 x1) := RoundTrip.of_none _ rfl
theorem RoundTrip.loopPass x0 x1 : RoundTrip.Statement (.loopPass x0 x1) := RoundTrip.of_none _ rfl
theorem RoundTrip.eventNodeTest x0 x1 : RoundTrip.Statement (.eventNodeTest x0 x1) := RoundTrip.of_none _ rfl
theorem RoundTrip.nodeend x0 x1 : RoundTrip.Statement (.nodeend x0 x1) := RoundTrip.of_none _ rfl
theorem RoundTrip.complete x0 x1 : RoundTrip.Statement (.complete x0 x1) := RoundTrip.of_none _ rfl
theorem RoundTrip.dispatch x0 x1 : RoundTrip.Statement (.dispatch x0 x1) := RoundTrip.of_none _ rfl
theorem RoundTrip.snap x0 x1 : RoundTrip.Statement (.snap x0 x1) := RoundTrip.of_none _ rfl
theorem RoundTrip.dispatcherFailure x0 x1 : RoundTrip.Statement (.dispatcherFailure x0 x1) := RoundTrip.of_none _ rfl
theorem RoundTrip.hlctlGo x0 x1 x2 : RoundTrip.Statement (.hlctlGo x0 x1 x2) := RoundTrip.of_none _ rfl
theorem RoundTrip.replayStop x0 x1 : RoundTrip.Statement (.replayStop x0 x1) := RoundTrip.of_none _ rfl
theorem RoundTrip.replayHandover x0 : RoundTrip.Statement (.replayHandover x0) := RoundTrip.of_none _ rfl
theorem RoundTrip.speculationStart x0 x1 x2 : RoundTrip.Statement (.speculationStart x0 x1 x2) := RoundTrip.of_none _ rfl
theorem RoundTrip.claim x0 x1 : RoundTrip.Statement (.claim x0 x1) := RoundTrip.of_none _ rfl
theorem RoundTrip.predctlFlush x0 x1 : RoundTrip.Statement (.predctlFlush x0 x1) := RoundTrip.of_none _ rfl
theorem RoundTrip.grantCreate x0 x1 x2 : RoundTrip.Statement (.grantCreate x0 x1 x2) := RoundTrip.of_none _ rfl
theorem RoundTrip.mailboxNotify x0 : RoundTrip.Statement (.mailboxNotify x0) := RoundTrip.of_none _ rfl
theorem RoundTrip.sreq x0 x1 : RoundTrip.Statement (.sreq x0 x1) := RoundTrip.of_none _ rfl
theorem RoundTrip.barrier : RoundTrip.Statement (.barrier) := RoundTrip.of_none _ rfl
theorem RoundTrip.preempt : RoundTrip.Statement (.preempt) := RoundTrip.of_none _ rfl
theorem RoundTrip.flush : RoundTrip.Statement (.flush) := RoundTrip.of_none _ rfl
theorem RoundTrip.vote x0 : RoundTrip.Statement (.vote x0) := RoundTrip.of_none _ rfl
theorem RoundTrip.commit : RoundTrip.Statement (.commit) := RoundTrip.of_none _ rfl
theorem RoundTrip.release : RoundTrip.Statement (.release) := RoundTrip.of_none _ rfl
theorem RoundTrip.metadataScrub x0 x1 : RoundTrip.Statement (.metadataScrub x0 x1) := RoundTrip.of_none _ rfl
theorem RoundTrip.patrolScrub x0 x1 : RoundTrip.Statement (.patrolScrub x0 x1) := RoundTrip.of_none _ rfl
theorem RoundTrip.rbreq x0 x1 : RoundTrip.Statement (.rbreq x0 x1) := RoundTrip.of_none _ rfl
theorem RoundTrip.errinj x0 x1 x2 : RoundTrip.Statement (.errinj x0 x1 x2) := RoundTrip.of_none _ rfl
theorem RoundTrip.powerUp : RoundTrip.Statement (.powerUp) := RoundTrip.of_none _ rfl
theorem RoundTrip.ownctlClaim x0 : RoundTrip.Statement (.ownctlClaim x0) := RoundTrip.of_none _ rfl
theorem RoundTrip.ownctlRelease x0 x1 : RoundTrip.Statement (.ownctlRelease x0 x1) := RoundTrip.of_none _ rfl
theorem RoundTrip.packageReset x0 : RoundTrip.Statement (.packageReset x0) := RoundTrip.of_none _ rfl
theorem RoundTrip.frzThaw x0 x1 : RoundTrip.Statement (.frzThaw x0 x1) := RoundTrip.of_none _ rfl
theorem RoundTrip.attctl x0 x1 : RoundTrip.Statement (.attctl x0 x1) := RoundTrip.of_none _ rfl
theorem RoundTrip.swtrig x0 : RoundTrip.Statement (.swtrig x0) := RoundTrip.of_none _ rfl
theorem RoundTrip.externalPin : RoundTrip.Statement (.externalPin) := RoundTrip.of_none _ rfl
theorem RoundTrip.thermalWarn x0 x1 : RoundTrip.Statement (.thermalWarn x0 x1) := RoundTrip.of_none _ rfl
theorem RoundTrip.thermalCrit x0 x1 : RoundTrip.Statement (.thermalCrit x0 x1) := RoundTrip.of_none _ rfl
theorem RoundTrip.hostWrite x0 x1 x2 : RoundTrip.Statement (.hostWrite x0 x1 x2) := RoundTrip.of_none _ rfl
theorem RoundTrip.hostSnoop x0 x1 : RoundTrip.Statement (.hostSnoop x0 x1) := RoundTrip.of_none _ rfl
theorem RoundTrip.illegalEncoding : RoundTrip.Statement (.illegalEncoding) := RoundTrip.of_none _ rfl
theorem RoundTrip.packageRingLinkDown x0 : RoundTrip.Statement (.packageRingLinkDown x0) := RoundTrip.of_none _ rfl
theorem RoundTrip.thermalRecovery x0 x1 : RoundTrip.Statement (.thermalRecovery x0 x1) := RoundTrip.of_none _ rfl
theorem RoundTrip.traceSignal x0 x1 x2 : RoundTrip.Statement (.traceSignal x0 x1 x2) := RoundTrip.of_none _ rfl
theorem RoundTrip.tentCreation x0 : RoundTrip.Statement (.tentCreation x0) := RoundTrip.of_none _ rfl
theorem RoundTrip.ringRegistration x0 : RoundTrip.Statement (.ringRegistration x0) := RoundTrip.of_none _ rfl
theorem RoundTrip.grantRevocation x0 x1 : RoundTrip.Statement (.grantRevocation x0 x1) := RoundTrip.of_none _ rfl
theorem RoundTrip.ceilingLowering x0 x1 : RoundTrip.Statement (.ceilingLowering x0 x1) := RoundTrip.of_none _ rfl
theorem RoundTrip.limitChange x0 x1 x2 : RoundTrip.Statement (.limitChange x0 x1 x2) := RoundTrip.of_none _ rfl

end Sys2Proof.Laws
end

