-- ==== Sys2Proof/Tests/Slice0.lean ====
section
/-!
SUPPORT. Tests: ill-formed instructions that WellFormed refuses, words written out from the spec's encodings, single steps
whose results the spec gives, and, for each statement with hypotheses, a state and operands that meet them all.
-/
set_option Elab.async false
namespace Sys2Proof.Tests
open Sys2Proof.Machine

/-! ### WellFormed: an ill-formed term for each check -/

theorem test_wf_halfword_d0 : wellFormed (.caddi 1 0) = false ∧ wellFormed (.cmov 1 0) = false := by decide
theorem test_wf_queue_number : wellFormed (.cqpush 1 13) = false ∧ wellFormed (.qpush 13 1) = false ∧
    wellFormed (.qdrop 31 1) = false ∧ wellFormed (.qdropN 13 1) = false ∧ wellFormed (.qpush 12 1) = true := by decide
theorem test_wf_cfg_number : wellFormed (.cfgr 1 0xA) = false ∧ wellFormed (.cfgw 1 0x2008) = false ∧
    wellFormed (.cfgr 1 0x2007) = true := by decide
theorem test_wf_sign_extended_64 : wellFormed (.ld 1 3 1 2 (.imm 0)) = false ∧ wellFormed (.ldIndexed 0 1 3 1 2 3) = false ∧
    wellFormed (.ldq 1 2 1 2 0) = false := by decide
theorem test_wf_stream_queue : wellFormed (.ldq 0 0 1 2 2) = false ∧ wellFormed (.stq 0 1 2 0) = false ∧
    wellFormed (.stq 0 1 2 3) = true := by decide
theorem test_wf_scope : wellFormed (.lda 5 0 1 2 none) = false ∧ wellFormed (.strel 7 0 1 2 none) = false ∧
    wellFormed (.fence 5) = false := by decide
theorem test_wf_plain_order_scope : wellFormed (.gadd 1 0 0 1 2) = false ∧ wellFormed (.gswap 4 0 0 1 2 3) = false ∧
    wellFormed (.gbfadd 1 0 1 2 3) = false ∧ wellFormed (.gadd 1 1 0 1 2) = true := by decide
theorem test_wf_pairs : wellFormed (.gswapQ 0 0 1 2 4) = false ∧ wellFormed (.gandQ 0 0 2 2 5) = false ∧
    wellFormed (.gcasQ 0 0 2 2 0) = false := by decide
theorem test_wf_barriers : wellFormed (.barinit 0 1 1 2 4) = false ∧ wellFormed (.bararr 0 0 1 2 5) = false ∧
    wellFormed (.barwait 0 1 2 0) = false ∧ wellFormed (.barqry 0 2 1 4) = false := by decide
theorem test_wf_half_format : wellFormed (.vhadd 14 0 0 0 1 2 3) = false ∧ wellFormed (.vhfma 6 0 0 0 1 2 3) = false := by decide
theorem test_wf_convert_format : wellFormed (.vcvt 7 0 0 0 0 1 2) = false ∧ wellFormed (.vcvt 0 15 0 0 0 1 2) = false ∧
    wellFormed (.vcvtPk 14 14 0 0 0 1 2) = false ∧ wellFormed (.vcvtPk 12 14 0 0 2 1 2) = false ∧
    wellFormed (.vcvtUpk 14 3 0 0 4 1 2) = false := by decide
theorem test_wf_compare : wellFormed (.vcmpEq 0 96 1 2) = false ∧ wellFormed (.vcmpEqFmt 0 0 0 1 1 2) = false ∧
    wellFormed (.vcmpLtFmt 14 1 0 1 1 2) = false ∧ wellFormed (.vcmpUn 6 0 0 1 1 2) = false ∧
    wellFormed (.vcmpLtU 0 96 1 2) = false := by decide
theorem test_wf_vector_queue : wellFormed (.vpop 0 1 2) = false ∧ wellFormed (.vpush 0 1 1) = false := by decide
theorem test_wf_predicates : wellFormed (.vsel 96 0 1 2 3) = false ∧ wellFormed (.pand 1 2 96) = false ∧
    wellFormed (.pnot 96 1) = false ∧ wellFormed (.pcnt 1 96 2) = false ∧ wellFormed (.gmap 1 0 0) = false := by decide
theorem test_wf_loop_counter : wellFormed (.brc 0 (.off 1)) = false := by decide
theorem test_wf_glean_names : wellFormed (.glean 0 1 0 63) = false ∧ wellFormed (.gdrain 1 0 1 63) = false ∧
    wellFormed (.gdrain 96 0 0 1) = false ∧ wellFormed (.glean 0 0 0 63) = true := by decide
theorem test_wf_shadow_field : wellFormed (.nset 0x0A (.reg 1)) = false ∧ wellFormed (.nset 0xAD (.reg 1)) = true := by decide
theorem test_wf_job_formats : wellFormed (.mma 0 0 7 3 1) = false ∧ wellFormed (.mma 0 0 3 8 1) = false ∧
    wellFormed (.mma 0 1 8 8 1) = false ∧ wellFormed (.plane 0 0 6 1) = false ∧ wellFormed (.kld 3 1 2) = false ∧
    wellFormed (.drain 0 0 15 0 1) = false := by decide
theorem test_wf_hint_number : wellFormed (.hint 1 1 2 none) = false := by decide
theorem test_wf_header : wellFormed (.blk 0 3 0 0 2) = false ∧ wellFormed (.blk 0 0 0 0 0) = false ∧
    wellFormed (.blk 0 0 0 0 3) = false := by decide

/-! ### Words written out from the encodings of 07 to 12 (the examples that the spec gives) -/

theorem test_word_li : decodeTableWord 32 0x7FFFF40B = some (.li 8 0x7FFFF) := by decide +kernel
theorem test_word_liwH : decodeTableWord 64 0x000000018000128B = some (.liwH 5 1) := by decide +kernel
theorem test_word_salui : decodeTableWord 32 0x00406307 = some (.addImm 6 6 (.imm 1)) := by decide +kernel
theorem test_word_qpop : decodeTableWord 32 0x0040539B = some (.qpop 5 7) := by decide +kernel
theorem test_word_qpush : decodeTableWord 32 0x0000441B = some (.qpush 4 8) := by decide +kernel
theorem test_word_pause : decodeTableWord 32 0x04001F9F = some (.pause 63) := by decide +kernel
theorem test_word_cfgr : decodeTableWord 32 0x0800721F = some (.cfgr 4 7) := by decide +kernel
theorem test_word_lda : decodeTableWord 32 0x0016322F = some (.lda 2 3 3 4 none) := by decide +kernel
theorem test_word_rresv : decodeTableWord 32 0x0008333B = some (.rresv 6 3 4) := by decide +kernel
theorem test_word_rpeek : decodeTableWord 32 0x0100233B = some (.rpeek 6 2) := by decide +kernel
theorem test_word_rpop : decodeTableWord 32 0x00C024BB = some (.rpop 9 2) := by decide +kernel
theorem test_word_seal : decodeTableWord 32 0x0000023F = some (.seal 4) := by decide +kernel
theorem test_word_rinr : decodeTableWord 32 0x0080023F = some (.rinr 4) := by decide +kernel
theorem test_word_vadd_imm : decodeTableWord 64 0x0064900090061443 = some (.vaddImm 0 5 6 100) := by decide +kernel
theorem test_word_vhfma : decodeTableWord 64 0x0000290C8289204B = some (.vhfma 12 1 0 0 8 9 10) := by decide +kernel
theorem test_word_vcmp_fmt : decodeTableWord 64 0x0000100E8050A053 = some (.vcmpLtFmt 14 0 0 40 40 0) := by decide +kernel
theorem test_word_gmap : decodeTableWord 32 0x600A40E3 = some (.gmap 41 0 1) := by decide +kernel
theorem test_word_vpush : decodeTableWord 32 0x108501DB = some (.vpush 3 5 2) := by decide +kernel
theorem test_word_gdrain : decodeTableWord 64 0x0003280090004067 = some (.gdrain 3 1 1 16) := by decide +kernel
theorem test_word_nset : decodeTableWord 32 0x0100206B = some (.nset 0x80 (.reg 2)) := by decide +kernel
theorem test_word_nset_literal : decodeTableWord 64 0x00000001800A006B = some (.nset 5 (.lit 1)) := by decide +kernel
theorem test_word_drain : decodeTableWord 32 0x0598046F = some (.drain 0 0 12 12 8) ∧ decodeTableWord 32 0x140A03EF = some (.drain 0 1 5 0 7) := by
  decide +kernel
theorem test_word_mma : decodeTableWord 32 0x0312036B = some (.mma 0 0 9 8 6) ∧ decodeTableWord 32 0x3246006B = some (.mma 1 1 3 2 0) := by
  decide +kernel
theorem test_word_plane : decodeTableWord 32 0x0810006B = some (.plane 0 0 8 0) := by decide +kernel
theorem test_word_sacc : decodeTableWord 32 0x006453EF = some (.sacc 0 0 2 3 5 7) := by decide +kernel
theorem test_word_gclr : decodeTableWord 32 0x0600506F = some (.gclr 0 5 0) := by decide +kernel
theorem test_word_publish : decodeTableWord 32 0x0400C5F3 = some (.publish 12 11) := by decide +kernel
theorem test_word_copyj : decodeTableWord 32 0x000008F3 = some (.copyj 0 17) := by decide +kernel
/-- R155, R170: the reserved quadrant and a SALU function that is not allocated. -/
theorem test_word_reserved : decodeTableWord 16 0x0002 = none ∧ decodeTableWord 32 (0x000C5203 + 26 * 2 ^ 22) = none := by
  decide +kernel

/-! ### States -/

/-- A strand whose control, access or execute stream is at the given instruction, in a block of its own. -/
noncomputable def atWord (w : Nat) : State := State.reset.withFetchWord 32 w
/-- The control stream about to execute `li s6, 0`. -/
noncomputable def onC : State := atWord 0x0000030B
/-- The access stream about to execute `ld.64 s7, [s2 + s6 * 8]`. -/
noncomputable def onA : State := atWord 0x0CCC23A7
/-- The execute stream about to execute `vadd v8, v8, v24`. -/
noncomputable def onX : State := atWord 0x06082043

/-- The machine after an instruction. -/
def after (i : Instr) (s : State) : State :=
  match exec i s with
  | .next t => t
  | _ => s

/-- The machine after a step. -/
noncomputable def stepped (s : State) : State :=
  match step s with
  | .next t => t
  | _ => s

/-- A scalar register of the issuing stream set. -/
def with_ (s : State) (r : Reg) (v : Word) : State := s.setMe (s.me.put r v)
/-- The issuing stream changed. -/
def me_ (s : State) (f : Stream → Stream) : State := s.setMe (f s.me)
/-- The current strand changed. -/
def cur_ (s : State) (f : Strand → Strand) : State := s.setCur (f s.cur)
/-- The same strand in the system context. -/
def sys_ (s : State) : State := cur_ s fun k => { k with id := { k.id with sys := true } }
/-- The key of DRAM address 0x300000 of die 0. -/
def pageKey : Nat := 0x300000
/-- One 64 KiB page of DRAM of die 0, readable, writable and open to user mode, at 0x200000, in an address space whose ROOT is
valid. -/
def page_ (s : State) (attrs : Nat) : State :=
  s.setDev { s.dev with
    mem := s.dev.mem.set 0 1
    maps := s.dev.maps ++ [{ asid := 0, base := 0x200000, units := 1, key := pageKey, attrs := attrs
                             owner := .object 0x200000, charged := false }] }
/-- The access stream with that page. -/
noncomputable def onPage : State := page_ onA 0xAF
/-- Tables of address space 0 that map one page of 64 KiB at 0x800000, whose leaf is given, below a root on die 0. -/
def tables_ (s : State) (leaf : Nat) : State :=
  s.setDev { s.dev with mem := ((((s.dev.mem.put 0 (natLe 8 0x10001)).put 0x10000 (natLe 8 0x12001)).put 0x12000 (natLe 8 0x14001)).put
    0x14000 (natLe 8 0x16001)).put 0x16400 (natLe 8 leaf) }
/-- The same with the page at 0x800000 migrating (MIG = 1). -/
def moving_ (s : State) : State := tables_ s 0x30102F
/-- The one part of a checked access. -/
def part (c : Chk) : Piece :=
  match c with
  | .ok (p :: _) => p
  | _ => { start := 0, len := 0, hit := objHit (.own 0 0) 0 0 0 false false }
/-- The parts of a checked access. -/
def parts (c : Chk) : List Piece :=
  match c with
  | .ok ps => ps
  | _ => []

theorem quiet_onA : Quiet onA := by constructor <;> decide +kernel
theorem quiet_onPage : Quiet onPage := by constructor <;> decide +kernel

/-! ### A step runs what the decoder reads -/

/-- The spec's example `add s4, s5, -3`: s4 = s5 - 3 = -3. -/
theorem test_step_add : (stepped (atWord 0x7F405207)).cur.ctl.get 4 = -3 ∧
    (stepped (atWord 0x7F405207)).cur.ctl.pc = fetchBase + 8 := by decide +kernel
/-- The hypotheses of StepRunsDecoded for a body instruction, at the first place of a body. -/
theorem test_meets_StepRunsDecoded : onC.agenda = [] ∧ onC.turn = .stream .c ∧ onC.mayRun = true ∧
    onC.takesInterrupt = false ∧ onC.me.pause = 0 ∧ onC.hasDeferred = false ∧ onC.elementFull = false ∧ onC.cur.portable = none ∧
    onC.me.atHeader = false ∧ onC.me.rep = none ∧ onC.dev.failed = false ∧
    onC.bodyBytes onC.me.pc = (.ok (parts (onC.bodyBytes onC.me.pc).1), (onC.bodyBytes onC.me.pc).2) ∧
    decodeBytes (onC.bodyBytes onC.me.pc).2 = some (.li 6 0, 4) := by decide +kernel
/-- The same at a header, and at a body word that decodes to nothing (major 3). -/
theorem test_meets_StepRunsDecoded_header : let s := atWord 0x1000027F
    s.me.atHeader = true ∧ s.isStart s.me.pc = true ∧ s.inObject s.me = true ∧ s.fetchCheck s.me.pc 4 = .ok (parts (s.fetchCheck s.me.pc 4)) ∧
    decodeBytes (s.codeBytes (parts (s.fetchCheck s.me.pc 4))) = some (.blk 1 0 0 0 4, 4) ∧ s.mayRun = true ∧
    (s.codeBytes (parts (s.fetchCheck s.me.pc 4))).length = 4 := by decide +kernel
theorem test_meets_StepRunsDecoded_reserved : let s := atWord 0x0000000F
    s.me.atHeader = false ∧ decodeBytes (s.bodyBytes s.me.pc).2 = none ∧ s.mayRun = true := by decide +kernel
/-- A header past the object's end is none of its blocks. -/
theorem test_meets_StepRunsDecoded_outside : let s := me_ (atWord 0x1000027F) fun x => { x with pc := fetchBase + 20 }
    s.me.atHeader = true ∧ s.isStart s.me.pc = false ∧ (atWord 0x1000027F).isStart fetchBase = true := by decide +kernel
/-- A job issue while the strand's sheaf is being pre-empted is held back; LI is not (R344). -/
theorem test_meets_StepRunsDecoded_holdsBack : let h : Sheaf :=
      { die := 0, stag := 0, task := 0, x := 0, y := 0, z := 0, stage := 0, cores := [0], endedStrands := 0, saved := false
        stopping := true, placed := 0 }
    let s := onC.setDev { onC.dev with sheaves := [h] }
    s.holdsBack (.mma 0 0 3 3 1) = true ∧ s.holdsBack (.li 6 0) = false ∧ onC.holdsBack (.mma 0 0 3 3 1) = false := by decide +kernel
/-- The moves of the agenda: an event, a stream's turn, and the launch of a system task by scheduler firmware. -/
theorem test_meets_StepRunsDecoded_agenda : let ms : List Move := [.event 0 .strandEnd, .stream 0 .c, .system 0 0x100000 [] 0]
    onC.dev.failed = false ∧ ({ onC with agenda := ms } : State).agenda = .event 0 .strandEnd :: ms.tail ∧
    ({ onC with agenda := ms.tail } : State).agenda = .stream 0 .c :: ms.tail.tail ∧
    ({ onC with agenda := ms.tail.tail } : State).agenda = .system 0 0x100000 [] 0 :: [] := by decide +kernel
/-- Inside a REP: the target's code stepped to issue 1. -/
theorem test_meets_StepRunsDecoded_rep :
    let r : RepState := { addr := fetchBase, ib := 0, ia := 0, id := 1, last := 1, issue := 1 }
    let s := me_ (atWord 0x00406307) fun x => { x with rep := some r, pc := fetchBase }
    (frameBytes (s.bodyBytes (s.me.pc + 4)).2).bind (fun c => decode (r.code c)) = some (.addImm 7 6 (.imm 1)) := by
  decide +kernel

/-! ### Witnesses: scalar instructions, blocks, control flow, queues -/

theorem test_meets_RegisterZero : exec (.add 0 1 (.reg 2)) onC = .next (after (.add 0 1 (.reg 2)) onC) := rfl
theorem test_meets_BlockHeader : (atWord 0x1000027F).me.atHeader = true ∧ (0 : BitVec 2).toNat = (atWord 0x1000027F).who.num ∧
    onC.me.atHeader = false ∧ onC.cur.spec = none := by decide +kernel
/-- A taken branch to the block start at `fetchBase`: every check of Table 7-7 passes. -/
theorem test_meets_Branches : onC.transferWaits (wrap ((onC.me.hdr.toNat : Int) + (Off11.off 0).int * 4) 64) = false ∧
    onC.transferFault .c (wrap ((onC.me.hdr.toNat : Int) + (Off11.off 0).int * 4) 64) false = none := by
  decide +kernel
/-- A taken branch to a page that migrates: it waits. -/
theorem test_meets_Branches_wait : let s := me_ (moving_ onC) fun x => { x with hdr := 0x800000 }
    s.transferWaits (wrap ((s.me.hdr.toNat : Int) + (Off11.off 0).int * 4) 64) = true ∧
    (after (.b (.off 0)) s).me = s.me ∧
    s.transferWaits 0x800000 = true ∧ onC.transferWaits fetchBase = false := by decide +kernel
/-- A taken branch into the block, which is no block start. -/
theorem test_meets_Branches_fault : onC.transferFault .c (wrap ((onC.me.hdr.toNat : Int) + (Off11.off 1).int * 4) 64) false =
    some (0x01, 0, 0) ∧ onC.cur.spec = none := by decide +kernel
theorem test_branch_not_taken : (after (.cbNe 1 2 (.off 1)) onC).me.pc = onC.me.pc + 4 := by decide +kernel

/-- One bit in the control stream's branch-outcome queue. -/
def bqOne : Queue := { occ := 1, head := 63, tail := 0, slots := [(63, 1)] }
theorem ok_bqOne : bqOne.Ok 64 := by constructor <;> decide +kernel
theorem test_meets_BranchOnQueue : let s := onC.setQueue 10 bqOne
    (s.queue 10) = bqOne ∧ (bqOne.entries 64).head?.map (·.getLsbD 0) = some ((1 : BitVec 1) == 1) ∧
    (bqOne.entries 64).head?.map (·.getLsbD 0) ≠ some ((0 : BitVec 1) == 1) ∧
    s.transferWaits (wrap ((s.me.hdr.toNat : Int) + (Off11.off 0).int * 4) 64) = false ∧
    s.transferFault s.who (wrap ((s.me.hdr.toNat : Int) + (Off11.off 0).int * 4) 64) false = none ∧ (onC.queue 10).occ = 0 := by
  decide +kernel
/-- The same with the target's page migrating, and with a target that is no block start. -/
theorem test_meets_BranchOnQueue_wait : let s := me_ ((moving_ onC).setQueue 10 bqOne) fun x => { x with hdr := 0x800000 }
    let u := onC.setQueue 10 bqOne
    s.transferWaits (wrap ((s.me.hdr.toNat : Int) + (Off11.off 0).int * 4) 64) = true ∧ (s.queue 10).occ ≠ 0 ∧
    u.transferWaits (wrap ((u.me.hdr.toNat : Int) + (Off11.off 1).int * 4) 64) = false ∧
    u.transferFault u.who (wrap ((u.me.hdr.toNat : Int) + (Off11.off 1).int * 4) 64) false = some (0x01, 0, 0) := by decide +kernel
/-- Each rung of Table 7-7: an address above the space, one that no page maps, a page that does not execute, a place that is
no start, an indirect transfer to a header with EP 0, a header of another class, and a transfer that passes. -/
theorem test_meets_TransferFaults : 2 ^ 56 ≤ (0x0100000000000000 : Word).toNat ∧
    onPage.locateAll 0x400000 (splits 0x400000 4) = .fault 0x04 0x400000 ∧
    onPage.locateAll 0x200000 (splits 0x200000 4) = .ok [part (onPage.locateAll 0x200000 (splits 0x200000 4))] ∧
    (part (onPage.locateAll 0x200000 (splits 0x200000 4))).hit.x = false ∧
    (part (onA.locateAll fetchBase (splits fetchBase 4))).hit.x = true ∧
    (part (onA.locateAll fetchBase (splits fetchBase 4))).hit.u = true ∧ onA.isStart (fetchBase + 4) = false ∧
    onA.isStart fetchBase = true ∧ ((onA.codeWord fetchBase).getD 0).getLsbD 28 = true ∧
    (((onA.codeWord fetchBase).getD 0).extractLsb' 26 2).toNat = StreamId.a.num ∧
    (((onA.codeWord fetchBase).getD 0).extractLsb' 26 2).toNat ≠ StreamId.c.num := by decide +kernel
/-- Poison in the line of the target's header, and none. -/
theorem test_meets_TransferFaults_poison : let c := onA.locateAll fetchBase (splits fetchBase 4)
    let l := (part c).hit.key / 64
    let s := onA.setDev { onA.dev with poison := [l] }
    c = .ok [part c] ∧ onA.poisonIn [part c] = [] ∧ s.locateAll fetchBase (splits fetchBase 4) = c ∧ s.poisonIn [part c] = [l] ∧
    s.transferFault .a fetchBase false = some (0x10, fetchBase, 4) := by decide +kernel
/-- Calls at the last depth that pushes, and at depth 256. -/
theorem test_meets_CallsAndJumps : let e : RetEntry := { ret := fetchBase + 4, hdr := fetchBase, left := 0, pass := 0 }
    let s := me_ onC fun x => { x with stack := List.replicate 15 e }
    let u := me_ onC fun x => { x with stack := List.replicate 16 e, spl := 240 }
    s.me.stack.length < 16 ∧ s.transferWaits fetchBase = false ∧ u.transferWaits fetchBase = false ∧ s.transferFault .c fetchBase false = none ∧ (with_ s 5 fetchBase).transferFault .c fetchBase true = none ∧
    16 ≤ u.me.stack.length ∧ u.me.spl = 240 ∧ u.transferFault .c fetchBase false = none ∧ u.cur.spec = none := by decide +kernel
/-- A full stack with 239 entries spilled, over a spill area on the page and over one that nothing maps. -/
noncomputable def onSpill (base : Word) (spl : Nat) (n : Nat) : State :=
  me_ onPage fun x => { x with stack := List.replicate n { ret := fetchBase + 4, hdr := fetchBase, left := 3, pass := 5 }, spl := spl
                               rsbase := base }
theorem test_meets_CallsAndJumps_spill : let s := onSpill 0x200000 239 16
    let at_ := s.me.spillAt s.me.spl
    let c := s.locateAll at_ (splits at_ 16)
    let t := after (.call (.off 0)) s
    s.me.stack.length = 16 ∧ s.me.spl < 240 ∧ s.cur.spec = none ∧ s.transferWaits fetchBase = false ∧
    s.transferFault s.who fetchBase false = none ∧ c = .ok [part c] ∧ (part c).start = 0 ∧ (part c).len = 16 ∧
    (part c).hit.loc = .phys (pageKey + 16 * 239) ∧ (part c).hit.remote = false ∧ (part c).hit.irr = false ∧
    (part c).hit.cls.isSome = true ∧ (part c).hit.committed = true ∧ s.logStall [part c] = false ∧ s.dev.mem.wf = true ∧
    t.me.spl = 240 ∧ t.me.stack.length = 16 ∧ t.dev.mem.nat (pageKey + 16 * 239) 8 = fetchBase.toNat + 4 + 3 * 2 ^ 56 := by decide +kernel
theorem test_meets_CallsAndJumps_unmapped : let s := onSpill 0x400000 0 16
    16 ≤ s.me.stack.length ∧ s.me.spl < 240 ∧ s.transferFault s.who fetchBase false = none ∧
    s.locateAll (s.me.spillAt s.me.spl) (splits (s.me.spillAt s.me.spl) 16) = .fault 0x04 0x400000 := by decide +kernel
/-- An empty stack with one entry spilled, on the page and where nothing maps the area. -/
theorem test_meets_Returns_spill : let s := onSpill 0x200000 1 0
    let c := s.locateAll (s.me.spillAt 0) (splits (s.me.spillAt 0) 16)
    let u := onSpill 0x400000 1 0
    s.me.stack = [] ∧ s.me.spl = 1 ∧ c = .ok [part c] ∧ (part c).hit.remote = false ∧ s.poisonIn [part c] = [] ∧ u.cur.spec = none ∧
    u.locateAll (u.me.spillAt 0) (splits (u.me.spillAt 0) 16) = .fault 0x04 0x400000 := by decide +kernel
theorem test_meets_Returns : let e : RetEntry := { ret := fetchBase + 4, hdr := fetchBase, left := 0, pass := 0 }
    (me_ onC fun x => { x with stack := [e] }).me.stack = e :: [] ∧ onC.me.stack = [] ∧ onC.me.spl = 0 := by decide +kernel
/-- The largest return point and block address that an entry holds. -/
theorem test_meets_SpilledEntry : let e : RetEntry := { ret := 0x00FFFFFFFFFFFFFE, hdr := 0x00FFFFFFFFFFFFFC, left := 63, pass := 63 }
    e.ret.toNat < 2 ^ 56 ∧ e.hdr.toNat < 2 ^ 56 ∧ unspill e.spill = e := by decide +kernel
/-- REP over `add s6, s6, 1` may head it with 64 issues; over a branch it may not. -/
theorem test_meets_RepeatAndHints : let r : RepState := { addr := fetchBase, ib := 0, ia := 0, id := 1, last := 3, issue := 0 }
    let s := me_ (atWord 0x00406307) fun x => { x with pc := fetchBase }
    s.bodyBytes (s.me.pc + 4) = (.ok (parts (s.bodyBytes (s.me.pc + 4)).1), (s.bodyBytes (s.me.pc + 4)).2) ∧
    frameBytes (s.bodyBytes (s.me.pc + 4)).2 = some (.word 0x00406307) ∧ s.me.rep = none ∧ repOk r 0x00406307 none = true ∧
    repOk r 0x00847213 none = false := by decide +kernel
/-- REP over `vadd v5, v6, 100`, a word with its literal; over a halfword; and at the end of what is mapped. -/
theorem test_meets_RepeatAndHints_literal : let r : RepState := { addr := fetchBase, ib := 0, ia := 0, id := 1, last := 3, issue := 0 }
    let s := me_ (State.reset.withFetchWord 64 0x0064900090061443) fun x => { x with pc := fetchBase }
    let u := me_ (atWord 0x00000001) fun x => { x with pc := fetchBase }
    let v := me_ onC fun x => { x with pc := 0x400000 }
    frameBytes (s.bodyBytes (s.me.pc + 4)).2 = some (.wide 0x90061443 0x00649000) ∧ repOk r 0x90061443 (some 0x00649000) = true ∧
    frameBytes (u.bodyBytes (u.me.pc + 4)).2 = some (.half 1) ∧ (u.bodyBytes (u.me.pc + 4)).1 = .ok (parts (u.bodyBytes (u.me.pc + 4)).1) ∧
    v.bodyBytes (v.me.pc + 4) = (.fault 0x04 0x400004, (v.bodyBytes (v.me.pc + 4)).2) ∧ v.cur.spec = none := by decide +kernel
/-- A REP over a page that migrates waits for its target. -/
theorem test_meets_RepeatAndHints_wait : let s := me_ (moving_ onC) fun x => { x with pc := 0x800000 }
    s.bodyBytes (s.me.pc + 4) = (.wait, (s.bodyBytes (s.me.pc + 4)).2) := by decide +kernel
/-- Register 31 is the last that issue 3 of a step of 1 may reach. -/
theorem test_meets_RepSteps : let r : RepState := { addr := 0, ib := 0, ia := 0, id := 1, last := 3, issue := 3 }
    let w : BitVec 32 := 0x00400E07
    repFields w none = some ((repFields w none).getD []) ∧ repOk r w none = true ∧ r.issue ≤ r.last.toNat ∧
    decode (.word (r.step w none)) = some (.addImm 31 0 (.imm 1)) ∧ repOk { r with last := 4 } w none = false := by decide +kernel

/-- One entry in a queue of 16, at the wrap of its ring. -/
def qOne : Queue := { occ := 1, head := 15, tail := 0, slots := [(15, 7)] }
theorem ok_qOne : qOne.Ok 16 := by constructor <;> decide +kernel
theorem ok_qEmpty : Queue.Ok Queue.none 16 := by constructor <;> decide +kernel
/-- R194: C produces for SQCA (4) and consumes SQAC (5); queue 4 full stalls, queue 5 is no queue that C may push. -/
theorem test_meets_QueuePushes : produces .c 4 = true ∧ onC.ownedQ 4 = false ∧ (onC.queue 4).occ < queueDepth 4 ∧
    onC.queue 4 = Queue.none ∧ queueDepth 4 = 16 ∧ 16 ≤ ({ qOne with occ := 16 } : Queue).occ ∧ produces .c 5 = false ∧
    (produces .c 11 && (10 ≤ 11 && 11 ≤ 12)) = true ∧ onC.cur.spec = none := by decide +kernel
theorem test_push_full_stalls : (after (.qpush 4 1) (onC.setQueue 4 { qOne with occ := 16 })).me.stall = 1 := by decide +kernel
theorem test_meets_QueuePops : let s := onC.setQueue 5 qOne
    consumes s.who 5 = true ∧ s.ownedQ 5 = false ∧ s.queue 5 = qOne ∧ qOne.entries (queueDepth 5) = 7 :: [] ∧
    (onC.queue 5).occ = 0 ∧ consumes .c 4 = false := by decide +kernel
/-- QDROP of one entry that is there, of two with one there, and with none. -/
theorem test_meets_QueueDrops : let s := onC.setQueue 5 qOne
    (0 : BitVec 6).toNat + 1 ≤ (s.queue 5).occ ∧ (s.queue 5).occ < (1 : BitVec 6).toNat + 1 ∧ 0 < (s.queue 5).occ ∧
    s.me.drop = none ∧ (onC.queue 5).occ = 0 := by decide +kernel
theorem test_drop_keeps_count : (after (.qdropN 5 3) (onC.setQueue 5 qOne)).me.drop = some 3 := by decide +kernel

/-! ### Witnesses: waiting, configuration registers, interrupts, traps -/

/-- R198: one access outstanding is at the bound 1 and above the bound 0. -/
theorem test_meets_WaitAndPause : let s := cur_ onC fun k => { k with ld := 1 }
    s.cur.ld ≤ (1 : BitVec 4).toNat ∧ ¬s.cur.ld ≤ (0 : BitVec 4).toNat ∧ (0 : BitVec 4).toNat ≠ 15 := by decide +kernel
/-- A PAUSE with one cycle left, which its event ends, with two, which a turn lowers, and with none. -/
theorem test_meets_WaitAndPause_pause : let s (n : Nat) := me_ onC fun x => { x with pause := n }
    (s 1).me.pause = 1 ∧ (s 2).me.pause ≠ 1 ∧ 1 < (s 2).me.pause ∧ (s 2).agenda = [] ∧ (s 2).dev.failed = false ∧
    (s 2).turn = .stream .c ∧ (s 2).mayRun = true ∧ (s 2).takesInterrupt = false ∧ (s 1).mayRun = true ∧
    (s 1).takesInterrupt = false ∧ (stepped (s 2)).cur.ctl.pause = 1 ∧ (after .pauseExpiry (s 2)).me.pause = 2 ∧
    (after (.pause 0) onC).me.pause = 1 := by decide +kernel
theorem test_wait_stalls : (after (.wait 0 15 15 15) (cur_ onC fun k => { k with ld := 1 })).me.stall = 5 := by decide +kernel
theorem test_meets_ConfigReads : (0x1FFF : BitVec 14).toNat < 0x2000 ∧ 0x2000 ≤ (0x2000 : BitVec 14).toNat ∧
    onC.cur.id.sys = false ∧ (sys_ onC).cur.id.sys = true ∧ onC.cur.spec = none := by decide +kernel
theorem test_meets_ConfigFields : (me_ onC fun x => { x with stack := List.replicate 16 { ret := 0, hdr := 0, left := 0, pass := 0 }
                                                             spl := 240 }).me.stack.length ≤ 16 := by decide +kernel
/-- The limits of the fields that have some: cfg.nbv 1 and 2, HANGTO 16 and 15. -/
theorem test_meets_ConfigWrites : onC.who = .c ∧ onA.who ≠ .c ∧ onC.cur.spec = none ∧ onC.cur.id.sys = false ∧
    ((1 : Word).extractLsb' 0 8).toNat ≤ 1 ∧ 1 < ((2 : Word).extractLsb' 0 8).toNat ∧ 16 ≤ ((16 : Word).extractLsb' 0 5).toNat ∧
    ((15 : Word).extractLsb' 0 5).toNat < 16 ∧ (sys_ onC).cur.id.sys = true := by decide +kernel
/-- The trap ring's block on the page, which takes the place of an old one among the persistent regions. -/
theorem test_cfgw_traprcb : let s := with_ (sys_ (page_ onC 0xAF)) 3 0x200040
    let t := after (.cfgw 3 0x2002) (s.setDev { s.dev with persistPages := [(0x9000, 64, 256), (0xA000, 64, 5)] })
    t.myDie.win.traprcb = 0x200040 ∧ (0xA000, 64, 5) ∈ t.dev.persistPages ∧ (0x9000, 64, 256) ∉ t.dev.persistPages := by decide +kernel
theorem test_cfgw_hangto : (after (.cfgw 3 0x2001) (with_ (sys_ onC) 3 15)).myDie.win.hangto = 24 ∧
    (after (.cfgw 3 0x2001) (with_ (sys_ onC) 3 16)).myDie.win.hangto = 16 := by decide +kernel
/-- R203: the last identifier and the first number past the list. -/
theorem test_capr_ends : (after (.capr 4 3) (with_ onC 3 11)).rd 4 = 12 + 2 ^ 16 ∧ (after (.capr 4 3) (with_ onC 3 12)).rd 4 = 0 := by
  decide +kernel

/-- A pending user interrupt, not masked, whose vector is the block at `fetchBase`. -/
noncomputable def onDue : State := cur_ onC fun k => { k with ui := { k.ui with pend := 1, vec := fetchBase } }
theorem test_meets_UserInterruptTaken : let k := onDue.cur
    k.resident = true ∧ k.frozen = false ∧ k.parked = false ∧ k.spillReady = true ∧ k.ctl.run = .running ∧ k.ctl.rep = none ∧
    k.ctl.drop = none ∧ k.ctl.reply = none ∧ onDue.transferWaits k.ui.vec = false ∧ k.ctl.stall ≤ 5 ∧ k.ctl.stall ≠ 5 ∧ k.ui.pend ≠ 0 ∧ k.ui.mask = false ∧ k.ui.inh = false ∧ k.ui.vec ≠ 0 ∧
    ({ onDue with turn := .stream .c } : State).transferFault .c k.ui.vec true = none ∧ onC.cur.ui.pend = 0 := by decide +kernel
/-- A stall of kind 5 at a PUBLISH, no boundary, and at a WAIT. -/
theorem test_meets_UserInterruptTaken_copying : let s (w : Nat) := me_ (atWord w) fun x => { x with stall := 5 }
    (s 0x0400C5F3).cur.ctl.stall = 5 ∧ (s 0x0400C5F3).atCopying = true ∧ (s 0x04001F9F).atCopying = false := by decide +kernel
theorem test_meets_UserInterruptTaken_fault : let s := cur_ onDue fun k => { k with ui := { k.ui with vec := 4 } }
    s.transferWaits s.cur.ui.vec = false ∧
    ({ s with turn := .stream .c } : State).transferFault .c s.cur.ui.vec true = some (0x04, 4, 4) ∧ s.cur.spec = none := by
  decide +kernel
/-- A vector on a page that migrates. -/
theorem test_meets_UserInterruptTaken_wait : let s := cur_ (moving_ onDue) fun k => { k with ui := { k.ui with vec := 0x800000 } }
    s.transferWaits s.cur.ui.vec = true ∧ s.cur.ui.pend ≠ 0 ∧ s.cur.resident = true ∧ s.cur.ctl.run = .running ∧
    (after .userInterruptTake s).cur.ui.inh = false := by decide +kernel
theorem test_interrupt_then_return : let s := after .userInterruptTake onDue
    s.cur.ui.inh = true ∧ s.cur.ui.pend = 0 ∧ s.cur.ctl.pc = fetchBase ∧ s.cur.ui.ret = fetchBase + 4 ∧
    (after .uiret s).cur.ctl.pc = fetchBase + 4 ∧ (after .uiret s).cur.ui.inh = false := by decide +kernel
theorem test_meets_UserInterruptReturn : onC.who = .c ∧ onC.cur.ui.inh = false ∧ onC.cur.spec = none ∧ onX.who ≠ .c ∧
    (after .userInterruptTake onDue).cur.ui.inh = true := by decide +kernel
/-- A strand frozen by a TRAP of its control stream, whose record the trap ring has. -/
noncomputable def onTrap : State := cur_ (after (.trap 7) onC) fun k => { k with published := 1 }
theorem test_meets_TrapAndResume : let k := onTrap.cur
    k.resident = true ∧ k.frozen = true ∧ k.hung = false ∧ k.spillReady = true ∧ k.badQueue = none ∧ k.published = k.faults.length ∧
    (∀ o ∈ onTrap.others, o.resident = true → o.id.coreNum ≠ k.id.coreNum) ∧ (∀ r ∈ k.faults, r.src.toNat < 3) ∧
    (k.faults.map fun r => (r.cause, r.src, r.detail)) = [(0x12, 0, 7)] := by decide +kernel
theorem test_meets_TrapAndResume_other : let s := cur_ (after .illegalEncoding onC) fun k => { k with published := 1 }
    (∀ r ∈ s.cur.faults, r.cause ≠ 0x12) ∧ s.cur.published = s.cur.faults.length ∧ s.cur.badQueue = none ∧ s.cur.frozen = true := by
  decide +kernel
theorem test_resume_passes_trap : (after (.sresumeResume 0 0) onTrap).cur.ctl.pc = fetchBase + 8 ∧
    (after (.sresumeResume 0 0) onTrap).cur.frozen = false := by decide +kernel

/-- A speculation numbered 5 of die 0. -/
def specOne : Speculation :=
  { num := 5, tid := 3, queue := 1, die := 0, pri := 4, kernel := 0, args := [], writes := [], written := [], units := [], readSet := []
    filter := [], stale := false, ended := false }
theorem test_meets_SpeculativeFault : let s := (cur_ onC fun k => { k with spec := some 5 })
    let u := s.setDev { s.dev with specs := [specOne] }
    u.cur.spec = some 5 ∧ u.dev.specs.find? (fun q => q.num == 5) = some specOne ∧ specOne.die < 8 ∧
    (after .illegalEncoding u).cur.resident = false ∧ ((after .illegalEncoding u).dev.die 0).win.doth = 1 := by decide +kernel

/-- A tent of the default identity. -/
def tentOne : Tent :=
  { tid := 0, asid := 0, ceiling := 5, home := 0, unsigned := false, usedStk := 0, limStk := 8, usedLp := 0, limLp := 8, devq := []
    rings := [], mailboxes := [], hist := [], persist := [], graphRings := [], handles := [] }
noncomputable def onTent : State := let s := page_ onC 0xAF
  with_ (s.setDev { s.dev with tents := [tentOne] }) 3 0x200000
theorem test_meets_Launch : onTent.who = .c ∧ onTent.cur.spec = none ∧ onTent.cur.id.sys = false ∧
    onTent.dev.tent onTent.cur.id.tid.toNat = some tentOne ∧ tentOne.devq.length < 64 ∧ (onTent.rd 3).toNat < 2 ^ 56 ∧
    onTent.storesInFlight = [] ∧ onTent.beforeToken = false ∧ onTent.flushable 3 = true ∧ (let w := onTent.acquired 3
      w.check .load 1 false (onTent.rd 3) 64 = .ok (parts (w.check .load 1 false (onTent.rd 3) 64)) ∧
      (∀ p ∈ parts (w.check .load 1 false (onTent.rd 3) 64), p.hit.remote = false) ∧
      w.poisonIn (parts (w.check .load 1 false (onTent.rd 3) 64)) = [] ∧ (w.dev.liveHandles tentOne.tid).length < 2 ^ 63) ∧
    onTent.rd 0 = 0 ∧ tentOne.home < 8 := by decide +kernel
/-- A store of eight bytes to 0x100 of die 1. -/
def reqOne : Request :=
  { tag := 1, gen := 0, age := 0, kind := 1, core := 0, stag := 0, six := 0
    parts := [{ start := 0, len := 8, key := 2 ^ 52 + 0x100, pkind := 0, line := false, counted := false }]
    bytes := natLe 8 0x77, poison := [], fetched := [], onSt := true, refusals := 0, served := false, performed := false
    replied := false, value := 0, bitmap := 0, members := [], chain := false, iaddr := 4, faddr := 8 }
/-- A store of the strand that is still in flight to die 1: LAUNCH stalls. -/
theorem test_meets_Launch_stores :
    let s := onTent.setDev (onTent.dev.onDie 0 fun x => { x with requests := [reqOne] })
    s.storesInFlight ≠ [] ∧ (after (.launch 4 3 0) s).me.stall = 5 ∧ s.dev.tent 0 = some tentOne := by decide +kernel
/-- An access of a queue stream that is not performed, earlier than a token the control stream has popped; and a dirty line of
the tent that meets a full undo log. -/
theorem test_meets_Launch_waits : let q : QStream :=
      { store := true, sext := false, sz := 0, base := 0x200100, shape := 0x10000, queue := 2, entry := 0, elem := 0, held := none, replies := []
        kinds := [1], iaddr := 0, tl := 0, cp := 0 }
    let s := cur_ (onTent.setQueue 5 { Queue.none with pushed := 1 }) fun k => { k with qstreams := [q] }
    let l : CacheLine := { line := 2 ^ 46 + 4, tids := [0], data := 7, dirty := 1, present := -1 }
    let u := onTent.setDev (onTent.dev.onDie 0 fun x => { x with lines := [l] })
    let v := u.setDev (u.dev.onDie 1 fun x => { x with win := { x.win with undoCap := 0 } })
    s.storesInFlight = [] ∧ s.beforeToken = true ∧ (after (.launch 4 3 0) s).me.stall = 5 ∧
    u.flushable 3 = true ∧ v.flushable 3 = false ∧ (after (.launch 4 3 0) v).me.stall = 5 := by decide +kernel
theorem test_launch_kicks : ((after (.launch 4 3 0) onTent).dev.die 0).kicks = [0] ∧
    ((after (.launch 4 3 0) onTent).dev.tents.map fun t => t.devq.map (·.args)) = [[[0]]] := by decide +kernel
theorem test_meets_Launch_full : let r : LaunchRec := { desc := 0, header := 0, args := [], handle := 1 }
    64 ≤ ({ tentOne with devq := List.replicate 64 r } : Tent).devq.length ∧ (sys_ onTent).cur.id.sys = true := by decide +kernel

/-! ### Witnesses: loads, stores, ordering -/

/-- Each order of Table 9-1: an OM address in user mode, a misaligned address, an unmapped one, a page that denies a store, a
part that is no granary, and a check that passes. -/
theorem test_meets_AccessChecks : onPage.cur.id.sys = false ∧ (0x0400000000000000 : Word).toNat / 2 ^ 56 = 4 ∧
    (0x200001 : Word).toNat % 4 ≠ 0 ∧ onPage.locateAll 0x210000 (splits 0x210000 8) = .fault 0x04 0x210000 ∧
    onPage.locateAll 0x20FFF8 (splits 0x20FFF8 8) = .ok [part (onPage.locateAll 0x20FFF8 (splits 0x20FFF8 8))] ∧
    (part (onPage.locateAll 0x20FFF8 (splits 0x20FFF8 8))).hit.queueObj = false ∧
    onPage.denied .store (part (onPage.locateAll 0x20FFF8 (splits 0x20FFF8 8))).hit = false ∧
    (page_ onA 0xA7).denied .store (part ((page_ onA 0xA7).locateAll 0x200000 (splits 0x200000 8))).hit = true ∧
    (part (onPage.locateAll 0x0200000000000000 (splits 0x0200000000000000 8))).hit.gran = true := by decide +kernel
/-- The queue object of the own core behind a page: a privilege fault in user mode before its misalignment is looked at; in
the system context the page lets it through. -/
theorem test_meets_AccessChecks_queue : let s := onA.setDev { onA.dev with
      mem := onA.dev.mem.set 0 1, maps := onA.dev.maps ++ [{ asid := 0, base := 0x200000, units := 1, key := 0xFFF0006000000, attrs := 0xAF
                                                             owner := .object 0x200000, charged := false }] }
    let c := s.locateAll 0x200001 (splits 0x200001 8)
    c = .ok [part c] ∧ (part c).hit.queueObj = true ∧ s.check .atomic 8 true 0x200001 8 = .fault 0x02 0x200001 ∧
    s.systemOnly 0x200001 8 = some 0x200001 ∧ onPage.systemOnly 0x200001 8 = none ∧
    (sys_ s).check .load 1 false 0x200001 8 = .ok (parts ((sys_ s).check .load 1 false 0x200001 8)) := by decide +kernel
/-- A walk that reads a poisoned line of the tables. -/
theorem test_meets_AccessChecks_poison : let s := tables_ onA 0x3000AF
    let u := s.setDev { s.dev with poison := [0x16400 / 64] }
    s.locateAll 0x800000 (splits 0x800000 8) = .ok (parts (s.locateAll 0x800000 (splits 0x800000 8))) ∧
    u.locateAll 0x800000 (splits 0x800000 8) = .fault 0x10 0x800000 ∧
    u.check .load 1 false 0x800000 8 = .fault 0x10 0x800000 ∧ u.cur.spec = none := by decide +kernel
/-- A store over the end of its page faults at the first byte it cannot reach (R82). -/
theorem test_store_over_page_end : onPage.check .store 1 false 0x20FFFC 8 = .fault 0x04 0x210000 := by decide +kernel
theorem test_meets_AccessRights : let h := (part (onPage.locateAll 0x200000 (splits 0x200000 8))).hit
    h.noLdst = false ∧ h.queueObj = false ∧ h.u = true := by decide +kernel
theorem test_meets_Loads : onPage.check .load 1 false 0x20FFF8 8 = .ok [part (onPage.check .load 1 false 0x20FFF8 8)] ∧
    (part (onPage.check .load 1 false 0x20FFF8 8)).hit.remote = false ∧
    onPage.poisonIn [part (onPage.check .load 1 false 0x20FFF8 8)] = [] ∧
    onPage.check .load 1 false 0x210000 8 = .fault 0x04 0x210000 := by decide +kernel
/-- R213: a byte with its top bit set, sign-extended and not. -/
theorem test_load_extends : let s := with_ (onPage.setDev { onPage.dev with mem := onPage.dev.mem.put pageKey [0x80] }) 2 0x200000
    (after (.ld 1 0 2 7 (.imm 0)) s).rd 7 = 0xFFFFFFFFFFFFFF80 ∧ (after (.ld 0 0 2 7 (.imm 0)) s).rd 7 = 0x80 := by decide +kernel
theorem test_meets_LoadedByte : onPage.cur.spec = none ∧ (part (onPage.check .load 1 false 0x200000 8)).hit.loc = .phys pageKey ∧
    (part (onPage.check .load 1 false 0x200000 8)).hit.remote = false ∧
    (part (onPage.check .load 1 false 0x0100000000000008 8)).hit.loc = .own 0 8 := by decide +kernel
theorem test_meets_Stores : onPage.dev.mem.wf = true ∧
    onPage.check .store 1 false 0x20FFF8 8 = .ok [part (onPage.check .store 1 false 0x20FFF8 8)] ∧
    (part (onPage.check .store 1 false 0x20FFF8 8)).hit.loc = .phys (pageKey + 0xFFF8) ∧
    (part (onPage.check .store 1 false 0x20FFF8 8)).hit.remote = false ∧
    (part (onPage.check .store 1 false 0x20FFF8 8)).hit.irr = false ∧
    (part (onPage.check .store 1 false 0x20FFF8 8)).hit.cls.isSome = true ∧
    (part (onPage.check .store 1 false 0x20FFF8 8)).hit.committed = true ∧
    onPage.logStall [part (onPage.check .store 1 false 0x20FFF8 8)] = false ∧
    onPage.dev.carved ((pageKey + 0xFFF8) / 64) = false ∧ onPage.dev.tag ((pageKey + 0xFFF8) / 64) ≠ onPage.dev.rin.setWidth 8 ∧ onPage.dev.owns (linePeer ((pageKey + 0xFFF8) / 64)) = true := by
  decide +kernel
/-- R2, R213, R408: four bytes, low byte first, one undo entry, and the byte after them unchanged. -/
theorem test_store_bytes : let s := with_ (with_ onPage 2 0x200000) 5 0x1122334455667788
    let t := after (.st 2 2 5 (.imm 4)) s
    [t.dev.mem.get (pageKey + 3), t.dev.mem.get (pageKey + 4), t.dev.mem.get (pageKey + 7), t.dev.mem.get (pageKey + 8)] =
      [0, 0x88, 0x55, 0] ∧ (t.dev.die 0).undo.length = 1 ∧ t.dev.tag (pageKey / 64) = 0 := by decide +kernel
theorem test_meets_ObjectStores : let ea : Word := 0x01000000001FFFF8
    onA.check .store 1 false ea 8 = .ok [part (onA.check .store 1 false ea 8)] ∧
    (part (onA.check .store 1 false ea 8)).hit.loc = .own 0 0x1FFFF8 ∧ (part (onA.check .store 1 false ea 8)).hit.irr = false ∧
    (part (onA.check .store 1 false ea 8)).hit.cls = none ∧ onA.cur.ls.wf = true ∧ onA.cur.gr.wf = true := by decide +kernel

/-- A card of the tl queue that reads 256 bytes of LS from 0 and writes 256 from 0x1000. -/
def cardOne : Card :=
  { kind := 3, fa := 3, fb := 0, im := 0, ui := 0, nbv := 0, nest := Vector.replicate 6 0, started := false, ord := 1
    regions := #v[{ base := 0x0100000000000000, len := 256 }, { base := 0, len := 0 }, { base := 0, len := 0 }, { base := 0, len := 0 },
                  { base := 0x0100000000001000, len := 256 }, { base := 0, len := 0 }]
    params := [], operand := 0, row := 0, col := 0, phase := .queued, flags := 0, arrived := false, leaseV := 0, leaseP := 0
    stamp := 1, target := none, hold := 0, claims := [], overrun := false }
/-- A strand with cards in its tl queue. -/
def thq_ (s : State) (q : List Card) : State := cur_ s fun k => k.withThq q
/-- The last byte of a write region is in it and the next is not; a read region bars stores alone. -/
theorem test_meets_AccessStalls : let s := thq_ onA [cardOne]
    s.who = .a ∧ s.me.reply = none ∧ s.cur.spec = none ∧ s.cur.ld < 65535 ∧ s.cur.st < 65535 ∧
    s.cur.jobStall .load 0x01000000000010FF 1 = true ∧ s.cur.jobStall .load 0x0100000000001100 1 = false ∧
    s.cur.jobStall .load 0x01000000000000FF 1 = false ∧ s.cur.jobStall .store 0x01000000000000FF 1 = true ∧
    s.check .load 1 false 0x01000000000010FF 1 = .ok [part (s.check .load 1 false 0x01000000000010FF 1)] ∧
    s.check .store 1 false 0x01000000000000FF 1 = .ok [part (s.check .store 1 false 0x01000000000000FF 1)] ∧
    65535 ≤ (cur_ s fun k => { k with ld := 65535, st := 65535 }).cur.ld := by decide +kernel
theorem test_footprint_stalls : (after (.ld 0 0 2 7 (.imm 0)) (with_ (thq_ onA [cardOne]) 2 0x01000000000010FF)).me.stall = 6 := by
  decide +kernel
/-- A full undo log: a line that has no entry yet is kept waiting (R417). -/
theorem test_meets_AccessStalls_log : let s := onPage.setDev (onPage.dev.onDie 0 fun x => { x with win := { x.win with undoCap := 0 } })
    s.logStall [part (s.check .store 1 false 0x200000 8)] = true ∧
    (after (.st 3 2 5 (.imm 0)) (with_ s 2 0x200000)).me.stall = 7 := by decide +kernel
/-- An STQ of 64 bytes from a place on, none of which is performed yet, on pages of the ordering kinds given. -/
def stqAt (base : Word) (kinds : List Nat) : QStream :=
  { store := true, sext := false, sz := 0, base := base, shape := 0x10000, queue := 2, entry := 0, elem := 0, held := none, replies := []
    kinds := kinds, iaddr := 0, tl := 0, cp := 0 }
/-- A load and a store of bytes 63 and 64 of an unfinished STQ's range: the first stalls; and the same on pages on which Table 4-7
keeps them behind it. -/
theorem test_meets_AccessStalls_elements : let s := cur_ onPage fun k => { k with qstreams := [stqAt 0x200100 [0]] }
    let c (kind : AccKind) := s.check kind 1 false 0x200140 1
    s.elementStall 0x20013F 1 = true ∧ s.elementStall 0x200140 1 = false ∧ s.cur.jobStall .load 0x200140 1 = false ∧
    c .load = .ok [part (c .load)] ∧ (part (c .store)).hit.pkind = 1 ∧ s.kept .load [part (c .load)] = false ∧
    (stqAt 0x200100 [0]).keeps .store (part (c .store)).hit = true ∧ s.logStall [part (c .store)] = false ∧
    s.kept .load [{ part (c .load) with hit := { (part (c .load)).hit with pkind := 0 } }] = true := by decide +kernel
theorem test_meets_AccessStalls_elements_commit : let s := cur_ onPage fun k => { k with qstreams := [stqAt 0x200100 [0]] }
    s.check .store 1 false 0x200140 1 = .ok [part (s.check .store 1 false 0x200140 1)] ∧
    s.commitAll 0x200140 1 [part (s.check .store 1 false 0x200140 1)] = .done s := ⟨by decide +kernel, rfl⟩
theorem test_store_behind_stream : let s := with_ (cur_ onPage fun k => { k with qstreams := [stqAt 0x200100 [0]] }) 2 0x200140
    let t := after (.st 0 2 5 (.imm 0)) s
    t.cur.st = 1 ∧ (t.cur.qstreams.map (·.plain)) = [false, true] ∧ t.dev.mem.get (pageKey + 0x140) = 0 ∧ t.me.stall = 0 := by
  decide +kernel
/-- A load on an SO page behind an STQ of an SO page that it does not overlap, and behind a remote store that it does. -/
theorem test_meets_AccessStalls_kept : let u := page_ onA 0x2F
    let s := cur_ u fun k => { k with qstreams := [stqAt 0x200100 [0]] }
    s.check .load 1 false 0x200140 1 = .ok [part (s.check .load 1 false 0x200140 1)] ∧ s.elementStall 0x200140 1 = false ∧
    s.kept .load [part (s.check .load 1 false 0x200140 1)] = true ∧ (after (.ld 0 0 2 7 (.imm 0)) (with_ s 2 0x200140)).rd 7 = 0 ∧
    s.cur.jobStall .load 0x200140 1 = false ∧ s.cur.ld < 65535 := by decide +kernel
/-- A page of the tables whose unit is not committed, with a commit map that shows it and a full undo log. -/
noncomputable def onFresh : State :=
  let s := tables_ onA 0x300 |> fun s => tables_ s 0x3000AF
  let m := (((s.dev.mem.put 8 (natLe 8 0x20001)).put 0x20000 (natLe 8 0x22001)).put 0x22000 (natLe 8 0x24001)).put 0x24000 (natLe 8 0x26001)
  { s with dev := { s.dev with mem := m } }
/-- Whether a commit finds the undo log full. -/
def isFull (c : Commit) : Bool :=
  match c with
  | .full => true
  | _ => false
theorem eq_full {c : Commit} (h : isFull c = true) : c = .full := by cases c <;> simp_all [isFull]
theorem test_meets_AccessStalls_commit : let s := onFresh.setDev (onFresh.dev.onDie 0 fun x => { x with win := { x.win with undoCap := 0 } })
    let c := s.check .store 1 false 0x800000 8
    c = .ok [part c] ∧ (part c).hit.committed = false ∧ isFull (s.commitAll 0x800000 1 [part c]) = true ∧ s.cur.st < 65535 ∧
    (after (.st 3 2 5 (.imm 0)) (with_ s 2 0x800000)).me.stall = 7 ∧ (after (.stq 0 3 2 2) (with_ (with_ s 2 0x800000) 3 0x10000)).me.stall = 7 := by
  decide +kernel
/-- The STQ of that page: every element passes, the commit finds the log full; and one past its end, whose element fails. -/
theorem test_meets_QueueStreamsIssued_full : let s := onFresh.setDev (onFresh.dev.onDie 0 fun x => { x with win := { x.win with undoCap := 0 } })
    let es (a : Word) := (List.range 1).flatMap fun e => (List.range 64).map fun i => (stqAt a []).addr e i
    s.checkElems .store 1 (es 0x800000) = (none, false) ∧ isFull (s.commitElems 1 (es 0x800000)) = true ∧
    s.checkElems .store 1 (es 0x80FFFF) = (some (0x04, 0x810000), false) := by decide +kernel
/-- The next element of an STQ at a full undo log: the access stream stalls as kind 7. -/
theorem test_meets_StepRunsDecoded_elementFull :
    let s := cur_ (onPage.setQueue 2 { occ := 1, head := 31, tail := 0, slots := [(31, 7)] }) fun k => { k with qstreams := [stqAt 0x200100 [1]] }
    let u := s.setDev (s.dev.onDie 0 fun x => { x with win := { x.win with undoCap := 0 } })
    s.elementFull = false ∧ u.elementFull = true ∧ u.turn = .stream .a ∧ u.mayRun = true ∧ (stepped u).cur.acc.stall = 7 := by
  decide +kernel
theorem quiet_onFresh : Quiet onFresh := by constructor <;> decide +kernel
theorem test_meets_FootprintOverlap : ([cardOne] : List Card) ≠ [] ∧ cardsStall [cardOne] .store 0x01000000000000FF 1 = true := by
  decide +kernel
theorem test_meets_OrderedAccesses : onPage.check .load 8 false 0x200008 8 = .ok [part (onPage.check .load 8 false 0x200008 8)] ∧
    onPage.check .release 8 false 0x200008 8 = .ok [part (onPage.check .release 8 false 0x200008 8)] ∧
    onPage.logStall [part (onPage.check .release 8 false 0x200008 8)] = false ∧ onPage.privileged 0x200004 = false ∧ onPage.systemOnly 0x200004 8 = none ∧
    (0x200004 : Word).toNat % 8 ≠ 0 ∧ onPage.cur.ld = 0 ∧ onPage.cur.st = 0 ∧
    (cur_ onPage fun k => { k with st := 1 }).cur.st ≠ 0 := by decide +kernel
/-- One entry of 64 bytes from LS 0, as LDQ and STQ take it (SZ 00, 64 elements 1 apart). -/
noncomputable def onLdq : State := with_ (with_ onA 2 0x0100000000000000) 3 0x0000000000010000
theorem test_meets_QueueStreamsIssued : let st : QStream :=
      { store := false, sext := false, sz := 0, base := onLdq.rd 2, shape := onLdq.rd 3, queue := 0, entry := 0, elem := 0, held := none
        replies := [], kinds := [], iaddr := onLdq.me.pc, tl := 0, cp := 0 }
    let es := (List.range ((onLdq.rd 3).toNat % 65536 + 1)).flatMap fun e => (List.range 64).map fun i => st.addr e i
    onLdq.checkElems .load 1 es = (none, false) ∧ onLdq.checkElems .store 1 es = (none, false) ∧
    onLdq.commitElems 1 es = .done onLdq ∧
    (with_ onLdq 2 0x01000000001FFFFF).checkElems .load 1 (es.map fun a => a + 0x1FFFFF) = (some (0x04, 0x0100000000200000), false) :=
  ⟨by decide +kernel, by decide +kernel, rfl, by decide +kernel⟩
theorem quiet_onLdq : Quiet onLdq := by constructor <;> decide +kernel
/-- The same stream as it stands after its issue, with bytes 5, 5, ... in LS. -/
noncomputable def onStream : State := cur_ (after (.ldq 0 0 3 2 0) onLdq) fun k => { k with ls := k.ls.put 0 (List.replicate 64 5) }
/-- No queue stream. -/
def noStream : QStream :=
  { store := false, sext := false, sz := 0, base := 0, shape := 0, queue := 9, entry := 0, elem := 0, held := none, replies := []
    kinds := [], iaddr := 0, tl := 0, cp := 0 }
theorem test_meets_QueueStreamLoads : let q : QStream := onStream.cur.qstreams.headD noStream
    onStream.cur.resident = true ∧ onStream.cur.qstreams = [q] ∧ q.store = false ∧ q.replies = [] ∧ q.queue = 0 ∧
    onStream.queue 0 = Queue.none ∧ (onStream.queue 0).occ < queueDepth 0 ∧
    onStream.cur.parked = false ∧ onStream.cur.cards = [] ∧ onStream.myDie.requests = [] ∧
    (let pss := (List.range q.lanes).map fun i => parts (onStream.check .load 1 false (q.addr q.entry i) q.width)
     pss.length = q.lanes ∧ (∀ i < 64, onStream.check .load 1 false (q.addr q.entry i) q.width = .ok (pss.getD i [])) ∧
     (∀ ps ∈ pss, (∀ p ∈ ps, p.hit.remote = false) ∧ onStream.poisonIn ps = [] ∧ leNat (onStream.loadBytes ps) = 5)) ∧
    q.lanes = 64 ∧ q.count ≤ q.entry + 1 := by decide +kernel
theorem test_ldq_entry : let t := after (.ldqEntryPush 0) onStream
    (t.queue 0).occ = 1 ∧ t.cur.qstreams = [] ∧ t.cur.ld = 0 ∧ laneOf ((t.queue 0).front) 63 = 5 := by decide +kernel
/-- An STQ of one entry to the page, with that entry in queue 2. -/
noncomputable def onStq : State :=
  let s := with_ (with_ onPage 2 0x20FFC0) 3 0x0000000000010000
  after (.stq 0 3 2 2) (s.setQueue 2 { occ := 1, head := 31, tail := 0, slots := [(31, 0x0706)] })
theorem test_meets_QueueStreamStores : let q : QStream := onStq.cur.qstreams.headD noStream
    let c := onStq.check .store 1 false (q.addr q.entry q.elem) q.width
    onStq.cur.resident = true ∧ onStq.cur.parked = false ∧ onStq.cur.spec = none ∧ onStq.cur.qstreams = [q] ∧ q.store = true ∧ q.queue = 2 ∧
    q.entry < q.count ∧ q.elem < q.lanes ∧ onStq.cur.cards = [] ∧ onStq.myDie.requests = [] ∧ onStq.dev.mem.wf = true ∧
    c = .ok [part c] ∧ (part c).start = 0 ∧ (part c).len = q.width ∧ (part c).hit.loc = .phys (pageKey + 0xFFC0) ∧
    onStq.logStall [part c] = false ∧ q.held = none ∧
    ((onStq.queue 2).entries (queueDepth 2)).head? = some 0x0706 := by decide +kernel
theorem test_stq_element : let t := after (.stqElementStore 0) onStq
    t.dev.mem.get (pageKey + 0xFFC0) = 6 ∧ t.dev.mem.get (pageKey + 0xFFC1) = 0 ∧ (t.queue 2).occ = 0 ∧
    (t.cur.qstreams.map fun q => (q.elem, q.held)) = [(1, some 0x0706)] := by decide +kernel

/-! ### Witnesses: atomics, barriers, rings, seals -/

/-- Bytes in the strand's own granary. -/
def gran_ (s : State) (off : Nat) (bs : List Byte) : State := cur_ s fun k => { k with gr := k.gr.put off bs }
/-- s2 holds the address of a place in the own granary. -/
noncomputable def onGran (off : Nat) : State := with_ onA 2 (0x0200000000000000 + BitVec.ofNat 64 off)
theorem quiet_onGran : Quiet (onGran 0x100) := by constructor <;> decide +kernel
/-- The last 64-bit object of the granary, and the checks that fail beside it. -/
theorem test_meets_Atomics : let s := onGran 0x7FFF8
    let c := s.check .atomic 8 true (s.rd 2) 8
    c = .ok [part c] ∧ (part c).hit.remote = false ∧ s.isArming (part c).hit.loc = false ∧ (part c).hit.loc = .own 1 0x7FFF8 := by
  decide +kernel
theorem test_meets_AtomicFaults : (onGran 0x7FFFC).check .atomic 8 true ((onGran 0x7FFFC).rd 2) 8 =
      .fault 0x03 ((onGran 0x7FFFC).rd 2) ∧
    (onGran 0x80000).check .atomic 16 true ((onGran 0x80000).rd 2) 16 = .fault 0x04 ((onGran 0x80000).rd 2) ∧
    onPage.check .atomic 64 true 0x200000 64 = .fault 0x05 0x200000 := by decide +kernel
/-- Table 9-3: a bounded add of 2 to 7 under the bound 8 is refused: bit 63 and the old value; the object keeps 7. -/
theorem test_gbfadd_refused : let s := with_ (gran_ (onGran 0x100) 0x100 (natLe 4 7)) 5 0x0000000800000002
    let t := after (.gbfadd 0 0 5 2 6) s
    t.rd 6 = 2 ^ 63 + 7 ∧ t.cur.gr.nat 0x100 4 = 7 ∧ (after (.gbfadd 0 0 5 2 6) (with_ s 5 0x0000000900000002)).cur.gr.nat 0x100 4 = 9 := by
  decide +kernel
theorem test_gincw_wraps : let s := with_ (gran_ (onGran 0x100) 0x100 (natLe 4 7)) 5 7
    (after (.gincw 0 0 0 5 2 6) s).cur.gr.nat 0x100 4 = 0 ∧ (after (.gincw 0 0 0 5 2 6) (with_ s 5 8)).cur.gr.nat 0x100 4 = 8 := by
  decide +kernel
theorem test_meets_Atomics128 : let s := onGran 0x7FFF0
    let c := s.check .atomic 16 true (s.rd 2) 16
    c = .ok [part c] ∧ (part c).hit.remote = false ∧ (4 : Reg).toNat % 2 = 0 ∧ (6 : Reg).toNat % 2 = 0 := by decide +kernel

/-- A barrier object: ARR, EXP, PH. -/
def barOf (arr exp : Nat) (ph : Nat) : Bar := BitVec.ofNat 128 (arr + exp * 2 ^ 32 + ph * 2 ^ 64)
/-- R230: arrivals below, at and above EXP, none, and a bad object. -/
theorem test_meets_BarrierArrival : let x := barOf 2 4 15
    ¬(x.exp = 0 ∨ x.extractLsb' 70 10 ≠ 0) ∧ x.arr.toNat + (1 : BitVec 32).toNat < x.exp.toNat ∧
    x.arr.toNat + (2 : BitVec 32).toNat = x.exp.toNat ∧ x.exp.toNat < x.arr.toNat + (3 : BitVec 32).toNat ∧
    (barOf 0 0 0).exp = 0 := by decide +kernel
/-- A completed phase wraps the 4-bit PH. -/
theorem test_phase_wraps : ((barOf 2 4 15).arrive 2 0).1.ph = 0 ∧ ((barOf 2 4 15).arrive 2 0).2 = (1, true) := by decide +kernel
/-- A barrier of two arrivals at granary 0x100. -/
noncomputable def onBar : State := gran_ (onGran 0x100) 0x100 (natLe 16 (barOf 1 2 3).toNat)
theorem quiet_onBar : Quiet onBar := by constructor <;> decide +kernel
theorem test_meets_Barriers : let c := onBar.check .atomic 16 true (onBar.rd 2) 16
    let x : Bar := BitVec.ofNat 128 (leNat (onBar.getBytes (part c).hit.loc 16))
    c = .ok [part c] ∧ (part c).hit.remote = false ∧ (6 : Reg).toNat % 2 = 0 ∧ x = barOf 1 2 3 ∧ (x.arrive 1 0).2.2 = true ∧
    (x.arrive 0 0).2.2 = false ∧ x.ph = (3 : Word).extractLsb' 0 4 ∧ x.ph ≠ (2 : Word).extractLsb' 0 4 ∧ x.waiters.toNat < 65535 := by
  decide +kernel
/-- A waiting BARWAIT counts itself, and returns with ST 3 once it is released. -/
theorem test_barwait_waits_and_returns : let t := after (.barwait 0 5 2 6) (with_ onBar 5 3)
    t.me.stall = 9 ∧ t.cur.ld = 1 ∧ (t.barAt (.own 1 0x100)).waiters = 1 ∧
    (let u := t.releaseBar (.own 1 0x100)
     let v := after (.barwait 0 5 2 6) u
     v.me.barwait = none ∧ v.cur.ld = 0 ∧ (v.barAt (.own 1 0x100)).waiters = 0 ∧ (v.rd 7).extractLsb' 6 4 = 3) := by decide +kernel
theorem test_meets_BarrierWaitEnds : let w : BarWait := { loc := (0, 0), counted := true, released := true, expired := false, bound := 1 }
    let s := me_ onBar fun x => { x with barwait := some w }
    s.who = .a ∧ s.cur.spec = none ∧ s.cur.cards = [] ∧ s.cur.qstreams = [] ∧ s.myDie.lines = [] ∧ s.me.reply = none ∧
    s.me.barwait = some w ∧ s.check .atomic 16 true (s.rd 2) 16 = .ok [part (s.check .atomic 16 true (s.rd 2) 16)] ∧
    w.bound = 1 ∧ ({ w with released := false, counted := false } : BarWait).counted = false := by decide +kernel

/-- A sound ring of 64 bytes: its block at granary 0x100, its buffer on the page, HEAD = TAIL = RESV = n. -/
def ringOf (n : Nat) (ctl : Nat) : Rcb := newRcb 0x200000 64 ctl (ownWord 0 0 0 0) 0 |> fun r => { r with head := n, tail := n, resv := n }
noncomputable def onRing (r : Rcb) : State := gran_ (with_ onPage 2 0x0200000000000100) 0x100 r.bytes
theorem quiet_onRing : Quiet (onRing (ringOf 0 0)) := by constructor <;> decide +kernel
theorem test_meets_RingRefusals : let s := onRing (ringOf 0 4)
    let c := s.check .atomic 64 true (s.rd 2) 64
    c = .ok [part c] ∧ (part c).hit.remote = false ∧ (s.rcbAt (part c).hit.loc) = ringOf 0 4 ∧ (ringOf 0 4).bad = false ∧
    (ringOf 0 7).bad = true ∧ s.insideRing (ringOf 0 0) = true ∧
    s.insideRing { ringOf 0 0 with own := ownWord 0 1 0 0 } = false ∧ (ringOf 0 (8 + 9 * 256)).mbx = true ∧
    s.cur.id.tid ≠ (ringOf 0 (8 + 9 * 256)).ptid ∧ s.cur.id.tid ≠ (ringOf 0 (8 + 9 * 65536)).ctid ∧ s.cur.srt = false ∧
    (cur_ (sys_ s) fun k => { k with srt := true }).cur.srt = true := by decide +kernel
/-- The largest values of a block's fields. -/
theorem test_meets_RingBlock : let r : Rcb := { head := 2 ^ 64 - 1, tail := 2 ^ 64 - 1, resv := 2 ^ 64 - 1, sks := 2 ^ 64 - 1, buf := -1
                                                cap := 2 ^ 32 - 1, ctl := -1, own := -1, ntf := -1 }
    r.head < 2 ^ 64 ∧ r.tail < 2 ^ 64 ∧ r.resv < 2 ^ 64 ∧ r.sks < 2 ^ 64 ∧ r.cap < 2 ^ 32 ∧ Rcb.ofBytes r.bytes = r := by decide +kernel
/-- An empty ring, a record one byte too large for it, and a reserved TYPE. -/
theorem test_meets_RingOperations : let s := onRing (ringOf 8 0)
    let r := ringOf 8 0
    s.insideRing r = true ∧ r.mbx = false ∧ s.dev.tents = [] ∧ s.dev.eosWait = [] ∧ r.tail = r.head ∧
    r.cap < 8 + 8 * ((57 + 7) / 8) ∧ ¬r.cap < 8 + 8 * ((56 + 7) / 8) ∧ 0xFFEF < (0xFFF000000008 : Word).toNat / 2 ^ 32 % 65536 := by
  decide +kernel
/-- A record of 16 bytes reserved at offset 48, published, read and taken: the positions and values of R239 and R242. -/
theorem test_ring_round : let s := with_ (onRing (ringOf 48 0)) 3 0x0000000500000008
    let s1 := after (.rresv 4 2 3) s
    let s2 := after (.rpub 5 2 4) (with_ s1 4 (s1.rd 4))
    let s3 := after (.rpeek 6 2) s2
    let s4 := after (.rpop 7 2) s3
    s1.rd 4 = 0x200038 ∧ (s1.rcbAt (.own 1 0x100)).resv = 64 ∧ (s1.rcbAt (.own 1 0x100)).tail = 48 ∧
    s1.dev.mem.nat (pageKey + 48) 8 = 0x0000000500000008 ∧ s2.rd 5 = 0 ∧ (s2.rcbAt (.own 1 0x100)).tail = 64 ∧ s3.rd 6 = 0x200038 ∧
    s4.rd 7 = 0 ∧ (s4.rcbAt (.own 1 0x100)).head = 64 ∧ (after (.rpop 7 2) s4).rd 7 = 1 := by decide +kernel
/-- The conditions under which a record fits without a skip, at the last place where it does. -/
theorem test_meets_RingProduce : let s := with_ (onRing (ringOf 48 0)) 3 0x0000000500000008
    let c := s.check .atomic 64 true (s.rd 2) 64
    let s1 := s.fillAll (s.rd 2) [part c]
    let q := s1.check .store 1 false (0x200000 + 48) 16
    s.dev.mem.wf = true ∧ (part c).hit.loc = .own 1 0x100 ∧ s.cur.gr.wf = true ∧ (ringOf 48 0).bad = false ∧
    (ringOf 48 0).resv % 64 + 16 ≤ 64 ∧ q = .ok [part q] ∧ (part q).hit.loc = .phys (pageKey + 48) ∧ (part q).hit.remote = false ∧
    (part q).hit.irr = false ∧ (part q).hit.cls.isSome = true ∧ (part q).hit.committed = true ∧ s1.logStall [part q] = false ∧
    s1.check .load 1 false 0x200100 8 = .ok [part (s1.check .load 1 false 0x200100 8)] := by decide +kernel
theorem test_wenq_writes : let s := with_ (with_ (onRing (ringOf 48 0)) 3 0x0000000500000008) 4 0x200100
    let u := s.setDev { s.dev with mem := s.dev.mem.put (pageKey + 0x100) (natLe 8 0x1122334455667788) }
    let t := after (.wenq 3 2 4) u
    t.rd 3 = 0 ∧ (t.rcbAt (.own 1 0x100)).tail = 64 ∧ t.dev.mem.nat (pageKey + 56) 8 = 0x1122334455667788 := by decide +kernel
/-- A mailbox of the strand's own tent, at granary 0x100: the word at its offset 0x38 arms it. -/
noncomputable def onMailbox : State := with_ (onRing (ringOf 0 8)) 2 0x0200000000000138
theorem quiet_onMailbox : Quiet onMailbox := by constructor <;> decide +kernel
theorem test_meets_MailboxArming : let c := onMailbox.check .atomic 8 true (onMailbox.rd 2) 8
    c = .ok [part c] ∧ (part c).hit.remote = false ∧ onMailbox.isArming (part c).hit.loc = true ∧
    onMailbox.getByte ((part c).hit.loc.back 0xA) = onMailbox.cur.id.tid ∧ (onMailbox.rd 2).toNat % 8 = 0 ∧
    onMailbox.group 0 7 = none := by decide +kernel
/-- R318: armed with KIND 01, tile 5: bits [8:0] of the operand and the strand's name; for another tent the arming is denied. -/
theorem test_arming : let t := after (.gswap 0 0 1 5 2 6) (with_ (cur_ onMailbox fun k => { k with id := { k.id with stag := 9 } }) 5 0xFF15)
    t.cur.gr.nat 0x138 8 = 0x115 + 9 * 2 ^ 16 ∧
    ((after (.gswap 0 0 1 5 2 6) (onMailbox.setByte (.own 1 0x12E) 4)).cur.faults.map fun r => (r.cause, r.detail)) = [(5, 2)] := by
  decide +kernel
/-- A group table with group 7 of one member, 8 bytes at DRAM 0x4000, as ASTBASE 0 gives it for address space 0. -/
noncomputable def onGroup : State :=
  onPage.setDev { onPage.dev with mem := ((onPage.dev.mem.put 16 (natLe 8 0x2001)).put 0x2700 (natLe 8 (5 + 8 * 2 ^ 32))).put 0x2740
                                    (natLe 8 0x4000) }
theorem quiet_onGroup : Quiet onGroup := by constructor <;> decide +kernel
theorem test_meets_Groups : onGroup.group 0 7 = some ([(0, 0x4000)], 8, false) ∧ (0 : Word).toNat + 8 ≤ 8 ∧ 8 < (8 : Word).toNat + 8 := by
  decide +kernel
theorem test_mstore_sends : let t := after (.mstore 4 2 3) (with_ (with_ onGroup 4 7) 3 0x77)
    (t.myDie.requests.map fun r => (r.kind, r.bytes, r.members, r.bitmap)) = [(3, natLe 8 0x77, [(0, 0x4000)], 1)] ∧ t.cur.ld = 1 := by decide +kernel
/-- An irrevocable page and a plain one, for SEALW. -/
theorem test_meets_SealInstructions : let s := page_ onA 0xEF
    let c := s.check .store 8 false 0x200008 8
    s.dev.sealw = [] ∧ c = .ok [part c] ∧ (part c).hit.irr = true ∧ (∃ t, s.commitAll 0x200008 1 [part c] = .done t) ∧
    (part (onPage.check .store 8 false 0x200008 8)).hit.irr = false :=
  ⟨by decide +kernel, by decide +kernel, by decide +kernel, ⟨page_ onA 0xEF, rfl⟩, by decide +kernel⟩
theorem test_seal_requests : (after (.seal 4) onA).dev.sealReq = true ∧ (after (.seal 4) onA).rd 4 = 0 := by decide +kernel

/-! ### Witnesses: vector instructions -/

/-- A vector register of the issuing strand, its lane 0 and lane 63 given. -/
def vec_ (s : State) (n : VName) (lo hi : Lane) : State := cur_ s fun k => k.setV n (lo.setWidth 2048 ||| hi.setWidth 2048 <<< 2016)
/-- Nothing is leased, with guard alias 1 bound to the complement of p1; then a card leases vector register 8. -/
theorem test_meets_VectorInstructions : onX.who = .x ∧ onX.cur.leaseHit 1 [8, 32, 63] [95] = false ∧
    onX.cur.leaseHit 0 [] [1, 2, 3] = false ∧
    (cur_ onX fun k => { k with jobs := { k.jobs with cpq := [{ cardOne with leaseV := 0x100 }] } }).cur.leaseHit 0 [0, 8, 1] [] = true := by decide +kernel
theorem test_vadd_wraps_and_guards : let s := vec_ (vec_ onX 8 0xFFFFFFFF 0x7FFFFFFF) 9 2 1
    let t := after (.vadd 0 10 8 9) s
    let u := after (.vadd 1 10 8 9) (cur_ s fun k => { k with gmap := k.gmap.set 1 1, p := k.p.set 1 1 })
    t.lane 10 0 = 1 ∧ t.lane 10 63 = 0x80000000 ∧ t.lane 10 1 = 0 ∧ u.lane 10 0 = 1 ∧ u.lane 10 63 = 0 := by decide +kernel
/-- R255: a division by 0 gives all ones, and of the most negative number by −1 itself. -/
theorem test_vdiv : let s := vec_ (vec_ onX 8 7 0x80000000) 9 0 0xFFFFFFFF
    (after (.vdiv 0 10 8 9) s).lane 10 0 = 0xFFFFFFFF ∧ (after (.vdiv 0 10 8 9) s).lane 10 63 = 0x80000000 ∧
    (after (.vrem 0 10 8 9) s).lane 10 0 = 7 ∧ (after (.vrem 0 10 8 9) s).lane 10 63 = 0 := by decide +kernel
/-- FP32: 1 + 2^−24 is inexact and rounds to 1; 1/0 is an infinity with DZ (R122). -/
theorem test_vfp_flags : let s := vec_ (vec_ onX 8 0x3F800000 0x3F800000) 9 0x33800000 0
    (after (.vfadd 0 10 8 9) s).lane 10 0 = 0x3F800000 ∧ (after (.vfadd 0 10 8 9) s).cur.fflags = 1 ∧
    (after (.vfaddRm 3 0 10 8 9) s).lane 10 0 = 0x3F800001 ∧ (after (.vfdiv 0 10 8 9) s).lane 10 63 = 0x7F800000 := by decide +kernel
/-- Part 0 of 32-bit elements is one whole register, part 1 is past it; part 1 of 16-bit elements fits. -/
theorem test_meets_Convert : (64 * 0 + 64) * formatWidth 14 ≤ 2048 ∧ (64 * 1 + 64) * formatWidth 12 ≤ 2048 ∧
    onX.cur.leaseHit 0 [8, 9] [] = false := by decide +kernel
theorem test_vcvt_pk : let s := vec_ onX 9 0x40000000 0x3F800000
    let t := after (.vcvtPk 13 14 0 0 1 10 9) s
    (t.cur.vreg 10).extractLsb' 1024 16 = 0x4000 ∧ (t.cur.vreg 10).extractLsb' 2032 16 = 0x3C00 ∧
    (t.cur.vreg 10).extractLsb' 0 1024 = 0 := by decide +kernel
theorem test_meets_VectorCompare : fp32 ∈ [fp32, fp16, bf16] ∧ fp32.decode 0x80000000 ≠ .nan ∧ 0xFF7FFFFF < 2 ^ fp32.width ∧
    (fp32.decode 0xFF7FFFFF).val = some (-(16777215 * 2 ^ 104 : Rat)) ∧ (fp32.decode 1).val = some (1 / 2 ^ 149 : Rat) ∧
    fp32.key 0xFF7FFFFF < fp32.key 1 := by decide +kernel
theorem test_meets_VectorPermute : (63 : BitVec 6).toNat ≤ 63 ∧ ¬(63 : BitVec 6).toNat ≤ 62 ∧ 0 + (63 : BitVec 6).toNat < 64 := by decide
theorem test_vredadd : let s := vec_ (vec_ onX 8 5 6) 9 100 0
    (after (.vredadd 0 10 8 9) s).lane 10 40 = 111 ∧ (after (.vshdn 63 0 10 8 9) s).lane 10 0 = 6 ∧
    (after (.vshdn 63 0 10 8 9) s).lane 10 1 = 100 := by decide +kernel

/-- A tile changed to a state. -/
def tile_ (s : State) (n : Nat) (st : TileState) : State := s.setTile n { s.tile n with st := st }
/-- The vector queues of X at the wrap of their rings, empty and full; every state of a tile; a loop at its last pass and
before; a branch to the block start. -/
theorem test_meets_QueuesTilesAndLoops : let s := onX.setQueue 0 { occ := 1, head := 31, tail := 0, slots := [(31, 7)] }
    (0 : BitVec 6).toNat < 13 ∧ queueDepth 0 = 32 ∧ (s.queue 0).entries 32 = 7 :: [] ∧ (onX.queue 0).occ = 0 ∧
    (onX.queue 2).occ < queueDepth 2 ∧ queueDepth 2 ≤ ({ qOne with occ := 32 } : Queue).occ ∧
    (tile_ onX 15 .full).tile 15 = { onX.tile 15 with st := .full } ∧ (onX.tile 15).st = .empty ∧ (onX.tile 15).data.wf = true ∧
    ((tile_ onX 15 (.claimed 0)).tile 15).st = .claimed 0 ∧ ((tile_ onX 15 (.claimed 1)).tile 15).st = .claimed 1 ∧
    (with_ onX 3 1).rd 3 = 1 ∧ onX.rd 3 ≠ 1 ∧ onX.cur.spec = none ∧
    onX.transferWaits (wrap ((onX.me.hdr.toNat : Int) + (Off11.off 0).int * 4) 64) = false ∧
    onX.transferWaits (wrap ((onX.me.hdr.toNat : Int) + (Off11.off 1).int * 4) 64) = false ∧
    onX.transferFault onX.who (wrap ((onX.me.hdr.toNat : Int) + (Off11.off 0).int * 4) 64) false = none ∧
    onX.transferFault onX.who (wrap ((onX.me.hdr.toNat : Int) + (Off11.off 1).int * 4) 64) false = some (0x01, 0, 0) ∧
    (bqOne.entries 64).head?.map (·.getLsbD 0) = some true ∧
    (({ bqOne with slots := [] } : Queue).entries 64).head?.map (·.getLsbD 0) = some false ∧
    ((onX.setQueue 12 bqOne).queue 12) = bqOne ∧ (onX.queue 12).occ = 0 := by decide +kernel
/-- The same branch to a page that migrates. -/
theorem test_meets_QueuesTilesAndLoops_wait : let s := me_ ((moving_ onX).setQueue 12 bqOne) fun x => { x with hdr := 0x800000 }
    s.transferWaits (wrap ((s.me.hdr.toNat : Int) + (Off11.off 0).int * 4) 64) = true ∧ s.rd 3 ≠ 1 ∧ (s.queue 12) = bqOne ∧
    (after (.brc 3 (.off 0)) s).rd 3 = 0 ∧ (after (.brc 3 (.off 0)) s).me.pc = s.me.pc ∧ (after (.brcQ (.off 0)) s).queue 12 = bqOne := by
  decide +kernel
theorem ok_queueTwoEmpty : Queue.Ok (onX.queue 2) 32 := by constructor <;> decide +kernel
theorem ok_qVec : Queue.Ok { occ := 1, head := 31, tail := 0, slots := [(31, 7)] } 32 := by constructor <;> decide +kernel
theorem ok_bqZero : Queue.Ok { bqOne with slots := [] } 64 := by constructor <;> decide +kernel
theorem test_brc : let t := after (.brc 3 (.off 0)) (with_ onX 3 2)
    let u := after (.brc 3 (.off 0)) (with_ onX 3 1)
    t.rd 3 = 1 ∧ t.me.pc = fetchBase ∧ t.cur.vrb = 31 ∧ t.cur.prb = 63 ∧ u.rd 3 = 0 ∧ u.me.pc = fetchBase + 8 ∧ u.cur.vrb = 31 := by
  decide +kernel
theorem test_tile_claim : let t := after (.twrow 0 8 3 15) (vec_ (with_ onX 3 63) 8 0x04030201 9)
    (t.tile 15).st = .claimed 0 ∧ laneOf ((t.tile 15).row 63) 0 = 0x04030201 ∧ (after (.trow 0 9 3 15) t).me.stall = 3 ∧
    (after (.trow 0 9 3 15) (after (.tfill 15) t)).lane 9 63 = 9 := by decide +kernel
theorem test_meets_Predicates : onX.cur.leaseHit 0 [] [95, 1, 2] = false ∧ (1 : Guard) ≠ 0 ∧ (95 : PName) ≠ 0 ∧ (95 : PName).toNat < 96 ∧
    (94 : PName) ≠ 95 := by decide +kernel
theorem test_meets_RotatingNames : (31 : VName).toNat < 32 ∧ 32 ≤ (63 : VName).toNat := by decide
theorem test_names_turn : ({ Strand.blank with vrb := 31 } : Strand).physV 33 = 32 ∧ ({ Strand.blank with vrb := 31 } : Strand).physV 32 = 63 := by
  decide +kernel

/-- The gleaning buffer with one free entry less than 64 lanes need, and with 64 entries from place 4095 on. -/
noncomputable def onGlean : State := cur_ onX fun k => { k with gleanOcc := 4033 }
theorem test_meets_Glean : let k := onGlean.cur
    let u := cur_ onX fun k => { k with gleanOcc := 1, gleanHead := 4095, glean := [(4095, 0x000000070000000000010002000000C5)] }
    onGlean.who = .x ∧ k.leaseHit 0 (nameRange 60 4) [] = false ∧
    4096 < k.gleanOcc + ((List.range 64).filter fun i => (k.mask 0).getLsbD i).length ∧
    onX.cur.gleanOcc + ((List.range 64).filter fun i => (onX.cur.mask 0).getLsbD i).length ≤ 4096 ∧
    Cells.wf onX.cur.glean = true ∧ u.cur.leaseHit 0 (nameRange 8 2) [1] = false ∧ (8 : VName).toNat + 1 + (1 : BitVec 1).toNat ≤ 64 ∧
    Cells.wf u.cur.glean = true ∧ u.cur.gleanOcc ≤ 4096 ∧ u.cur.gleanHead < 4096 := by decide +kernel
theorem test_glean_then_drain : let s := cur_ (vec_ onX 8 0x11 0x22) fun k => { k with gmap := k.gmap.set 1 1, p := k.p.set 1 (1 + 2 ^ 63) }
    let t := after (.glean 0xBEEF 0 1 8) s
    let u := after (.gdrain 2 0 1 10) t
    t.cur.gleanOcc = 2 ∧ (t.cur.gleanAt 1).extractLsb' 0 6 = 63 ∧ u.cur.gleanOcc = 0 ∧ u.cur.preg 2 = 3 ∧ u.lane 10 0 = 0x11 ∧
    u.lane 10 1 = 0x22 ∧ u.lane 11 1 = (t.cur.gleanAt 1).extractLsb' 0 32 := by decide +kernel
theorem test_meets_StreamFamilies : onC.cur.spec = none ∧ onC.who ≠ .x ∧ onC.who ≠ .a ∧ onX.who ≠ .c ∧ onX.cur.spec = none := by
  decide +kernel
/-- 1.5 to an integer: the tie goes to the even 2, down to 1, up to 2; with something more below it the tie is broken. -/
theorem test_meets_Rounding : (roundAt 0 false 3 (-1) false 0) = (2, false) ∧ (roundAt 0 false 1 (-1) false 0) = (0, false) ∧
    (roundAt 0 false 1 (-1) true 0) = (1, false) ∧ (roundAt 2 true 3 (-1) false 0) = (2, false) ∧
    (roundAt 1 true 3 (-1) false 0) = (1, false) ∧ (roundAt 3 false 4 (-1) false 0) = (2, true) := by decide +kernel
/-- A subnormal, the largest code and an infinity, in and out; and every code of the small formats. -/
theorem test_meets_FormatsRoundTrip : fp32.round 1 false (fp32.decode 1) = (1, 0) ∧ fp16.round 3 false (fp16.decode 0x7BFF) = (0x7BFF, 0) ∧
    bf16.round 2 false (bf16.decode 0xFF80) = (0xFF80, 0) ∧ fp32.decode 0x7F800000 ≠ .nan := by decide +kernel
theorem test_f8_round_trip : ∀ f ∈ [f8e5, f8e4], ∀ c < 256, f.decode c ≠ .nan → f.round 0 false (f.decode c) = (c, 0) := by decide +kernel
theorem test_tapered_round_trip : (∀ c < 64, c ≠ 32 → roundTapered 6 0 (decodeTapered 6 c) = (c, 0)) ∧
    ∀ c ∈ [0, 1, 63, 64, 65, 127, 129, 192, 255], roundTapered 8 0 (decodeTapered 8 c) = (c, 0) := by decide +kernel
/-- Finite exact values whose sum cancels, and a zero divisor. -/
theorem test_meets_ExactArithmetic : let x : Machine.ExactNum := .fin false 3 (-1) false
    let z : Machine.ExactNum := .zero false
    x.exact = true ∧ x.val = some (3 / 2 : Rat) ∧ z.val = some 0 := by decide +kernel
/-- A tie in FP16, one overflow of each kind, and a value below the subnormals; the special cases at their edges. -/
theorem test_meets_FormatRounding : fp16.round 0 false (.fin false 2049 0 false) = (0x6800, 1) ∧
    fp16.round 0 true (.fin true 1 16 false) = (0xFBFF, 5) ∧ f8e4.round 1 false (.fin false 1 9 false) = (f8e4.nan, 5) ∧
    bf16.round 1 false (.fin false 1 128 false) = (0x7F7F, 5) ∧ fp32.round 3 false (.fin false 1 (-150) false) = (1, 3) ∧
    fp32 ∈ [fp32, fp16, bf16, f8e5, f8e4] ∧ (2049 : Nat) ≠ 0 := by decide +kernel
theorem test_meets_SpecialCases : let x : Machine.ExactNum := .fin true 3 0 false
    let y : Machine.ExactNum := .fin false 8 (-3) false
    x.exact = true ∧ x.val = some (-3 : Rat) ∧ y.exact = true ∧ y.val = some 1 ∧ y.log2 = (.ofInt 0, 0) ∧
    fp16.min 0x3C00 0xBC00 = 0xBC00 ∧ fp16.max 0x7E01 0 = fp16.nan := by decide +kernel
/-! ### Witnesses: jobs -/

/-- Shadow fields written. -/
def fields_ (s : State) (l : List (Nat × Word)) : State :=
  cur_ s fun k => { k with jobs := { k.jobs with table := l.foldl (fun t p => t.setIfInBounds p.1 p.2) k.jobs.table } }
/-- The checked ranges of a job. -/
def jparts (c : JobChk) : List (JobRange × List Piece) :=
  match c with
  | .ok ps => ps
  | _ => []
/-- Two cards are left of tl, the ordinals 4 and 5; the retired prefix is 3. -/
theorem test_meets_ShadowFieldsAndWaits : let s := cur_ onC fun k => { k with jobs := { k.jobs with
      thq := [{ cardOne with ord := 4 }, { cardOne with ord := 5 }], issuedTl := 5, seqcp := 2 } }
    s.who = .c ∧ (with_ s 3 2).rd 3 = 2 ∧ ¬((with_ s 3 3).rd 3).toNat ≤ s.cur.jobs.seqcp.toNat ∧ (∀ c ∈ s.cur.jobs.thq, 0 < c.ord) ∧
    s.cur.jobs.issuedTl < 2 ^ 64 ∧ (∀ c ∈ s.cur.jobs.thq, 3 < c.ord) ∧ (after (.jobw 1 3 4) (with_ s 3 3)).rd 4 = 3 ∧
    (after (.jobw 1 3 4) (with_ s 3 4)).me.stall = 5 ∧ 8 ≤ (List.replicate 8 cardOne).length ∧ 16 ≤ (List.replicate 16 cardOne).length := by
  decide +kernel
/-- R279: a field keeps the low bits of its width alone. -/
theorem test_nset_truncates : vget (after (.nset 0x10 (.lit 0x00012345)) onC).cur.jobs.table 0x10 0 = 0x2345 ∧
    vget (after (.nset 0x60 (.lit 0xFFFFFFFF)) onC).cur.jobs.table 0x60 0 = -1 := by decide +kernel
/-- A nest that reads 4 KiB of LS and writes 16 KiB of the granary, with pitches as MMAG and MMAGS need. -/
noncomputable def onNest : State :=
  fields_ onC [(6, 128), (7, 256), (8, 1), (0x60, lsAddr 0), (0x64, 4096), (0x68, grAddr 0), (0x6A, 16384)]
theorem test_meets_NestJobs : let T (n : Nat) : Nat := (vget onNest.cur.jobs.table n 0).toNat
    let rs : List JobRange := [{ ea := lsAddr 0, n := 4096, write := false }, { ea := grAddr 0, n := 16384, write := true }]
    onNest.who = .c ∧ onNest.cur.jobs.thq.length < 8 ∧ T 6 % 128 = 0 ∧ 128 ≤ T 6 ∧ T 8 = 1 ∧ T 7 = 256 ∧ T 4 % 2 = 0 ∧
    (T 0x60 % 2 ^ 56 + T 0x64 ≤ 2 ^ 21) ∧ onNest.jobCheck false none none rs = .ok (jparts (onNest.jobCheck false none none rs)) ∧
    onNest.jobBarred (jparts (onNest.jobCheck false none none rs)) = false ∧ onNest.cur.spec = none ∧
    (after (.mmags 0 0 3 3 4) onNest).cur.jobs.thq.length = 1 ∧ (after (.mmags 0 0 3 3 4) onNest).rd 4 = 1 := by
  decide +kernel
theorem test_meets_NestJobs_commit : let rs : List JobRange :=
      [{ ea := lsAddr 0, n := 4096, write := false }, { ea := grAddr 0, n := 16384, write := true }]
    ∃ e, onNest.commitJob (jparts (onNest.jobCheck false none none rs)) = .done (onNest.setDev e) := ⟨onNest.dev, rfl⟩
/-- A pitch that MMAG may not have, and a region past the end of LS, or of none of the five spaces. -/
theorem test_nest_illegal : let ill (s : State) : List (BitVec 8) := (after (.mmag 0 0 3 3 4) s).cur.faults.map (·.cause)
    ill onNest = [] ∧ ill (fields_ onNest [(6, 64)]) = [1] ∧ ill (fields_ onNest [(0x64, 0x200001)]) = [1] ∧
    ill (fields_ onNest [(0x60, 0x0500000000000000)]) = [1] ∧ ill (fields_ onNest [(0x60, 0x10000)]) = [4] := by decide +kernel

/-- A PLANE of one row block of INT8 elements. -/
noncomputable def onPlane : State := fields_ onC [(0xB0, 0x1000), (0xB1, 16), (0xB2, 0), (0xB3, 0), (0xB4, 128)]
/-- R283: the element and group ranges of that job: 63 pitches and a row, and 8 planes of 128 bytes. -/
theorem test_plane_ranges : (after (.plane 0 0 3 4) onPlane).cur.jobs.thq.map (fun c => (c.regions[0].base, c.regions[0].len, c.regions[4].base,
      c.regions[4].len)) = [(lsAddr 0x1000, 1024, lsAddr 0, 1024)] ∧
    ((after (.plane 0 1 3 4) (fields_ onPlane [(0xB0, 0x3F0)])).cur.faults.map fun r => (r.cause, r.faddr)) = [(0x0E, lsAddr 0x3F0)] ∧
    ((after (.plane 0 1 3 4) (fields_ onPlane [(0xB4, 64)])).cur.faults.map (·.cause)) = [1] := by decide +kernel
theorem test_meets_ThresherJobs_plane : let rs : List JobRange :=
      [{ ea := lsAddr 0x1000, n := 1024, write := false }, { ea := lsAddr 0, n := 1024, write := true }]
    onPlane.who = .c ∧ onPlane.cur.jobs.thq.length < 8 ∧ onPlane.jobCheck false none none rs = .ok (jparts (onPlane.jobCheck false none none rs)) ∧
    ∃ e, onPlane.commitJob (jparts (onPlane.jobCheck false none none rs)) = .done (onPlane.setDev e) :=
  ⟨by decide +kernel, by decide +kernel, by decide +kernel, ⟨onPlane.dev, rfl⟩⟩
/-- SACC: a legal operand, one whose accumulator is misaligned, and one that meets its partial buffers; GCLR: the last word of the
granary, a length of 0, and one past the end. -/
theorem test_meets_ThresherJobs : let f (i : Instr) (w : Word) : List (BitVec 8 × Word) :=
      (after i (with_ onC 3 w)).cur.faults.map fun r => (r.cause, r.faddr)
    f (.sacc 0 0 1 2 3 4) 0x0000010000000000 = [] ∧ f (.sacc 0 0 1 2 3 4) 0x0000010000000002 = [(3, grAddr 2)] ∧
    f (.sacc 0 0 1 2 3 4) 0x000001000006F000 = [(0x0E, grAddr 0x70000)] ∧ f (.sacc 0 0 1 2 3 4) 0x0000008000000000 = [(1, 0)] ∧
    f (.gclr 0 3 4) 0x000000040007FFFC = [] ∧ f (.gclr 0 3 4) 0x0007FFFC = [(3, grAddr 0x7FFFC)] ∧
    f (.gclr 0 3 4) 0x000000080007FFFC = [(4, grAddr 0x80000)] := by decide +kernel
/-- DRAIN of FP32 rows of 256 bytes; FB must be 0 without a residual; a destination pitch below a row is illegal. -/
theorem test_meets_ThresherJobs_drain : let s := fields_ onC [(0xA1, 256), (0xA3, 256)]
    let f (s : State) (g : BitVec 4) : List (BitVec 8) := (after (.drain 0 0 14 g 4) s).cur.faults.map (·.cause)
    f s 0 = [] ∧ f s 1 = [1] ∧ f (fields_ s [(0xA3, 255)]) 0 = [1] ∧ f (fields_ s [(0xA1, 128)]) 0 = [1] ∧
    f (fields_ s [(0xA3, 0), (0xA2, 15), (0xAD, 0x40)]) 0 = [] ∧ f (fields_ s [(0xA3, 0), (0xA2, 16), (0xAD, 0x40)]) 0 = [1] := by
  decide +kernel

/-- A copy of 2 × 2 rows of 16 bytes within LS. -/
noncomputable def onCopyj : State :=
  fields_ (sys_ onC) [(0x80, lsAddr 0), (0x81, lsAddr 0x1000), (0x82, 16), (0x83, 2), (0x84, 2), (0x85, 16), (0x86, 64), (0x87, 16), (0x88, 64)]
theorem test_meets_CopyJobsAndScales : let T (n : Nat) : Nat := (vget onCopyj.cur.jobs.table n 0).toNat
    let rs : List JobRange := ([0, 16, 64, 80].map fun o => { ea := lsAddr o, n := 16, write := false }) ++
      [0, 16, 64, 80].map fun o => { ea := lsAddr (0x1000 + o), n := 16, write := true }
    let ps := jparts (onCopyj.jobCheck false none none rs)
    onCopyj.cur.jobs.cpq.length < 16 ∧ 0 < T 0x82 ∧ T 0x82 * T 0x83 * T 0x84 ≤ 65536 ∧ T 0x8C ≤ 4 ∧ T 0x89 = 0 ∧ T 0x8A = 0 ∧ T 0x8B = 0 ∧
    onCopyj.cur.id.sys = true ∧ onCopyj.jobCheck false none none rs = .ok ps ∧ heldLines ps = [] ∧ onCopyj.jobBarred ps = false ∧
    onCopyj.myDie.egress.length ≤ 4096 := by
  decide +kernel
theorem test_meets_CopyJobsAndScales_commit : let rs : List JobRange := ([0, 16, 64, 80].map fun o => { ea := lsAddr o, n := 16, write := false }) ++
      ([0, 16, 64, 80].map fun o => { ea := lsAddr (0x1000 + o), n := 16, write := true })
    ∃ e, onCopyj.commitJob (jparts (onCopyj.jobCheck false none none rs)) = .done (onCopyj.setDev e) := ⟨onCopyj.dev, rfl⟩
theorem test_copyj_card : let t := after (.copyj 1 4) onCopyj
    (t.cur.jobs.cpq.map fun c => (c.regions[0].base, c.regions[0].len, c.regions[4].base, c.ui, c.ord)) = [(lsAddr 0, 96, lsAddr 0x1000, 1, 1)] ∧
    t.rd 4 = 1 ∧ ((after (.copyj 0 4) (fields_ onCopyj [(0x82, 65537)])).cur.faults.map (·.cause)) = [1] ∧
    ((after (.copyj 0 4) (fields_ onCopyj [(0x89, 1)])).cur.faults.map (·.cause)) = [5] := by decide +kernel
/-- R287: FP16 elements from LS, the last of them at the end of the space; an address of TV is refused. -/
theorem test_meets_KLD : let s := with_ (cur_ onC fun k => { k with ls := k.ls.put 0x1FFF80 [0x00, 0x3C, 0x01, 0x7E] }) 3 0x01000000001FFF80
    let c := s.check .load 2 false (s.rd 3) 128
    c = .ok (parts c) ∧ s.poisonIn (parts c) = [] ∧ kldFormat 13 = true ∧ s.cur.cards = [] ∧ s.cur.qstreams = [] ∧
    laneOf (vget (after (.kld 13 3 5) s).cur.k 5 0) 0 = 0x3F800000 ∧ laneOf (vget (after (.kld 13 3 5) s).cur.k 5 0) 1 = 0x7FC00000 ∧
    ((after (.kld 13 3 5) (with_ s 3 0x200000)).cur.faults.map (·.cause)) = [5] ∧
    ((after (.kld 13 3 5) (with_ s 3 0x01000000001FFF82)).cur.faults.map (·.cause)) = [4] := by decide +kernel

/-! ### Witnesses: the engines -/

/-- A card of the copy queue. -/
def cpq_ (s : State) (q : List Card) : State := cur_ s fun k => { k with jobs := { k.jobs with cpq := q } }
/-- One nest of INT8 with its K-steps in LS and its result in a partial buffer: A's row 0 and B's column 0 have the one element 3
and 5. -/
def nestOne : Card :=
  { cardOne with
    kind := 0, fa := 3, fb := 3, phase := .running, params := [(0, 0), (1, 1024)]
    regions := cardOne.regions.setIfInBounds 0 { base := lsAddr 0, len := 4096 } }
noncomputable def onNestRun : State :=
  cur_ (thq_ onC [nestOne]) fun k => { k with ls := (((k.ls.put 0 [1]).put 128 [1]).put 1024 [1]).put 1280 [1] }
theorem onThresher_nest : OnThresher onNestRun [] nestOne [] := by
  constructor <;> decide +kernel
/-- A later card of the same unit is still queued, an earlier one is of the other unit and runs. -/
theorem onThresher_between : let g : Card := { cardOne with kind := 6, ord := 1, phase := .running }
    let b : Card := { nestOne with ord := 3, phase := .queued }
    let c : Card := { nestOne with ord := 2 }
    OnThresher (thq_ onNestRun [g, c, b]) [g] c [b] := by
  constructor <;> decide +kernel
theorem test_meets_ThresherBlocks : (∃ as bs arow srow, nestOne.bodyRead onNestRun.cur.ls = .ok as bs arow srow ∧ arow = upto 64) ∧
    nestOne.isMul = true ∧ nestOne.kind.toNat ≤ 2 ∧ nestOne.phase = .running ∧ nestOne.nat 9 < 2 ∧ nestOne.nat 8 = 0 ∧
    vget onNestRun.cur.pbst (pairBuffer 0 onNestRun.cur.wptr) 0 = 0 ∧ onNestRun.cur.gr.wf = true ∧ onNestRun.cur.ls.wf = true :=
  ⟨⟨_, _, _, _, rfl, rfl⟩, by decide +kernel⟩
/-- The same buffer FILLING, and one that is FULL. -/
theorem test_meets_ThresherBlocks_filling : let s := cur_ onNestRun fun k => { k with pbst := k.pbst.setIfInBounds 0 1 }
    vget s.cur.pbst (pairBuffer 0 s.cur.wptr) 0 = 1 ∧ (after .blockEmit onNestRun).cur.pbst = s.cur.pbst ∧
    (after .blockEmit onNestRun).cur.jobs.thq = [nestOne] ∧ 2 ≤ vget (onNestRun.cur.pbst.setIfInBounds 0 2) 0 0 := by decide +kernel
/-- The element product of that block, and a body that its card's regions do not allow. -/
theorem test_block_product : (match nestOne.bodyRead onNestRun.cur.ls with
      | .ok as bs arow _ => ((nestOne.block as bs arow)[0]?.bind fun r => r[0]?).map (·.1)
      | .bad _ => none) = some 15 ∧
    (match ({ nestOne with params := [(0, 4000)] } : Card).bodyRead onNestRun.cur.ls with
      | .ok _ _ _ _ => 0
      | .bad a => a) = lsAddr 4000 := by decide +kernel
/-- With OUT 01 and 10 the block goes to the granary at GR 0, within the card's write region; all counts at their ends. -/
theorem test_meets_ThresherBlocks_out : let c : Card := { nestOne with
      params := [(0, 0), (1, 1024), (7, 256), (8, 1)]
      regions := nestOne.regions.setIfInBounds 4 { base := grAddr 0, len := 16384 } }
    c.nat 8 = 1 ∧ c.kind.toNat ≠ 2 ∧ 0 ≤ c.stride (c.nat 2) 0x40 ∧ 256 ≤ c.nat 7 ∧
    (∀ i < (64 : Nat), ∀ j < (64 : Nat), c.allows true 2 ((c.stride (c.nat 2) 0x40).toNat + i * c.nat 7 + 4 * j) 4 = true) ∧
    (∀ n : Fin 6, c.nat (0x10 + n) ≤ c.nest[n].toNat) := by decide +kernel
/-- An SACC whose buffer is FULL. -/
theorem test_meets_ThresherBlocks_sacc : let c : Card := { cardOne with kind := 4, phase := .running, operand := 0x0000010000000000, regions := cardOne.regions.setIfInBounds 4 { base := grAddr 0, len := 16384 } }
    let s := cur_ (thq_ onC [c]) fun k => { k with pbst := k.pbst.setIfInBounds 0 2 }
    let t := after .saccBufferRead s
    256 ≤ saccPitch c.operand ∧ saccPair c.operand < 2 ∧ c.outside = none ∧ vget s.cur.pbst (pairBuffer 0 s.cur.cptr) 0 = 2 ∧ c.isMul = false ∧
    vget t.cur.pbst 0 0 = 3 ∧ (t.cur.jobs.thq.map (·.phase)) = [.running] ∧ vget onNestRun.cur.pbst 0 0 < 2 := by decide +kernel
/-- A card that is alone, one that conflicts with an earlier one, and one that finished. -/
theorem test_meets_JobUnits : let s := thq_ onC [cardOne]
    let e : Card := { nestOne with ord := 1, stamp := 0, regions := cardOne.regions.setIfInBounds 4 { base := lsAddr 0, len := 1 } }
    let c : Card := { cardOne with kind := 6, ord := 2, stamp := 1 }
    s.cur.resident = true ∧ s.cur.hung = false ∧ s.cur.parked = false ∧ s.cur.qstreams = [] ∧ s.myDie.requests = [] ∧ cardOne.isMul = true ∧ e.conflicts c = true ∧
    e.stamp < c.stamp ∧ ((after (.jobHandoff .mul) s).cur.jobs.thq.map (·.phase)) = [.running] ∧
    ((after (.jobHandoff .port) (thq_ onC [e, c])).cur.jobs.thq.map (·.phase)) = [.running, .queued] ∧
    ((after (.jobHandoff .copy) (cpq_ onC [cardOne])).cur.jobs.cpq.map (·.phase)) = [.running] := by decide +kernel
/-- Copies: one behind a nest that it conflicts with while a later one is free; two on one barrier object, which conflict in nothing
by it; and four that run, which is as many as the copy engine takes. -/
theorem test_meets_JobUnits_copies : let bar : Region := { base := grAddr 0x100, len := 16 }
    let e : Card := { cardOne with ord := 9, stamp := 0, phase := .running }
    let c1 : Card := { cardOne with kind := 8, ord := 1, stamp := 1 }
    let c2 : Card := { c1 with ord := 2, stamp := 2, regions := (Vector.replicate 6 { base := 0, len := 0 }).setIfInBounds 5 bar }
    let c3 : Card := { c2 with ord := 3, stamp := 3 }
    let s := cpq_ (thq_ onC [e]) [c1, c2, c3]
    let run (n : Nat) : Card := { c2 with ord := n, phase := .running }
    let u := cpq_ onC [run 4, run 5, run 6, run 7, c3]
    e.conflicts c1 = true ∧ c2.conflicts c3 = false ∧ (c2.regions[5]).meets c3.regions[5] = true ∧ c1.conflicts c2 = false ∧
    ((after (.jobHandoff .copy) s).cur.jobs.cpq.map (·.phase)) = [.queued, .running, .queued] ∧
    ((after (.jobHandoff .copy) (after (.jobHandoff .copy) s)).cur.jobs.cpq.map (·.phase)) = [.queued, .running, .running] ∧
    4 ≤ (u.cur.jobs.cpq.filter fun x => x.phase == .running).length ∧ ((after (.jobHandoff .copy) u).cur.jobs.cpq.map (·.phase)).getLast? = some .queued := by
  decide +kernel
/-- A copy whose arrival overran the barrier: its ordinal is among the overruns once it has retired (R150). -/
theorem test_retire_overrun : let c : Card := { cardOne with kind := 8, phase := .finished, params := [(0x8B, grAddr 0x100)], arrived := true, overrun := true }
    (after (.jobRetire .copy) (cpq_ onC [c])).cur.jobs.overruns = [1] ∧ (after (.jobRetire .copy) (cpq_ onC [c])).cur.jobs.seqcp = 1 := by
  decide +kernel
theorem test_retire : let c : Card := { cardOne with phase := .finished, flags := 5, ui := 1 }
    let t := after (.jobRetire .mul) (thq_ onC [c])
    t.cur.jobs.thq = [] ∧ t.cur.jobs.seqtl = 1 ∧ t.cur.fflags = 5 ∧ t.cur.ui.pend = 1 ∧ t.cur.ui.srcs = 2 := by decide +kernel
/-- Two finished jobs of different units: the one that finished second waits for the other. -/
theorem test_meets_JobUnits_order : let c : Card := { cardOne with ord := 1, phase := .finished, fin := 2 }
    let e : Card := { cardOne with kind := 6, ord := 2, phase := .finished, fin := 1 }
    let s := thq_ onC [c, e]
    c.isMul = true ∧ e.isMul = false ∧ c.kind ≠ 8 ∧ c.tags = [] ∧ e.fin < c.fin ∧ (after (.jobRetire .mul) s).cur.jobs.thq = [c, e] ∧
    (after (.jobRetire .port) s).cur.jobs.thq = [c] ∧ (after (.jobRetire .mul) (after (.jobRetire .port) s)).cur.jobs.thq = [] := by
  decide +kernel
theorem onThresher_order : OnThresher (thq_ onC [{ cardOne with ord := 1, phase := .finished, fin := 2 }, { cardOne with kind := 6, ord := 2, phase := .finished, fin := 1 }])
    [] { cardOne with ord := 1, phase := .finished, fin := 2 } [{ cardOne with kind := 6, ord := 2, phase := .finished, fin := 1 }] := by
  constructor <;> decide +kernel
/-- A GCLR whose card's regions miss the last byte it clears, and a copy whose request has had no answer for 2^EXP cycles. -/
theorem test_meets_JobUnits_faults : let c : Card := { cardOne with
      kind := 6, phase := .running, operand := 0x000000040007FFFC, regions := cardOne.regions.setIfInBounds 4 { base := grAddr 0x7FFFC, len := 3 } }
    let s := thq_ onC [c]
    let d : Card := { cardOne with kind := 8, phase := .running, tags := [1] }
    let u (age : Nat) := (cpq_ onC [d]).setDev ((cpq_ onC [d]).dev.onDie 0 fun x => { x with requests := [{ reqOne with age := age }] })
    let t := after (.jobRunningFault .copy 0x11 8) (u (2 ^ 24))
    c.isMul = false ∧ c.kind ≠ 4 ∧ c.outside = some (grAddr 0x7FFFC) ∧ s.myDie.egress = [] ∧
    ((after (.jobRunningFault .port 0x0E (grAddr 0x7FFFC)) s).cur.faults.map fun r => (r.cause, r.src, r.faddr)) = [(0x0E, 4, grAddr 0x7FFFC)] ∧
    (u 5).myDie.request 1 = some { reqOne with age := 5 } ∧ reqOne.replied = false ∧ reqOne.performed = false ∧
    2 ^ (u 5).myDie.win.ftimeout.toNat ≤ 2 ^ 24 ∧ (t.cur.faults.map fun r => (r.cause, r.src, r.faddr)) = [(0x11, 5, 8)] ∧
    t.myDie.requests = [] ∧ (t.cur.jobs.cpq.map fun x => (x.phase, x.tags)) = [(.faulted, [])] ∧
    (after (.jobRunningFault .copy 0x11 8) (u (2 ^ 10))).cur.faults = [] := by decide +kernel
theorem test_running_fault : let c : Card := { nestOne with params := [(0, 4000)] }
    let s := thq_ onNestRun [c]
    (match c.bodyRead s.cur.ls with | .ok _ _ _ _ => false | .bad a => a == lsAddr 4000) = true ∧ s.myDie.egress = [] ∧ s.cur.spec = none ∧
    ((after (.jobRunningFault .mul 0x0E (lsAddr 4000)) s).cur.faults.map fun r => (r.cause, r.src, r.faddr)) = [(0x0E, 3, lsAddr 4000)] := by
  decide +kernel
/-- A product of 1.5 × 2^0 within a window of 31 below the largest, and the two ends of it. -/
theorem test_meets_ThresherArithmetic : let ps : List (Bool × Nat × Int) := [(false, 3, -1), (true, 1, -40)]
    (∀ p ∈ ps, (p.2.1 : Rat) * 2 ^ p.2.2 < 2 ^ (0 + 1 : Int)) ∧ (∃ p ∈ ps, (2 : Rat) ^ (0 : Int) ≤ p.2.1 * 2 ^ p.2.2) ∧
    (windowSum 31 ps).1 = 0x3FC00000 - 0 ∧ (fp32.decode 0x3FC00000).val = some (3 / 2 : Rat) ∧ isFloat 3 = false :=
  ⟨by decide +kernel, by decide +kernel, by decide +kernel, by decide +kernel, by decide +kernel⟩
theorem test_meets_JobEffects_clear : let c : Card := { cardOne with kind := 6, phase := .running, operand := 0x000000040007FFFC, regions := cardOne.regions.setIfInBounds 4 { base := grAddr 0x7FFFC, len := 4 } }
    let s := cur_ (thq_ onC [c]) fun k => { k with gr := k.gr.put 0x7FFFB [1, 2, 3, 4, 5] }
    s.cur.gr.wf = true ∧ c.flags = 0 ∧ c.ui = 0 ∧ c.outside = none ∧ c.tags = [] ∧ ((after (.jobRetire .port) s).cur.gr) = [(0x7FFFB, 1)] := by decide +kernel
/-- A copy of one row of 16 bytes over itself, one byte further on. -/
theorem test_meets_JobEffects_copy : let c : Card := { cardOne with
      kind := 8, phase := .running, params := [(0x80, lsAddr 0), (0x81, lsAddr 1), (0x82, 16), (0x83, 1), (0x84, 1)]
      regions := (cardOne.regions.setIfInBounds 0 { base := lsAddr 0, len := 16 }).setIfInBounds 4 { base := lsAddr 1, len := 16 } }
    let s := cur_ (cpq_ onC [c]) fun k => { k with ls := k.ls.put 0 [9, 8, 7] }
    c.target = none ∧ c.hold = 0 ∧ c.nat 0x89 = 0 ∧ c.field 0x8B = 0 ∧ c.overrun = false ∧ c.outside = none ∧ c.tags = [] ∧ s.dev.poison = [] ∧ s.cur.ls.wf = true ∧ s.myDie.egress = [] ∧ s.cur.id.die.toNat < 8 ∧
    (after (.jobRetire .copy) s).cur.ls = [(0, 9), (1, 9), (2, 8), (3, 7)] := by decide +kernel
theorem onCopy_one : OnCopy (cpq_ onC [{ cardOne with kind := 8, phase := .running }]) { cardOne with kind := 8, phase := .running } [] := by
  constructor <;> decide +kernel
/-- A DRAIN to tile 15, a delivery that waits, and an arrival on a barrier object of the own granary. -/
theorem test_meets_JobEffects_tile : let c : Card := { cardOne with kind := 5, phase := .running, params := [(0xA2, 15), (0xAD, 0x40)] }
    let s := thq_ onC [c]
    let f : TileFill := { tile := 15, bytes := [(0, 1), (16383, 2)] }
    let u := cur_ onC fun k => { k with jobs := { k.jobs with fills := [f] } }
    c.dctl 6 = true ∧ c.claims = [] ∧ (s.tile 15).st = .empty ∧ ((after (.tilePortClaim .drain) s).tile 15).st = .claimed 1 ∧
    u.cur.jobs.fills[0]? = some f ∧ (f.bytes.map (·.1)).Nodup ∧ ((after (.tilePortClaim (.remote 0)) u).tile 15).st = .full ∧
    ((after (.tilePortClaim (.remote 0)) u).tile 15).data = [(0, 1), (16383, 2)] := by decide +kernel
theorem test_meets_JobEffects_arrival : let c : Card := { cardOne with kind := 8, phase := .finished, params := [(0x8B, grAddr 0x100)] }
    let s := gran_ (cpq_ onC [c]) 0x100 (natLe 16 (barOf 1 2 3).toNat)
    (match s.locate (c.field 0x8B) 0 16 with | .hit h => h.loc == .own 1 0x100 | _ => false) = true ∧ s.myDie.lines = [] ∧ c.arrived = false ∧
    s.others = [] ∧ s.cur.acc.barwait = none ∧ ((after (.copyBarrierArrival 0) s).barAt (.own 1 0x100)).ph = 4 ∧
    ((after (.copyBarrierArrival 0) s).cur.jobs.cpq.map (·.overrun)) = [false] ∧
    ((after (.copyBarrierArrival 0) (gran_ s 0x100 (natLe 16 (barOf 1 1 3).toNat))).cur.jobs.cpq.map (·.overrun)) = [true] := by decide +kernel

/-- A publish descriptor at LS 0x100 of 8 bytes of code at LS 0: a header of class C and one `li s6, 0`. -/
noncomputable def onPublish : State :=
  let code := natLe 4 (frameBlk 1 0 0 0 2).toNat ++ natLe 4 0x30B
  let desc := natLe 8 (2 ^ 56) ++ natLe 4 8 ++ natLe 4 0 ++ natLe 4 0 ++ natLe 4 0xFFFFFFFF ++ natLe 4 0xFFFFFFFF ++ natLe 4 0
  with_ (cur_ (sys_ onC) fun k => { k with ls := (k.ls.put 0 code).put 0x100 desc }) 3 0x0100000000000100
theorem test_meets_Publish : let rs := parts (onPublish.check .load 8 false (onPublish.rd 3) 64)
    let w := onPublish.check .store 1 false (onPublish.rd 3 + 0x20) 32
    let bs := onPublish.loadBytes rs
    let cs := parts (onPublish.check .load 1 false (2 ^ 56) 8)
    let image := onPublish.loadBytes cs
    onPublish.check .load 8 false (onPublish.rd 3) 64 = .ok rs ∧ onPublish.privileged (onPublish.rd 3) = false ∧ w = .ok [part w] ∧ (part w).start = 0 ∧ (part w).len = 32 ∧
    (part w).hit.loc = .own 0 0x120 ∧ (part w).hit.cls = none ∧ (part w).hit.irr = false ∧ onPublish.storesInFlight = [] ∧
    recNat bs 0 8 = 2 ^ 56 ∧ recNat bs 8 4 = 8 ∧ recNat bs 12 4 = 0 ∧ recNat bs 28 4 = 0 ∧ onPublish.cur.id.sys = true ∧
    onPublish.check .load 1 false (2 ^ 56) 8 = .ok cs ∧ (∀ q ∈ cs, q.hit.remote = false) ∧
    publishFault false (walkCode 8 0 (image.take 8)) [recNat bs 16 4, recNat bs 20 4, recNat bs 24 4] 8 (image.drop 8) = none ∧
    image.length = 8 + 0 ∧ onPublish.cur.ls.wf = true ∧ onPublish.dev.mem.wf = true := by decide +kernel
theorem test_meets_Publish_digest : (shake256 (natLe 4 (frameBlk 1 0 0 0 2).toNat ++ natLe 4 0x30B)).length = 32 := by decide +kernel
theorem test_publish : let t := after (.publish 3 4) onPublish
    (t.dev.objects.map fun o => (o.len, o.starts)) = [(20, [0]), (8, [0])] ∧ t.cur.faults = [] := by decide +kernel
/-! ### Witnesses: ends, records, contexts -/

/-- The current die changed. -/
def die_ (s : State) (f : Die → Die) : State := s.setDev (s.dev.onDie 0 f)
/-- Its window changed. -/
def win_ (s : State) (f : Window → Window) : State := die_ s fun x => { x with win := f x.win }
/-- Dispatch open, after the end of boot. -/
def open_ (s : State) : State := s.setDev { s.dev with man := { s.dev.man with isOpen := true } }
/-- The reset machine with the page of `page_`. -/
def idle : State := page_ State.reset 0xAF
/-- The one part of a firmware access. -/
def fpart (s : State) (g : Agent) (k : AccKind) (ea : Word) (n : Nat) : Piece := part ((s.enter g).check k 1 false ea n)

/-- A task of one strand at level 3 and its sheaf on core 0. -/
def taskOne : Task :=
  { num := 0, inst := 0, node := 2, tid := 0, sys := false, obj := fetchBase, gx := 1, gy := 1, gz := 1, strands := 1, stages := 1
    cor := false, pri := 3, spec := none, args := [], argBlock := 0, total := 1, ended := 0, failed := false, dies := [0] }
def sheafOne : Sheaf :=
  { die := 0, stag := 0, task := 0, x := 0, y := 0, z := 0, stage := 0, cores := [0], endedStrands := 0, saved := false
    stopping := false, placed := 0 }
noncomputable def onTask : State := onC.setDev { onC.dev with tasks := [taskOne], sheaves := [sheafOne] }
/-- The same with every stream ended. -/
noncomputable def onEnd : State :=
  cur_ onTask fun k => { k with ctl := { k.ctl with run := .ended }, acc := { k.acc with run := .ended }, exe := { k.exe with run := .ended } }
theorem finished_onEnd : Strand.Finished onEnd.cur := by constructor <;> decide +kernel
theorem not_finished_onTask : ¬Strand.Finished onTask.cur := fun h => absurd h.streams.1 (by decide +kernel)
theorem test_meets_StrandEnds : let srv := onEnd.dev.server onEnd.cur.id.tid.toNat
    onEnd.dev.sheaf 0 0 = some sheafOne ∧ sheafOne.endedStrands + 1 = sheafOne.cores.length ∧ onEnd.cur.spec = none ∧ srv.1 < 8 ∧
    ((onEnd.dev.die srv.1).slot srv.2).fifo.length < 1024 ∧ onEnd.dev.dispatchOpen 0 = false ∧ onEnd.dev.consumerOf sheafOne = none ∧
    onEnd.dev.task 0 = some taskOne ∧ taskOne.tid = onEnd.cur.id.tid.toNat ∧ ({ sheafOne with cores := [0, 1] } : Sheaf).cores.length = 2 ∧
    1024 ≤ (List.replicate 1024 0).length := by decide +kernel
theorem test_strand_end : let t := after .strandEnd onEnd
    t.dev.sheaves = [] ∧ (t.dev.tasks.map (·.ended)) = [1] ∧ t.cur.resident = false := by decide +kernel
/-- A stream that stalls for as long as HANGTO allows, with its hang area on the page and without one. -/
noncomputable def onHang : State :=
  win_ (page_ (me_ onC fun x => { x with stall := 5, stallCycles := 2 ^ 24 }) 0xAF) fun w => { w with hangbuf := 0x200000 }
theorem hung_onHang : State.Hung onHang .c := ⟨by decide +kernel, by decide +kernel, by decide +kernel⟩
theorem only_hung_onHang : ∀ u, State.Hung onHang u → u = .c := by
  intro u h; cases u <;> first | rfl | exact absurd h.2.1 (by decide +kernel)
theorem not_hung_onC : ∀ u, ¬State.Hung onC u := by
  intro u h; cases u <;> exact absurd h.2.1 (by decide +kernel)
theorem test_meets_HangRecord : let g := Agent.system 0
    onHang.cur.resident = true ∧ onHang.cur.frozen = false ∧ onHang.cur.spec = none ∧ onHang.dev.man.armed = false ∧ onHang.dev.man.latching = false ∧
    onHang.dev.mem.wf = true ∧ onHang.hangRecord.length ≤ 4096 ∧
    (onC.enter g).check .store 1 false 0 onC.hangRecord.length = .fault 0x04 0 ∧
    (fpart onHang g .store 0x200000 onHang.hangRecord.length).Dram pageKey ∧ (0x200000 : Word).toNat < 2 ^ 56 ∧ onHang.hangRecord.length ≠ 0 ∧
    (onHang.enter g).check .store 1 false 0x200000 onHang.hangRecord.length =
      .ok [fpart onHang g .store 0x200000 onHang.hangRecord.length] ∧
    (onHang.enter g).logStall [fpart onHang g .store 0x200000 onHang.hangRecord.length] = false ∧ onHang.cur.id.die.toNat = 0 := by
  unfold Piece.Dram; decide +kernel
theorem test_hang : let t := after .hangCapture onHang
    t.cur.frozen = true ∧ t.cur.hung = true ∧ (t.cur.faults.map fun r => (r.cause, r.aux)) = [(9, 0x200000)] := by decide +kernel
/-- A record that waits, and the trap ring of 1 KiB on the page. -/
def waiting : FaultRec :=
  { cause := 4, src := 1, sys := false, defer := false, detail := 0, tid := 0, iaddr := 4, faddr := 8, aux := 0, core := 0, pkg := 0
    stag := 0, six := 0, rin := 0 }
/-- The granary of core 63 of die 0, a core without a strand: its key and its OM address. -/
def hostGran : Nat := 0xFFF03F1000000
/-- A trap ring whose block lies there and whose buffer lies on the page. -/
def trapRing (n : Nat) : Rcb := newRcb 0x200000 1024 3 (ownWord 0 0 0 0) 0 |> fun r => { r with tail := n, resv := n, head := n }
def onTrapRing : State :=
  let s := win_ idle fun w => { w with traprcb := 0x040FFF03F1000000 }
  die_ (s.setDev { s.dev with mem := s.dev.mem.put hostGran (trapRing 0).bytes }) fun x => { x with trapWait := [waiting] }
theorem test_meets_FaultRecordPublished : let g := Agent.system onTrapRing.cur.id.die.toNat
    let b := (onTrapRing.enter g).rcbAt (.phys hostGran)
    onTrapRing.dev.publishing = true ∧ onTrapRing.myDie.rph ≠ 6 ∧ onTrapRing.myDie.trapWait = waiting :: [] ∧ onTrapRing.myDie.win.traprcb = 0x040FFF03F1000000 ∧
    (onTrapRing.enter g).ringAt 0x040FFF03F1000000 = some (.phys hostGran) ∧ b = trapRing 0 ∧ b.bad = false ∧ b.resv - b.head + 72 ≤ b.cap ∧
    b.resv = b.tail ∧ onTrapRing.dev.mem.wf = true ∧ (∀ t ∈ onTrapRing.dev.tents, t.rings = []) ∧
    (fpart onTrapRing g .store 0x200000 72).Dram pageKey ∧
    (onTrapRing.enter g).check .store 1 false 0x200000 72 = .ok [fpart onTrapRing g .store 0x200000 72] ∧
    (onTrapRing.enter g).logStall [fpart onTrapRing g .store 0x200000 72] = false := by
  unfold Piece.Dram; decide +kernel
/-- A full ring: 1,008 bytes of records leave no room for 72 more. -/
theorem test_meets_FaultRecordPublished_full : let b : Rcb := { trapRing 1008 with head := 0 }
    72 ≤ b.cap ∧ b.cap < b.resv - b.head + (if b.cap < b.resv % b.cap + 72 then b.cap - b.resv % b.cap else 0) + 72 := by decide +kernel
/-- Between vote and commit nothing is published; in REDISPATCH the record is, and the rollback of the die ends with it, or with
the try where cfg.traprcb is 0. -/
theorem test_meets_FaultRecordPublished_phases : let s (p : BitVec 3) := die_ onTrapRing fun x => { x with rph := p }
    let v := die_ onTrapRing fun x => { x with sph := 4 }
    v.dev.publishing = false ∧ (after .faultRecordPublish v).myDie.trapWait = [waiting] ∧ (s 6).dev.publishing = true ∧
    (s 6).myDie.rph = 6 ∧ (after .faultRecordPublish (s 6)).myDie.rph = 0 ∧ (after .faultRecordPublish (s 6)).myDie.trapWait = [] ∧
    (win_ (s 6) fun w => { w with traprcb := 0 }).dev.publishing = true ∧
    (after .faultRecordPublish (win_ (s 6) fun w => { w with traprcb := 0 })).myDie.rph = 0 := by decide +kernel
theorem test_record_published : let t := after .faultRecordPublish onTrapRing
    t.myDie.trapWait = [] ∧ t.dev.mem.nat pageKey 8 = 64 + 0xFFF0 * 2 ^ 32 ∧ t.dev.mem.nat (pageKey + 8) 1 = 4 := by decide +kernel

/-- A header of the graph of `instOne`: 16 nodes are no part of it but the record of its node. -/
def nodeRec (x : BitVec 512) (phase : NodePhase) : NodeState := { record := x, phase := phase, passes := 0, range := (0, 0) }
def instOne : Instance :=
  { num := 0, tid := 0, queue := 1, handle := 0, state := 1, code := 0, node := 0, loopcap := false, header := 0xFF <<< 112, edges := []
    guards := [], nodes := [nodeRec 0 .running, nodeRec 0 .ended], args := [], rin := 0, replay := none, rings := [], claiming := false }
noncomputable def onFrozen : State :=
  cur_ (onTask.setDev { onTask.dev with instances := [instOne], tasks := [taskOne, { taskOne with num := 1 }] }) fun k => { k with frozen := true }
theorem test_meets_TaskEnded : onFrozen.cur.resident = true ∧ onFrozen.cur.frozen = true ∧ onFrozen.dev.task 0 = some taskOne ∧
    onFrozen.dev.instance_ 0 = some instOne ∧ instOne.code = 0 ∧ { taskOne with num := 1 } ∈ onFrozen.dev.tasks ∧
    (∀ k ∈ onTask.cur :: onTask.others, ¬(k.resident = true ∧ k.frozen = true ∧ k.id.die = 0 ∧ k.id.stag = 0 ∧ k.id.six = 0)) := by
  decide +kernel
theorem test_end_task : let t := after (.sresumeEnd 0 0) onFrozen
    t.dev.tasks.map (·.num) = [1] ∧ t.dev.sheaves = [] ∧ t.cur.resident = false ∧ (t.dev.instances.map fun i => (i.code, i.node)) = [(10, 2)] := by
  decide +kernel
theorem test_meets_Preemption : onTask.dev.task 0 = some taskOne ∧ onTask.dev.sheaf 0 0 = some sheafOne ∧
    onTask.dev.unitOf taskOne sheafOne = [sheafOne] ∧ onTask.strandsOf sheafOne = [onTask.cur] ∧ onTask.savable onTask.cur = true ∧
    onTask.cur.acc.barwait = none ∧ onTask.dev.sealw = [] ∧ sheafOne.saved = false ∧ onTask.others = [] ∧ taskOne.pri = 3 := by decide +kernel
/-- Work of level 4 that is held: a saved sheaf of 8 strands, one of which a restore has put on core 1; the others must join it on
cluster 0, which the running strand keeps them from. -/
noncomputable def onNeeded : State :=
  let v : Task := { taskOne with num := 1, strands := 8, pri := 4, total := 1 }
  let u : DispUnit := { task := 1, sheaves := [(0, 0, 0, 0)], level := 4, stamp := 0, popmark := 0, bank := 0, saved := true, clus := 0 }
  let h : Sheaf := { sheafOne with stag := 9, task := 1, cores := [1, 2, 3, 4, 5, 6, 7, 0], saved := true }
  let k : Strand := { onTask.cur with id := { onTask.cur.id with core := 1, stag := 9, task := 1 }, parked := true }
  let s := { onTask with others := [k], dev := { onTask.dev with tasks := [taskOne, v], sheaves := [sheafOne, h] } }
  die_ s fun x => { x with slot0 := { x.slot0 with held := [u] } }
theorem test_meets_Preemption_held : onNeeded.needs 4 [sheafOne] = true ∧ onNeeded.firstToYield 4 taskOne [sheafOne] = true ∧
    onNeeded.needs 5 [sheafOne] = false ∧ (∀ k ∈ onNeeded.others, k.id.coreNum ≠ onNeeded.cur.id.coreNum) ∧ sheafOne.stopping = false ∧ onNeeded.cur.frozen = false ∧
    (∀ n < 8, ∀ u ∈ (onTask.dev.die n).slot0.held ++ (onTask.dev.die n).slot1.held, u.level ≠ 4) := by decide +kernel
theorem test_preemption : let t := after (.preemption 4) onNeeded
    t.cur.resident = false ∧ (t.dev.images.map fun k => k.ctl.pc) = [fetchBase + 4] ∧ ((t.dev.die 0).ready.map fun u => (u.level, u.saved)) = [(3, true)] ∧
    (t.dev.sheaves.map (·.saved)) = [true, true] ∧ (after (.preemption 4) onTask).cur.resident = true ∧ (after (.preemption 3) onNeeded).cur.resident = true ∧
    (after (.preemption 10) onTask).cur.resident = true ∧ (after (.preemption 12) onTask).cur.resident = false := by decide +kernel

/-- Pages of stacked DRAM from 0x400000 on, enough for an image. -/
def bigPage (s : State) : State :=
  s.setDev { s.dev with maps := s.dev.maps ++ [{ asid := 0, base := 0x400000, units := 64, key := 0x400000, attrs := 0xAF
                                                 owner := .object 0x400000, charged := false }] }
theorem test_meets_ContextSaved : let s := bigPage onC
    let t := s.enter (Agent.system 0)
    (match t.check .store 1 false 0x400000 imageSize with
      | .ok ps => ps.all fun p => p.hit.loc == .phys (0x400000 + p.start) && !p.hit.remote && !p.hit.irr &&
          p.hit.cls.isSome && p.hit.committed
      | _ => false) = true ∧ s.dev.mem.wf = true ∧ s.others = [] ∧ (s.savedWith s.cur).all s.savable = true ∧ s.cur.id.coreNum.toNat = 0 := by decide +kernel
/-- Its log has room for every line. -/
theorem test_meets_ContextSaved_log : (bigPage onC).logStall (parts (((bigPage onC).enter (Agent.system 0)).check .store 1 false 0x400000 imageSize)) =
    false := by
  have h : ∀ n < 8, ((bigPage onC).dev.die n).undo.length = 0 ∧ 0 < ((bigPage onC).dev.die n).win.undoCap := by decide +kernel
  have u (ls : List Nat) : (bigPage onC).dev.undoLacks ls = false := by
    simp only [Device.undoLacks, List.any_eq_false, List.mem_range]
    intro n hn
    obtain ⟨h0, h1⟩ := h n hn
    simp only [h0, Bool.and_eq_true, decide_eq_true_eq]
    omega
  simp [State.logStall, u]
theorem test_meets_ContextSaved_fault : (onC.enter (Agent.system 0)).check .store 1 false 0x400000 imageSize = .fault 0x04 0x400000 := by
  decide +kernel
theorem test_context_save : (after (.contextSave 0 0x400000) onC).cur.ctxSt = 3 := by decide +kernel
/-- An image of zeros is malformed; one that cannot be read is refused; a core with a strand ignores a restore. -/
theorem test_meets_ContextRestored : let s := bigPage idle
    let t := s.enter (Agent.system 0)
    (match t.check .load 1 false 0x400000 imageSize with
      | .ok ps => (ps.all fun p => !p.hit.remote) && (t.poisonIn ps).isEmpty
      | _ => false) = true ∧ s.cur.resident = false ∧ s.others = [] ∧ (imageFault []).isSome = true ∧ (0x400000 : Word).toNat < 2 ^ 56 := by
  decide +kernel
theorem test_meets_ContextRestored_fault : (idle.enter (Agent.system 0)).check .load 1 false 0x400000 imageSize = .fault 0x04 0x400000 := by
  decide +kernel
/-- Tables 15-15 and 15-16: MAGIC, VER and SIZE, and zeros, are a well-formed image; a bit of LIVE that names no unit is not. -/
theorem test_image_is_sound : let m : Memory := listed 0 (natLe 4 0x58544358 ++ natLe 4 1 ++ natLe 8 0 ++ natLe 8 imageSize)
    imageFault m = none ∧ imageFault (m.set 0x1C 1) = some (1, 0x1C) ∧ imageFault (m.set 9 0x20) = some (0x0B, 13) := by decide +kernel
/-- Its strand may stand on a core of an empty machine, and nowhere beside itself. -/
theorem test_meets_ContextRestored_placed : let m : Memory := listed 0 (natLe 4 0x58544358 ++ natLe 4 1 ++ natLe 8 0 ++ natLe 8 imageSize)
    let i := idle.restoreId 0 m
    let k := { idle with cur := { Strand.blank with id := i } }.strandOf m (idle.dev.recordOf i)
    idle.misplaced i = false ∧ k.id.coreNum = idle.cur.id.coreNum ∧ onC.misplaced onC.cur.id = true := by decide +kernel
/-- A table whose header cannot be read, and one of zeros, which nobody signed. -/
theorem test_meets_ExpansionTable : let g := Agent.system 0
    (idle.enter g).check .load 1 false 0x300000 256 = .fault 0x04 0x300000 ∧ (idle.dev.die 0).win.xtSt ≠ 1 ∧
    (idle.enter g).check .load 1 false 0x200000 256 = .ok [fpart idle g .load 0x200000 256] ∧ (0x200000 : Word).toNat < 2 ^ 56 ∧
    (fpart idle g .load 0x200000 256).hit.remote = false ∧ (idle.enter g).poisonIn [fpart idle g .load 0x200000 256] = [] ∧
    (idle.enter g).loadBytes [fpart idle g .load 0x200000 256] = List.replicate 256 0 ∧ imageValid 2 (List.replicate 256 0) [] = false ∧
    (win_ idle fun w => { w with xtSt := 1 }).myDie.win.xtSt = 1 := by decide +kernel

/-! ### Witnesses: windows and management -/

theorem mayWrite_firmware : State.MayWrite idle .firmware := .inl rfl
/-- A master that owns nothing, the owner, and a frozen master: the host's. -/
def hostMaster : Master := .host0
theorem mayWrite_owner : State.MayWrite (idle.setDev { idle.dev with man := { idle.dev.man with owner := masterNum hostMaster } }) hostMaster :=
  .inr ⟨by decide +kernel, by decide +kernel, by decide +kernel⟩
theorem test_meets_WindowOwnership : let s := idle.setDev { idle.dev with man := { idle.dev.man with frz := 7 } }
    masterNum hostMaster ≠ 0 ∧ (0x14F8 : BitVec 16).toNat < 0x1500 ∧ 0x1520 ≤ (0x1520 : BitVec 16).toNat ∧ (0x0808 : BitVec 16) ≠ 0x0008 ∧ s.dev.man.frozen hostMaster = true ∧ idle.dev.man.frozen hostMaster = false ∧
    idle.dev.man.owner = 0 ∧ idle.dev.failed = false ∧ masterNum .firmware = 0 ∧ bellOf hostMaster ≠ none ∧ 16 ≤ (16 : BitVec 5).toNat := by
  decide +kernel
theorem test_ownership : (after (.ownctlClaim hostMaster) idle).dev.man.owner = masterNum hostMaster ∧
    (after (.ownctlClaim hostMaster) idle).dev.man.msix = [3] ∧ (after (.registerWrite hostMaster 0 0x0810 1) idle).dev.man.frz ≠ 0 ∧
    ((after (.registerWrite .firmware 0 0x1208 (24 * 4)) idle).dev.die 0).win.sbto = 22 ∧
    ((after (.registerWrite .firmware 0 0x1208 (23 * 4)) idle).dev.die 0).win.sbto = 23 := by decide +kernel
/-- The words of OWNCTL: claim, release, package reset and none; each trigger bit, alone and with the fields beside it. -/
theorem test_meets_WindowOwnership_words : (1 : Word).extractLsb' 0 2 = 1 ∧ (2 : Word).extractLsb' 0 2 = 2 ∧ (3 : Word).extractLsb' 0 2 = 3 ∧
    (4 : Word).extractLsb' 0 2 = 0 ∧ bellOf hostMaster = some 0 ∧ 0x1500 ≤ (0x151F : BitVec 16).toNat ∧ (0x151F : BitVec 16).toNat < 0x1520 ∧
    (after (.registerWrite hostMaster 0 0x0008 1) idle).dev.man.owner = masterNum hostMaster ∧
    (after (.registerWrite hostMaster 0 0x1500 9) idle).dev.man.frz = 0 ∧
    (vget ((after (.registerWrite hostMaster 0 0x1500 9) idle).dev.die 0).bells 0 Doorbell.blank).desc = 9 := by decide +kernel
theorem test_meets_WindowRegisters : (2 : Word).getLsbD 1 = true ∧ (1 : Word).getLsbD 1 = false ∧ (0x5D : Word).getLsbD 0 = true ∧
    (0x5E : Word).getLsbD 0 = false ∧ (0x5E : Word).getLsbD 1 = true ∧ (0x20 : Word).getLsbD 5 = true ∧ (0x1F : Word).getLsbD 5 = false ∧
    ((after (.registerWrite .firmware 0 0x1208 0x5D) idle).dev.die 0).win.sbto = 23 ∧
    (after (.registerWrite .firmware 0 0x1208 0x5D) idle).dev.sealReq = true ∧ (after (.sreq .firmware 0) idle).dev.sealReq = true ∧
    ((after (.registerWrite .firmware 0 0x1120 2) idle).dev.die 0).win.predEn = false ∧
    (after (.registerWrite .firmware 0 0x0000 4) (idle.setDev { idle.dev with man := { idle.dev.man with frz := 7 } })).dev.man.frz = 6 ∧
    (after (.registerWrite .firmware 0 0x1300 0x21) (idle.setDev { idle.dev with man := { idle.dev.man with en := 1 } })).dev.man.armed = true ∧
    (after (.registerWrite .firmware 0 0x1300 0x23) idle).dev.man.src = 1 := by decide +kernel
/-- A trap ring's block in the granary of a host core, one that lies in a region that is kept, and a place that is no block's. -/
theorem test_meets_WindowRegisters_traprcb : let p (a : Word) := ((idle.enter (Agent.system 0)).ringAt a).bind Loc.physKey?
    p 0x040FFF03F1000000 = some hostGran ∧ p 0x200040 = none ∧
    ((after (.registerWrite .firmware 0 0x0810 0x040FFF03F1000000) idle).dev.persistPages) = [(hostGran, 64, 256)] ∧
    (let s := idle.setDev { idle.dev with persistPages := [(hostGran, 65536, 0), (0x9000, 64, 256)] }
     (after (.registerWrite .firmware 0 0x0810 0x040FFF03F1000000) s).dev.persistPages = [(hostGran, 65536, 0)]) := by decide +kernel
/-- R440: the windows of a master's route, and addresses outside it. -/
theorem test_window_routes : windowRoute .host0 3 0x30808 = some (3, 0x0808) ∧ windowRoute .mgmt 0 0x80000 = none ∧
    windowRoute .firmware 5 0x020000001208 = some (5, 0x1208) ∧ windowRoute .firmware 5 0x1208 = none := by decide +kernel
theorem test_meets_LanternAndThaw_latching : let man := { idle.dev.man with latching := true, en := 9, src := 1 }
    (after .externalPin (idle.setDev { idle.dev with man := man })).dev.man.src = 9 ∧ man.latching = true ∧ man.en.getLsbD 3 = true ∧
    idle.dev.man.latching = false := by decide +kernel
theorem test_meets_LanternAndThaw : let man := { idle.dev.man with armed := true, en := 8 }
    man.en.getLsbD 3 = true ∧ man.en.getLsbD 0 = false ∧ idle.dev.man.armed = false ∧
    (after .externalPin (idle.setDev { idle.dev with man := man })).dev.man.src = 8 ∧
    (after .externalPin (idle.setDev { idle.dev with man := man })).dev.man.msix = [1] ∧
    (after (.swtrig .firmware) (idle.setDev { idle.dev with man := man })).dev.man.armed = true := by decide +kernel
theorem test_meets_ResetAndBoot : masterNum hostMaster ≠ 0 ∧ idle.dev.mem.wf = true ∧
    (∀ n < 8, (idle.dev.die n).win.bootStep = 0 ∧ (idle.dev.die n).win.bootReason = 0) ∧
    ((win_ idle fun w => { w with bootStep := 7 }).dev.die 0).win.bootStep ≠ 0 := by decide +kernel
theorem test_package_reset : let s := idle.setDev { idle.dev with man := { idle.dev.man with owner := masterNum hostMaster }
                                                                  mem := (idle.dev.mem.put 64 [1]).put 0x80000000040 [2] }
    s.dev.mem.filter s.dev.outside = [(0x80000000040, 2)] ∧ s.dev.outside (64, 0) = false ∧ s.dev.outside (2 ^ 55, 0) = true ∧
    s.dev.owns (linePeer (2 ^ 55 / 64)) = false ∧ s.dev.man.owner = masterNum hostMaster := by decide +kernel
theorem test_meets_Attestation : let g := Agent.system 0
    (idle.enter g).check .load 1 false 0x300000 32 = .fault 0x04 0x300000 ∧ idle.dev.man.attBusy = false ∧ idle.dev.storing = true ∧
    (die_ idle fun x => { x with sph := 4 }).dev.storing = false ∧
    (idle.enter g).check .load 1 false 0x200000 32 = .ok [fpart idle g .load 0x200000 32] ∧
    (fpart idle g .load 0x200000 32).hit.remote = false ∧ (idle.enter g).poisonIn [fpart idle g .load 0x200000 32] = [] ∧
    (idle.enter g).loadBytes [fpart idle g .load 0x200000 32] = List.replicate 32 0 ∧
    (idle.enter g).check .store 1 false 0x200000 512 = .ok [fpart idle g .store 0x200000 512] ∧
    (fpart idle g .store 0x200000 512).Dram pageKey ∧ (idle.enter g).logStall [fpart idle g .store 0x200000 512] = false := by
  unfold Piece.Dram; decide +kernel
theorem test_heat : let s := win_ idle fun w => { w with warn := 80, crit := 100 }
    ((after (.thermalWarn 0 81) s).dev.die 0).win.thr = true ∧ ((after (.thermalWarn 0 80) s).dev.die 0).win.thr = false ∧
    ((after (.thermalRecovery 0 100) s).dev.failed = true) ∧ ((after (.thermalCrit 0 99) s).dev.die 0).win.thr = true ∧
    (after (.thermalCrit 0 99) s).dev.failed = false ∧ (after (.thermalCrit 0 100) s).dev.failed = true := by decide +kernel
/-- The last bytes of the LPDDR, the first past it; a tag that lags by 64 intervals, and one by 63. -/
theorem test_meets_HostAndScrubbers : idle.dev.storing = true ∧ 0x1000000000 ≤ (0x1000000000 : Nat) ∧ (0x3FFFFFFFF8 : Nat) + 8 ≤ 0x4000000000 ∧ ¬(0x3FFFFFFFF9 : Nat) + 8 ≤ 0x4000000000 ∧
    idle.dev.undoLacks (linesOf 0x1000000000 8) = false ∧ (win_ idle fun w => { w with undoCap := 0 }).dev.undoLacks (linesOf 0x1000000000 8) = true ∧
    idle.dev.carved (0x1000000000 / 64) = false ∧
    idle.dev.mem.wf = true ∧ ((64 - 0 : Int) % 256 = 64) ∧ (0 : Nat) / 2 ^ 46 = idle.dev.pkg.toNat * 8 + 0 ∧
    ((0 : Nat) - (idle.dev.tag 0).toNat : Int) % 256 = 1 := by decide +kernel
theorem test_scrub : let s := idle.setDev { idle.dev with rin := 64, tags := [(0, 0), (1, 1)] }
    (after (.metadataScrub 0 0) s).dev.tag 0 = 63 ∧ (after (.metadataScrub 0 1) s).dev.tag 1 = 1 ∧ (after (.patrolScrub 0 5) idle).dev.poison = [5] ∧
    (after (.hostWrite 0 0x1000000000 [7]) idle).dev.mem = [(0, 1), (0x1000000000, 7)] ∧ (after (.hostWrite 0 0x100 [7]) idle).dev.mem = [(0, 1)] ∧
    (after (.hostWrite 1 0x1000000000 [7]) idle).dev.mem = [(0, 1)] := by decide +kernel
/-! ### Witnesses: the fabric -/

/-- Die 0 with one request, as a strand of it waits for it. -/
noncomputable def onReq (r : Request) : State := cur_ (die_ onA fun x => { x with requests := [r] }) fun k => { k with st := 1, ld := 1 }
/-- R371 at its ages: below T/2, at T/2, at 2T and above it; a load; and a full log at the owner. -/
theorem test_meets_RemoteRequests : let s := onReq reqOne
    let T := 2 ^ (s.dev.die 0).win.ftimeout.toNat
    (s.dev.die 0).request 1 = some reqOne ∧ s.dev.maySend 0 reqOne = true ∧ reqOne.parts.length = 1 ∧ s.dev.storing = true ∧ 2 * 0 < T ∧ T ≤ 2 * 2 ^ 21 ∧
    2 ^ 23 ≤ 2 * T ∧ 2 * T < 2 ^ 23 + 1 ∧ s.dev.undoLacks (linesOf (2 ^ 52 + 0x100) 8) = false ∧ (reqOne.parts.map (·.strand)) = [none] ∧ (s.dev.die 0).strays = [] ∧ s.dev.mem.wf = true ∧
    (s.setDev (s.dev.onDie 1 fun x => { x with win := { x.win with undoCap := 0 } })).dev.undoLacks (linesOf (2 ^ 52 + 0x100) 8) = true ∧
    (die_ s fun x => { x with backoff := [(1, 16)] }).dev.maySend 0 reqOne = false ∧ 0 + 8 ≤ reqOne.bytes.length ∧
    (0x100 + 8 ≤ 0x800000000) ∧ (2 ^ 52 + 0x100) % 2 ^ 52 = 0x100 := by decide +kernel
/-- A load of those bytes, the second of which stands in a poisoned line, as its owner reads it. -/
theorem test_remote_load : let r : Request := { reqOne with kind := 0, onSt := false, bytes := List.replicate 8 0 }
    let s := onReq r
    let u := s.setDev { s.dev with mem := s.dev.mem.put (2 ^ 52 + 0x100) [1, 2, 3], poison := [2 ^ 46 + 4] }
    let t := after (.remoteRequest 0 1) u
    ((t.dev.die 0).requests.map fun q => (q.bytes, q.poison, q.performed)) = [([1, 2, 3, 0, 0, 0, 0, 0], [2 ^ 46 + 4], true)] := by decide +kernel
/-- A GFADD of the strand's, sent to the granary of a core of die 1 that holds no strand, at address 0x200000: it is performed there in
its name. -/
noncomputable def onRemoteAtomic : State :=
  let s := (atWord 0x518A3233).setDev { (atWord 0x518A3233).dev with
    maps := (atWord 0x518A3233).dev.maps ++ [{ asid := 0, base := 0x200000, units := 1, key := 2 ^ 52 + 0xFFF0401000000, attrs := 0xAF
                                               owner := .object 0x200000, charged := false }] }
  let r : Request := { reqOne with
    kind := 2, onSt := false, bytes := [], parts := [{ start := 0, len := 4, key := 2 ^ 52 + 0xFFF0401000000, pkind := 1, line := false, counted := false }] }
  me_ (cur_ (die_ (with_ (with_ s 3 0x200000) 5 7) fun x => { x with requests := [r] }) fun k => { k with ld := 1 }) fun x => { x with reply := some 1 }
theorem test_meets_RemoteRequests_atomic : let s := onRemoteAtomic
    let r := (s.dev.die 0).requests.headD reqOne
    let t := after (.remoteRequest 0 1) s
    s.cur.resident = true ∧ s.cur.named 0 r.stag.toNat r.six.toNat = true ∧ r.kind = 2 ∧ (s.performAtomic 0 s.cur r).isSome = true ∧
    r.from_ 0 s.cur = true ∧ ({ r with stag := 8 } : Request).from_ 0 s.cur = false ∧
    t.dev.mem.nat (2 ^ 52 + 0xFFF0401000000) 4 = 7 ∧ ((t.dev.die 0).requests.map fun q => (q.tag, q.performed, q.value)) = [(1, true, 0)] := by
  decide +kernel
/-- A copy's adding store of two INT32 words, and a request that comes 2T cycles late. -/
theorem test_remote_adding : let r : Request := { reqOne with job := true, mode := 1, bytes := natLe 4 5 ++ natLe 4 6 }
    let s := onReq r
    let u := s.setDev { s.dev with mem := s.dev.mem.put (2 ^ 52 + 0x100) (natLe 4 10) }
    let t := after (.remoteRequest 0 1) u
    t.dev.mem.nat (2 ^ 52 + 0x100) 4 = 15 ∧ t.dev.mem.nat (2 ^ 52 + 0x104) 4 = 6 ∧
    (copyResult 1 (natLe 4 10 ++ natLe 4 0) r.bytes).1.length = 8 ∧
    ((after (.reply 0 1) t).dev.die 0).requests.map (fun q => (q.job, q.replied)) = [(true, true)] ∧ (after (.reply 0 1) t).cur.st = 1 ∧
    ((after (.remoteRequest 0 1) (onReq { r with age := 2 ^ 23 + 1 })).dev.die 0).requests.map (fun q => (q.served, q.dropped)) = [(true, true)] := by
  decide +kernel
theorem test_remote_store : let t := after (.remoteRequest 0 1) (onReq reqOne)
    t.dev.mem.get (2 ^ 52 + 0x100) = 0x77 ∧ ((t.dev.die 0).requests.map fun r => (r.served, r.performed)) = [(true, true)] ∧
    (after (.remoteRequest 0 1) (onReq { reqOne with age := 2 ^ 21 })).dev.mem = onA.dev.mem ∧
    ((after (.remoteRequest 0 1) (onReq { reqOne with age := 2 ^ 23 + 1 })).dev.die 1).win.late = 1 := by decide +kernel
theorem test_backoff : let t := after (.refusalNotice 0 1) (onReq { reqOne with refusals := 8 })
    (t.dev.die 0).backoff = [(1, 4096)] ∧ ((after (.refusalNotice 0 1) (onReq reqOne)).dev.die 0).backoff = [(1, 16)] ∧
    reqOne.waitsFor = [1] ∧ (onReq reqOne).dev.maySendTo 0 reqOne 1 = true ∧ t.dev.maySendTo 0 reqOne 1 = false ∧ ({ reqOne with served := true } : Request).waitsFor = [] ∧
    ((after (.backoffExpiry 0 1) t).dev.die 0).backoff = [] := by decide +kernel
theorem test_meets_RepliesAndTimeouts : let r : Request := { reqOne with kind := 0, onSt := false, performed := true }
    let s := me_ (onReq r) fun x => { x with reply := some 1 }
    let T := 2 ^ (s.dev.die 0).win.ftimeout.toNat
    (s.dev.die 0).request 1 = some r ∧ s.cur.resident = true ∧ s.cur.id.die.toNat = 0 ∧ s.cur.id.stag = r.stag ∧ s.cur.id.six = r.six ∧
    s.cur.spec = none ∧ ((s.dev.die 0).requests.filter fun q => q.tag == 1) = [r] ∧ (s.dev.die 0).strays = [] ∧ r.fetched = [] ∧ (∀ p ∈ r.parts, p.line = false) ∧
    (s.dev.die 0).request 2 = none ∧ r.age < T ∧ T ≤ 2 ^ 22 ∧ s.cur.acc.reply = some 1 ∧
    (onReq reqOne).cur.acc.reply ≠ some 1 ∧ (onReq reqOne).cur.qstreams = [] := by decide +kernel
/-- Replies that come late: one T cycles after its request, and one of a request that has timed out, performed and not. -/
theorem test_meets_RepliesAndTimeouts_late : let y : Stray := { req := { reqOne with tag := 2, performed := true }, strand := none }
    let s := die_ (onReq { reqOne with age := 2 ^ 22, kind := 0, onSt := false, performed := true }) fun x => { x with strays := [y] }
    let u := die_ (onReq reqOne) fun x => { x with strays := [{ y with req := { reqOne with tag := 2 } }] }
    (s.dev.die 0).request 2 = none ∧ y.req.performed = true ∧ 2 ^ (s.dev.die 0).win.ftimeout.toNat ≤ 2 ^ 22 ∧
    ((after (.reply 0 1) s).dev.die 0).requests = (s.dev.die 0).requests ∧ ((after (.reply 0 2) s).dev.die 0).win.late = 1 ∧
    ((after (.reply 0 2) s).dev.die 0).strays = [] ∧ ((after (.reply 0 2) u).dev.die 0).win.late = 0 ∧
    ((after (.remoteTimeout 0 1) (onReq { reqOne with age := 2 ^ 22, performed := true })).dev.die 0).requests.length = 1 := by decide +kernel
/-- A copy's request that has had no answer for T cycles, and a load's answer that comes as late. -/
theorem test_meets_RepliesAndTimeouts_job : let r : Request := { reqOne with age := 2 ^ 22, job := true }
    let c : Card := { cardOne with kind := 8, phase := .running, tags := [1] }
    let s := cpq_ (onReq r) [c]
    let t := after (.remoteTimeout 0 1) s
    (s.cur.jobs.cpq.find? fun e => e.tags.contains 1 && !cardHeld s.cur.jobs.cpq e) = some c ∧ 2 ^ 22 ≤ r.age ∧ r.performed = false ∧
    (t.cur.faults.map fun f => (f.cause, f.src, f.faddr)) = [(0x11, 5, 8)] ∧ t.cur.frozen = true ∧ cardHeld t.cur.jobs.cpq c = true ∧
    (t.dev.die 0).requests = [] ∧
    ((after (.reply 0 1) (onReq { reqOne with age := 2 ^ 22, kind := 0, onSt := false, performed := true })).dev.die 0).requests.map (·.replied) = [false] := by
  decide +kernel
theorem test_timeouts : let t := after (.remoteTimeout 0 1) (onReq { reqOne with age := 2 ^ 22 })
    let u := after (.remoteTimeout 0 1) (me_ (onReq { reqOne with age := 2 ^ 22, kind := 0, onSt := false }) fun x => { x with reply := some 1 })
    (t.cur.deferred.map fun r => (r.cause, r.iaddr, r.faddr)) = [(0x11, 4, 8)] ∧ t.cur.st = 0 ∧ t.cur.frozen = false ∧
    u.cur.frozen = true ∧ (u.cur.faults.map (·.cause)) = [0x11] ∧ u.cur.ld = 0 ∧ (t.dev.die 0).gens = [(1, 1)] := by decide +kernel
/-- A line of die 1 with its first byte dirty, and a clean one. -/
def lineOne : CacheLine := { line := 2 ^ 46 + 4, tids := [0], data := 0xAABB, dirty := 1, present := -1 }
theorem test_meets_LineEviction : let s := die_ idle fun x => { x with lines := [lineOne] }
    (s.dev.die 0).lineFind (2 ^ 46 + 4) = some lineOne ∧ lineOne.dirty ≠ 0 ∧ s.dev.undoLacks [lineOne.line] = false ∧ s.dev.wayOpen 1 = true ∧ linePeer lineOne.line = 1 ∧ (s.dev.die 0).backoff = [] ∧
    (s.dev.die 0).requests = [] ∧ (s.dev.die 0).strays = [] ∧ s.dev.storing = true ∧
    (s.dev.die 0).lineFind 4 = none ∧ ({ lineOne with dirty := 0 } : CacheLine).dirty = 0 ∧ s.dev.mem.wf = true ∧
    (after (.lineEviction 0 (2 ^ 46 + 4)) s).dev.mem = [(0, 1), (2 ^ 52 + 0x100, 0xBB)] ∧ ((after (.lineEviction 0 (2 ^ 46 + 4)) s).dev.die 0).lines = [] := by
  decide +kernel
/-- A dirty line whose owner is backed off stays. -/
theorem test_line_held : let s := die_ idle fun x => { x with lines := [lineOne], backoff := [(1, 16)] }
    ((after (.lineEviction 0 (2 ^ 46 + 4)) s).dev.die 0).lines = [lineOne] ∧ ((1, 16) ∈ (s.dev.die 0).backoff) := by decide +kernel
/-- A multicast to two members, in chain mode, its first member due. -/
def castOne : Request :=
  { reqOne with kind := 3, onSt := false, parts := [], members := [(0, 0x100), (1, 0x7FFFFFFF8)], bitmap := 3, value := 3, chain := true }
theorem test_meets_Multicast : let s := onReq castOne
    (s.dev.die 0).request 1 = some castOne ∧ castOne.members[1]? = some (1, 0x7FFFFFFF8) ∧ castOne.members[0]? = some (0, 0x100) ∧
    castOne.bitmap.getLsbD 0 = true ∧ castOne.bytes.length = 8 ∧ s.dev.maySendTo 0 castOne 0 = true ∧ s.dev.maySendTo 0 castOne 1 = true ∧ 0 / 8 = s.dev.pkg.toNat ∧ s.dev.storing = true ∧ (0x7FFFFFFF8 : Nat) + 8 ≤ 0x800000000 ∧ s.dev.undoFull (0x100 / 64) = false ∧
    s.dev.mem.wf = true ∧ (s.dev.die 0).win.ftimeout = 22 ∧ (me_ s fun x => { x with reply := some 1 }).me.reply = some 1 := by decide +kernel
theorem test_multicast_chain : let s := onReq castOne
    let t := after (.multicastMemberWrite 0 1 0) s
    ((after (.multicastMemberWrite 0 1 1) s).dev.die 0).requests = [castOne] ∧ t.dev.mem.get 0x100 = 0x77 ∧
    ((t.dev.die 0).requests.map (·.bitmap)) = [2] ∧ ((after (.multicastMemberWrite 0 1 1) t).dev.die 0).requests.map (·.bitmap) = [0] ∧
    ((after (.multicastReply 0 1) (after (.multicastMemberWrite 0 1 1) t)).dev.die 0).requests.map (·.replied) = [true] := by decide +kernel
/-- In native mode the write and its acknowledgement are two moves; the second comes in time until 2^14 cycles before T, at which the
reply names the members that are left; and the time-out answers as well. -/
theorem test_multicast_native : let c : Request := { castOne with chain := false }
    let s := onReq c
    let t := after (.multicastMemberWrite 0 1 1) s
    let u := after (.multicastMemberWrite 0 1 1) t
    let late (s : State) : State := die_ s fun x => { x with requests := x.requests.map fun q => { q with age := 2 ^ 22 - 2 ^ 14 } }
    ((t.dev.die 0).requests.map fun q => (q.wrote, q.bitmap)) = [(2, 3)] ∧ ((u.dev.die 0).requests.map fun q => (q.wrote, q.bitmap)) = [(2, 1)] ∧
    ((after (.multicastMemberWrite 0 1 1) (late t)).dev.die 0).requests.map (·.bitmap) = [3] ∧
    ((after (.multicastReply 0 1) (late t)).dev.die 0).requests.map (fun q => (q.replied, q.value)) = [(true, 3)] ∧
    ((after (.multicastReply 0 1) t).dev.die 0).requests.map (·.replied) = [false] ∧ c.from_ 0 s.cur = true ∧ (s.dev.die 0).strays = [] ∧
    (let d := die_ s fun x => { x with requests := x.requests.map fun q => { q with age := 2 ^ 22 } }
     ((after (.remoteTimeout 0 1) d).dev.die 0).requests.map (fun q => (q.tag, q.replied, q.value)) = [(4097, true, 3)]) := by decide +kernel
theorem test_mstore_returns : let s := me_ (onReq { castOne with replied := true, bitmap := 2, value := 2 }) fun x => { x with reply := some 1 }
    s.myDie.request 1 = some { castOne with replied := true, bitmap := 2, value := 2 } ∧ castOne.onSt = false ∧ ((after (.mstore 4 2 3) s).myDie.strays.map fun y => y.req.tag) = [1] ∧ (after (.mstore 4 2 3) s).rd 4 = 2 ∧
    (after (.mstore 4 2 3) s).cur.ld = 0 ∧ (after (.mstore 4 2 3) s).myDie.requests = [] := by decide +kernel
/-- Two entries of one address space, one on the page that is shot down. -/
theorem test_meets_Shootdown : let e : TlbEntry := { asid := 5, page := 0x20, leaf := 0, level := 3, seen := [0x20] }
    let s := die_ idle fun x => { x with tlb := [e, { e with page := 0x21 }], l1 := [(3, [e])], win := { x.win with xsva := 0x200000 } }
    let t := after (.xshoot .firmware 0 5) s
    (s.dev.die 0).win.xsBusy = false ∧ (5 : Word).toNat / 2 ^ 18 % 4 < 2 ∧ 2 ≤ (0x80000 : Word).toNat / 2 ^ 18 % 4 ∧ (t.dev.die 0).win.xsBusy = true ∧
    (t.dev.die 0).win.xsOp.getLsbD 18 = false ∧ ((after (.xshoot .firmware 0 0x40005) s).dev.die 0).win.xsOp.getLsbD 18 = true ∧
    (∀ r ∈ (t.dev.die 0).requests, r.performed = true) ∧ ((after (.shootdownComplete 0) t).dev.die 0).tlb = [{ e with page := 0x21 }] ∧ ((after (.shootdownComplete 0) t).dev.die 0).l1 = [(3, [])] ∧
    t.streamsUnder (t.dev.die 0).win.xsOp [0] = false ∧ (∀ k ∈ t.cur :: t.others, k.qstreams = []) ∧
    ((after (.shootdownComplete 0) t).dev.die 0).win.xsDone = 1 ∧ (∃ r ∈ ([reqOne] : List Request), r.performed = false ∧ r.replied = false) := by
  decide +kernel
/-- An STQ whose elements lie on the page that is shot down. -/
theorem test_meets_Shootdown_streams : let s := cur_ onPage fun k => { k with qstreams := [stqAt 0x200100 [1]] }
    let t := after (.xshoot .firmware 0 0) (win_ s fun w => { w with xsva := 0x200000 })
    t.streamsUnder (t.dev.die 0).win.xsOp [0] = true ∧ (t.dev.die 0).win.xsBusy = true ∧
    ((after (.shootdownComplete 0) t).dev.die 0).win.xsBusy = true := by decide +kernel
/-- An atomic that has timed out and is still under way: the shoot-down waits for it, as for its stray store it does not. -/
theorem test_meets_Shootdown_strays : let y (k : BitVec 2) : Stray := { req := { reqOne with kind := k }, strand := none }
    let s (k : BitVec 2) := die_ (win_ idle fun w => { w with xsBusy := true, xsva := 0x200000, xsOp := 0x2000005 }) fun x => { x with strays := [y k] }
    (y 2).req.performed = false ∧ (y 2).req.replied = false ∧ ((after (.shootdownComplete 0) (s 2)).dev.die 0).win.xsBusy = true ∧
    ((after (.shootdownComplete 0) (s 1)).dev.die 0).win.xsBusy = false := by decide +kernel
/-- The tables of address space 0, all of die 0: one page of 64 KiB at 0x200000 in the frame at 0x300000, in mode 10, whose
migration to die 1 is asked for. -/
def onMove : State :=
  let m : Memory := ((((Memory.put [] 0 (natLe 8 0x10001)).put 0x10000 (natLe 8 0x12001)).put 0x12000 (natLe 8 0x14001)).put 0x14000
    (natLe 8 0x16001)).put 0x16100 (natLe 8 0x30042F)
  die_ (State.reset.setDev { State.reset.dev with mem := m.put 0x300000 [1, 2, 3] }) fun x => { x with migQueue := [(0x30, 1)] }
theorem test_meets_Migration : let e := 0x30042F
    ((onMove.enter { die := 0, tid := 0, asid := 0, sys := true }).walk 0 0x200000).2 = some (e, 3) ∧ e / 512 % 4 = 2 ∧
    (e / 2 ^ 52 % 2048) / 8 = onMove.dev.pkg.toNat ∧ onMove.dev.storing = true ∧ (onMove.dev.die (e / 2 ^ 52 % 2048 % 8)).migQueue = [(0x30, 1)] ∧
    e / 2 ^ 13 % 8 = 0 ∧ ((e / 2 ^ 52 % 2048) * 2 ^ 52 + e % 2 ^ 52 / 2 ^ 13 * 2 ^ 13) / 65536 = 0x30 ∧ onMove.dev.mem.wf = true ∧
    0x16100 + 8 ≤ 2 ^ 52 + 0x500000 ∧ onMove.dev.reachesUnit 0x30 = false ∧
    (die_ onMove fun x => { x with requests := [{ reqOne with parts := [{ start := 0, len := 8, key := 0x300100, pkind := 0, line := false, counted := false }] }] }).dev.reachesUnit 0x30 = true ∧ (∀ d < 8, (idle.dev.die d).migQueue = []) := by decide +kernel
theorem test_meets_Migration_leaves : (onMove.dev.roots.flatMap fun r => leavesOf onMove.dev.mem 0x30 4 0 r) = [(0x16100, 3, 0x30042F)] := by
  have hr : onMove.dev.roots = [0x10000] := by decide +kernel
  rw [hr, List.flatMap_singleton, leavesOf_one 0 (by decide) (by decide +kernel)]
  refine (if_neg (by decide +kernel)).trans ((if_neg (by decide +kernel)).trans ?_)
  refine (leavesOf_one 0 (by decide) (by decide +kernel)).trans ?_
  refine (if_neg (by decide +kernel)).trans ((if_neg (by decide +kernel)).trans ?_)
  refine (leavesOf_one 0 (by decide) (by decide +kernel)).trans ?_
  refine (if_neg (by decide +kernel)).trans ((if_neg (by decide +kernel)).trans ?_)
  refine (leavesOf_one 32 (by decide) (by decide +kernel)).trans ?_
  decide +kernel
/-- The frame it may move to, one that firmware maps, and what no leaf names. -/
theorem test_meets_Migration_frame : onMove.dev.frameFree 1 0x500000 65536 = true ∧ idle.dev.frameFree 0 0x300000 65536 = false ∧
    (0x500000 : Nat) + 65536 ≤ 0x800000000 := by decide +kernel
theorem test_meets_Migration_target : (onMove.dev.roots.flatMap fun r => leavesOf onMove.dev.mem (2 ^ 36 + 0x50) 4 0 r) = [] := by
  have hr : onMove.dev.roots = [0x10000] := by decide +kernel
  rw [hr, List.flatMap_singleton, leavesOf_one 0 (by decide) (by decide +kernel)]
  refine (if_neg (by decide +kernel)).trans ((if_neg (by decide +kernel)).trans ?_)
  refine (leavesOf_one 0 (by decide) (by decide +kernel)).trans ?_
  refine (if_neg (by decide +kernel)).trans ((if_neg (by decide +kernel)).trans ?_)
  refine (leavesOf_one 0 (by decide) (by decide +kernel)).trans ?_
  refine (if_neg (by decide +kernel)).trans ((if_neg (by decide +kernel)).trans ?_)
  refine (leavesOf_one 32 (by decide) (by decide +kernel)).trans ?_
  decide +kernel
/-- A dirty line of the moved page and an entry that waits for the seal go with it. -/
theorem test_move_unit : let x : Die := { onMove.dev.die 1 with lines := [{ lineOne with line := 0x30 * 1024 + 5 }] }
    (x.moveUnit 0x30 (2 ^ 52 + 0x500000)).lines.map (·.line) = [(2 ^ 36 + 0x50) * 1024 + 5] := by decide +kernel
/-- A link that is up and about to send, under a slot whose counter is at its last value before a rotation is asked for. -/
def linkOne : Link :=
  { keys := #v[1, 2], salts := #v[3, 4], installed := #v[true, false], ctr := #v[2 ^ 40 - 2 ^ 20 - 1, 0], txSlot := 0, nextSeq := 3, retry := [], inFlight := [], rxNext := 3
    rxSlot := 0, fails := 0, discarding := false, rotate := false, up := true }
def onLink (l : Link) : State := idle.setDev { idle.dev with links := [l] }
theorem test_meets_LinkFlits : (onLink linkOne).dev.links[0]? = some linkOne ∧ linkOne.rxNext = linkOne.nextSeq ∧ linkOne.rxSlot = linkOne.txSlot ∧
    vget linkOne.ctr linkOne.txSlot.toNat 0 < 2 ^ 40 ∧ vget linkOne.installed linkOne.txSlot.toNat false = true ∧
    vget linkOne.installed (~~~linkOne.txSlot).toNat false = false ∧ linkOne.fails < 2 ∧ (onLink linkOne).dev.failed = false := by decide +kernel
/-- A slot that is used up, and keys that wait in the other one. -/
theorem test_meets_LinkFlits_slots : let l : Link := { linkOne with installed := #v[false, true] }
    vget l.installed l.txSlot.toNat false = false ∧ vget l.installed (~~~l.txSlot).toNat false = true ∧
    (after (.dataFlit 0 true) (onLink l)).dev.links = [l] ∧ (after (.rotationRequest 0) (onLink { l with rotate := true })).dev.links = [{ l with rotate := true }] := by
  decide +kernel
theorem test_flits : let one := (after (.dataFlit 0 true) (onLink linkOne)).dev.links
    let two := (after (.dataFlit 0 true) (after (.dataFlit 0 true) (onLink linkOne))).dev.links
    (one.map fun l => (l.rxNext, l.retry.length, l.rotate)) = [(4, 1, false)] ∧ (two.map fun l => (l.rxNext, l.retry.length, l.rotate)) = [(5, 2, true)] ∧
    ((after (.dataFlit 0 false) (onLink linkOne)).dev.links.map fun l => (l.fails, l.discarding, l.rxNext)) = [(1, true, 3)] ∧
    ((after (.dataFlit 0 false) (onLink { linkOne with fails := 2 })).dev.links.map (·.up)) = [false] := by decide +kernel
theorem test_marker : let l : Link := { linkOne with rotate := true }
    let t := after (.rotationRequest 0) (onLink l)
    t.fresh = (onLink l).fresh + 1 ∧ (t.dev.links.map fun l => vget l.installed 1 false) = [true] ∧ ((after (.marker 0 true) t).dev.links.map fun l => (l.txSlot, l.rxSlot)) = [(1, 1)] ∧
    (after (.marker 0 true) (onLink l)).dev.links = [l] := by decide +kernel
/-- Two flits that wait, of which the receiver has accepted the first and refused the second. -/
theorem test_meets_LinkControl : let l : Link := { linkOne with retry := [(1, false, 0, 7), (2, false, 0, 8)], rxNext := 2, discarding := true }
    (after (.acknowledgement 0 1) (onLink l)).dev.links.map (·.retry) = [[(2, false, 0, 8)]] ∧
    (after (.acknowledgement 0 2) (onLink l)).dev.links = [l] ∧
    (after (.negativeAcknowledgement 0 2) (onLink l)).dev.links.map (·.inFlight) = [[(2, false, 0, 8)]] ∧ (onLink l).dev.links[0]? = some l ∧
    ((after (.packageRingLinkDown 0) (onLink l)).dev.links.map (·.up)) = [false] := by decide +kernel

/-! ### Witnesses: seals and rollback -/

/-- A checkpoint that holds one persistent region of 64 bytes. -/
def checkOne : Checkpoint :=
  { rin := 0, persist := [((0x400, 64), [(3, 9)])], tents := [], maps := [], instances := [], tasks := [], sheaves := [], images := [], ready := []
    seqs := [], kicks := [], lastKicks := [], eosWait := [], pages := [(0x400, 64, 0)] }
/-- A machine in which a seal may be taken, with every die at a phase. -/
def seal_ (p : BitVec 3) : State :=
  let s := open_ idle
  s.setDev { s.dev with dies := s.dev.dies.map fun x => { x with sph := p } }
theorem quiet_idle : State.quiet (seal_ 2) = true := by decide +kernel
theorem test_meets_SealPhases : let s := seal_ 0
    s.dev.man.isOpen = true ∧ s.dev.failed = false ∧ (∀ d < 8, (s.dev.die d).rph = 0) ∧ (∀ d < 8, (s.dev.die d).sph = 0) ∧
    (∀ d < 8, ((seal_ 3).dev.die d).sph = 3) ∧ s.dev.sealReq = false ∧ s.dev.specs = [] ∧ s.dev.sealw = [] ∧ (∀ h ∈ s.dev.sheaves, h.saved = true) ∧
    idle.dev.man.isOpen = false ∧ ((seal_ 3).dev.die 0).voted = false ∧ (seal_ 2).dev.die 7 ≠ (seal_ 3).dev.die 7 ∧
    State.quiet (open_ onC) = false := by decide +kernel
/-- A dirty line that meets a full undo log keeps FLUSH waiting. -/
theorem test_meets_SealPhases_full : let s := die_ (seal_ 2) fun x => { x with lines := [lineOne] }
    let u := s.setDev (s.dev.onDie 1 fun x => { x with win := { x.win with undoCap := 0 } })
    s.dev.dirtyLines = [2 ^ 46 + 4] ∧ u.dev.undoLacks u.dev.dirtyLines = true ∧ ((after .flush u).dev.die 0).sph = 2 := by decide +kernel
theorem master_pkg0 {d : Device} (h : d.pkg = 0) : d.masterPkg = true := by
  simp [Device.masterPkg, h]
theorem test_meets_SealPhases_master : (seal_ 0).dev.masterPkg = true ∧ ((seal_ 0).setDev { (seal_ 0).dev with sealReq := true }).dev.sealReq = true :=
  ⟨master_pkg0 (by decide +kernel), rfl⟩
/-- A strand in a SEALW of four bytes to a page that only releases reach, saved, as the seal that it forces comes to its commit. -/
def sealwOne : SealwReq := { die := 0, stag := 0, six := 0, ea := 0x200008, bytes := [1, 2, 3, 4], d := 6, committed := false, out := [] }
noncomputable def onSealw (p : BitVec 3) (q : SealwReq) : State :=
  let s := open_ (page_ onA 0xEF)
  { s with
    cur := { s.cur.vacate with ctxSt := 0 }
    dev := { s.dev with sealw := [q], images := [{ s.cur with ld := 1 }], pending := some checkOne
                        dies := s.dev.dies.map fun x => { x with sph := p, voted := true } } }
theorem test_meets_SealwCompletes : let s := onSealw 4 sealwOne
    let k := { (page_ onA 0xEF).cur with ld := 1 }
    let c := (s.enter k.agent).check .store 1 false 0x200008 4
    s.dev.man.isOpen = true ∧ s.dev.failed = false ∧ (∀ d < 8, (s.dev.die d).rph = 0) ∧ s.dev.sealw = [sealwOne] ∧
    s.dev.pending = some checkOne ∧ (∀ d < 8, (s.dev.die d).sph = 4 ∧ (s.dev.die d).voted = true) ∧ s.dev.images = [k] ∧
    sealwOne.isOf k = true ∧ c = .ok [part c] ∧ (part c).hit.loc = .phys (pageKey + 8) ∧ (part c).start = 0 ∧ (part c).len = 4 := by decide +kernel
theorem test_sealw : let t := after .commit (onSealw 4 sealwOne)
    let q : SealwReq := { sealwOne with committed := true, out := [(pageKey + 8, 1), (pageKey + 9, 2), (pageKey + 10, 3), (pageKey + 11, 4)] }
    let u := after .release (onSealw 5 q)
    (t.dev.images.map fun k => (k.acc.get 6, k.acc.pc, k.ld)) = [(1, fetchBase + 8, 0)] ∧ t.dev.sealw = [q] ∧ t.dev.rin = 1 ∧
    q.committed = true ∧ (pageKey + 8) % 64 + 4 ≤ 64 ∧ (∀ d < 8, ((onSealw 5 q).dev.die d).sph = 5 ∧ ((onSealw 5 q).dev.die d).egress = []) ∧
    u.dev.sealw = [] ∧ u.dev.mem.nat (pageKey + 8) 4 = 0x04030201 := by decide +kernel
theorem noLines_idle : (seal_ 2).dev.NoLines := fun n h => (show ∀ n < 8, ((seal_ 2).dev.die n).lines = [] by decide +kernel) n h
/-- R414: one seal from the request to the end: RIN rises by one on every die and the checkpoint is in force. -/
theorem test_one_seal : let s0 := after .barrier ((seal_ 0).setDev { (seal_ 0).dev with sealReq := true })
    let s1 := after .flush (after .preempt s0)
    let s2 := (List.range 8).foldl (fun s n => after (.vote n) s) s1
    let s3 := after .commit s2
    let s4 := after .release s3
    (s0.dev.die 0).sph = 1 ∧ (s1.dev.die 7).sph = 3 ∧ (after .commit s1).dev.rin = 0 ∧ s3.dev.rin = 1 ∧ (s3.dev.checkpoint.map (·.rin)) = some 1 ∧
    (s4.dev.die 3).sph = 0 ∧ (s4.dev.die 3).voted = false ∧ (s4.dev.die 0).win.seals = 1 ∧ s4.dev.sealReq = false := by decide +kernel
def onVoted (p : BitVec 3) : State :=
  let s := seal_ p
  s.setDev { s.dev with pending := some checkOne, dies := s.dev.dies.map fun x => { x with voted := true } }
theorem test_meets_SealCommit : (onVoted 4).dev.pending = some checkOne ∧ (∀ d < 8, ((onVoted 4).dev.die d).sph = 4 ∧ ((onVoted 4).dev.die d).voted = true) ∧
    (∀ d < 8, ((onVoted 5).dev.die d).sph = 5) ∧ (∀ d < 8, ((onVoted 5).dev.die d).egress = []) ∧ (onVoted 4).dev.sealw = [] ∧
    (seal_ 4).dev.pending = none := by decide +kernel
theorem test_meets_RollbackClears : idle.dev.failed = false ∧ (after (.rbreq .firmware 0) onC).cur.resident = false ∧
    (after (.sreq .firmware 0) idle).dev.sealReq = true ∧ (∀ e < 8, (onC.dev.die e).egress = []) ∧ onC.dev.sealw = [] ∧ idle.dev.lost = false := by decide +kernel
/-- The record of a consumer keeps its die at REDISPATCH; an error in the undo log leaves no rollback but FAIL. -/
theorem test_meets_RollbackClears_lost : let s := idle.setDev ({ idle.dev with poison := [0] }.onDie 0 fun x => { x with win := { x.win with undoCap := 64, bootStep := 7 } })
    ((idle.rollback [] [waiting]).dev.die 0).rph = 6 ∧ ((idle.rollback [] [waiting]).dev.die 1).rph = 0 ∧
    s.dev.lost = true ∧ (s.rollback [] []).dev.failed = true ∧ ((s.rollback [] []).dev.die 3).rph = 7 := by decide +kernel
/-- A write of the last bytes of a line, and the entry that undoes it. -/
theorem test_meets_UndoRestores : let d := { idle.dev with mem := [(0x13F, 5)] }
    d.mem.wf = true ∧ 0x13C % 64 + 4 ≤ 64 ∧ d.logged 4 = false ∧ d.carved 4 = false ∧ 4 / 2 ^ 46 / 8 = d.pkg.toNat ∧
    (d.dramWrite 0x13C [1, 2, 3, 4]).mem = [(0x13C, 1), (0x13D, 2), (0x13E, 3), (0x13F, 4)] ∧
    (((d.dramWrite 0x13C [1, 2, 3, 4]).die 0).undo.map fun e => ((d.dramWrite 0x13C [1, 2, 3, 4]).undoOne e).mem) = [[(0x13F, 5)]] := by
  decide +kernel
/-- The same for a line of package 1, whose entry is kept for it here. -/
theorem test_meets_UndoRestores_away : let d := { idle.dev with mem := [(8 * 2 ^ 52 + 0x13F, 5)] }
    let k := 8 * 2 ^ 52 + 0x13C
    d.mem.wf = true ∧ k % 64 + 4 ≤ 64 ∧ d.logged (k / 64) = false ∧ d.carved (k / 64) = false ∧ k / 64 / 2 ^ 46 / 8 ≠ d.pkg.toNat ∧
    ((d.dramWrite k [1]).away.map fun e => e.line) = [k / 64] := by decide +kernel
theorem test_meets_RollbackRestores : let s := idle.setDev { idle.dev with checkpoint := some checkOne, mem := [(0x402, 7), (0x440, 8)] }
    s.dev.checkpoint = some checkOne ∧ s.dev.specs = [] ∧ s.dev.lost = false ∧ s.dev.sealw = [] ∧ s.dev.away = [] ∧ s.dev.mem.wf = true ∧ (∀ d < 8, (s.dev.die d).undo = [] ∧ (s.dev.die d).egress = []) ∧
    Memory.wf [(3, 9)] = true ∧ (s.rollback [] []).dev.mem = [(0x403, 9), (0x440, 8)] := by decide +kernel
/-! ### Witnesses: the supervisor -/

/-- A tent that asks for a persistent region of 4,096 bytes on die 0, and values that no tent may have. -/
def tentSpec : TentSpec :=
  { tid := 5, asid := 1, ceiling := 9, home := 7, qstk := 1, qlp := 1, unsigned := false, persist := [(0, 4096)], graphRings := [] }
theorem test_meets_Tents : let s := idle.setDev { idle.dev with tents := [tentOne], tasks := [taskOne] }
    tentSpec.tid < 256 ∧ 1 ≤ tentSpec.asid ∧ tentSpec.ceiling.toNat ≤ 9 ∧ tentSpec.home < 8 ∧ (∀ p ∈ tentSpec.persist, p.1 < 8 ∧ 64 ≤ p.2 ∧ p.2 ≤ 458752) ∧
    s.dev.tent 5 = none ∧ s.dev.tent 0 = some tentOne ∧ idle.dev.persistPages = [] ∧ idle.dev.mem.wf = true ∧
    (∀ o ∈ idle.cur :: idle.others, o.resident = false) ∧ (s.dev.tasks.map (·.num)).Nodup ∧ (2 : BitVec 4).toNat < tentOne.ceiling.toNat ∧
    ((after (.ceilingLowering 0 2) s).dev.tasks.map (·.pri)) = [2] ∧ ((after (.limitChange 0 1 7) s).dev.tents.map (·.limLp)) = [7] := by
  decide +kernel
theorem test_tent_created : let t := after (.tentCreation tentSpec) idle
    (t.dev.tents.map (·.tid)) = [5] ∧ t.dev.persistPages = [(0xFFF03F1060000, 4096, 5)] ∧
    (after (.tentCreation { tentSpec with ceiling := 10 }) idle).dev.tents = [] ∧
    (after (.tentCreation { tentSpec with asid := 0 }) idle).dev.tents = [] := by decide +kernel
/-- A sheaf that a grant may name, an entry that was revoked, and one that lives. -/
theorem test_meets_Grants : let g : GrantSpec := { stag := 0, six := 0, obj := 1, lo := 0, hi := 64, right := 1, tid := 5 }
    let s := idle.setDev { idle.dev with sheaves := [sheafOne] }
    let t := after (.grantCreate 0 4095 g) s
    let u := after (.grantRevocation 0 4095) t
    s.dev.sheaf 0 0 ≠ none ∧ (s.dev.die 0).grants = [] ∧ ((t.dev.die 0).grants.map fun e => (e.idx, e.live, e.gen)) = [(4095, true, 0)] ∧
    ((u.dev.die 0).grants.map fun e => (e.live, e.gen)) = [(false, 1)] ∧
    (((after (.grantCreate 0 4095 g) u).dev.die 0).grants.map fun e => (e.live, e.gen)) = [(true, 1)] ∧
    (after (.grantCreate 0 4095 g) t).dev.die 0 = t.dev.die 0 ∧ ((after (.grantCreate 0 4096 g) s).dev.die 0).grants = [] := by decide +kernel
/-- A granary of a host core mapped at 0x700000, and a ring of 1 KiB on the page with its block there. -/
def onHost : State :=
  let s := idle.setDev { idle.dev with tents := [tentOne] }
  s.setDev { s.dev with maps := s.dev.maps ++ [{ asid := 0, base := 0x700000, units := 1, key := hostGran, attrs := 0xAF
                                                 owner := .object 0x700000, charged := false }] }
def ringSpec : RingSpec :=
  { mailbox := false, tid := 0, q := 1, producer := 0, cap := 1024, scope := 3, notify := 0, notifyQ := 0, rcb := 0x700000, buf := 0x200000 }
/-- A mailbox whose producer is the tent itself. -/
def mailSpec : RingSpec := { ringSpec with mailbox := true }
theorem test_meets_RingRegistration : let ps := parts ((onHost.enter tentOne.agent).check .store 1 false 0x200000 1024)
    onHost.dev.tent 0 = some tentOne ∧ onHost.dev.tent 5 = none ∧ ringSpecOk tentOne ringSpec = true ∧ onHost.blockPlace tentOne.agent 0x700000 = some hostGran ∧
    (onHost.enter tentOne.agent).check .store 1 false 0x200000 1024 = .ok ps ∧ ringSpecOk tentOne { ringSpec with q := 8 } = false ∧
    ringSpecOk tentOne mailSpec = true ∧ onHost.producerReaches mailSpec = true ∧ onHost.producerReaches { mailSpec with producer := 5 } = false ∧
    (onHost.enter tentOne.agent).check .store 1 false 0x300000 1024 = .fault 0x04 0x300000 := by decide +kernel
theorem test_meets_RingRegistration_commit :
    ∃ v, (onHost.enter tentOne.agent).commitAll 0x200000 1 (parts ((onHost.enter tentOne.agent).check .store 1 false 0x200000 1024)) = .done v ∧
      v.dev.mem.wf = true := ⟨onHost.enter tentOne.agent, rfl, by decide +kernel⟩
theorem test_registration : let t := after (.ringRegistration ringSpec) onHost
    (t.dev.tents.map (·.rings)) = [[(1, BitVec.ofNat 64 hostGran)]] ∧ (t.dev.tents.map (·.handles)) = [[(1, 0x700000)]] ∧ t.dev.mem.nat (hostGran + 0x20) 8 = 0x200000 ∧
    (t.rcbAt (.phys hostGran)).cap = 1024 ∧ (t.rcbAt (.phys hostGran)).bad = false := by decide +kernel
/-- A notice of each kind for the strand that a mailbox's NTF names. -/
noncomputable def onNotice (ntf : Nat) : State :=
  onC.setDev { onC.dev with
    notices := [(hostGran, [1, 2, 3])], tents := [{ tentOne with mailboxes := [BitVec.ofNat 64 hostGran] }]
    mem := onC.dev.mem.put hostGran ({ trapRing 0 with ntf := BitVec.ofNat 64 ntf, ctl := 0x0005000B } : Rcb).bytes }
theorem test_meets_MailboxNotices : let s := onNotice (1 + 5 * 4)
    s.dev.notices[0]? = some (hostGran, [1, 2, 3]) ∧ (s.rcbAt (.phys hostGran)).ntf.toNat % 4 = 1 ∧ s.cur.resident = true ∧ s.cur.ended = false ∧
    s.dev.pkg = 0 ∧ s.cur.id.die = 0 ∧ s.cur.id.stag = 0 ∧ s.cur.id.six = 0 ∧ (after (.mailboxNotify 0) s).cur.ui.pend = 1 ∧
    (after (.mailboxNotify 0) s).cur.ui.srcs = 4 ∧ (after (.mailboxNotify 0) s).dev.notices = [] ∧
    (after (.mailboxNotify 0) (onNotice 0)).cur = (onNotice 0).cur ∧
    ((after (.mailboxNotify 0) (onNotice (2 + 5 * 4))).cur.jobs.fills.map fun f => (f.tile, f.bytes)) = [(5, [(0, 1), (1, 2), (2, 3)])] ∧
    ((after (.mailboxNotify 0) ((onNotice (3 + 2 * 64)).setDev { (onNotice (3 + 2 * 64)).dev with
      tents := [{ tentOne with tid := 5, mailboxes := [BitVec.ofNat 64 hostGran] }] })).dev.die 0).kicks = [42] ∧
    s.dev.storing = true ∧ (s.dev.tents.find? (fun t => t.mailboxes.contains (BitVec.ofNat 64 hostGran))).map (·.tid) = some 0 ∧ s.cur.id.tid = 0 ∧
    s.cur.id.sys = false := by decide +kernel
/-- A block that is registered for no tent, and a strand that is another tent's. -/
theorem test_meets_MailboxNotices_foreign : let s := onNotice (1 + 5 * 4)
    let u := s.setDev { s.dev with tents := [tentOne] }
    let v := cur_ s fun k => { k with id := { k.id with tid := 4 } }
    (∀ t ∈ u.dev.tents, BitVec.ofNat 64 hostGran ∉ t.mailboxes) ∧ (after (.mailboxNotify 0) u).cur.ui.pend = 0 ∧
    (after (.mailboxNotify 0) u).dev.notices = [] ∧ (∀ x ∈ v.cur :: v.others ++ v.dev.images, x.id.tid.toNat ≠ 0) ∧
    (after (.mailboxNotify 0) v).cur.ui.pend = 0 ∧ (die_ s fun x => { x with sph := 4 }).dev.storing = false := by decide +kernel

/-! ### Witnesses: dispatchers, nodes, replay, prediction -/

theorem test_meets_DispatcherSlots : let s := die_ (open_ idle) fun x => { x with slot0 := { x.slot0 with fifo := [4, 5] } }
    s.dev.reading = true ∧ ((s.dev.die 0).slot 0).fifo = 4 :: [5] ∧ ((s.dev.die 0).slot 0).journal.length < 262144 ∧ s.dev.failed = false ∧
    (s.dev.die 0).win.sbv = true ∧ (win_ s fun w => { w with sbv := false }).myDie.win.sbv = false ∧ (s.dev.die 0).slot0.core ≠ (s.dev.die 0).slot1.core ∧
    ((after (.complete 0 0) s).dev.die 0).slot0.fifo = [5] ∧ (((after (.complete 0 0) s).dev.die 0).slot0.journal.map fun r => (r.kind, r.body)) = [(4, [4])] ∧
    ((after (.dispatcherFailure 0 0) s).dev.die 0).slot0.core = 2 ∧ ((after (.dispatcherFailure 0 0) s).dev.die 0).win.tko = 1 := by decide +kernel
theorem test_meets_DispatcherSlots_snap (r : JournalRec) : 262144 ≤ (List.replicate 262144 r).length := by rw [List.length_replicate]
/-- A journal that both copies hold, and one whose last record stands in one copy alone; what a snapshot would hold fits. -/
def recAt (seq : Nat) : JournalRec := { seq := seq, kind := 4, tid := 0, inst := 0, body := [9] }
def copyOf (l : List JournalRec) : Memory := l.foldl (fun m r => Memory.blit m r.offset r.bytes) []
def onJournal (b : Bool) : State := die_ idle fun x => { x with slot0 := { x.slot0 with
  journal := [recAt 6, recAt 7], ringA := copyOf [recAt 6, recAt 7], ringB := copyOf (if b then [recAt 6, recAt 7] else [recAt 6]), seq := 8, lastKick := 3 } }
theorem test_meets_DispatcherSlots_journal : (idle.dev.slotWords 0 0).length ≤ 9 * 524288 ∧
    (∀ r ∈ [recAt 6, recAt 7], (onJournal true).dev.committedRec 0 0 r = true) ∧ (recAt 6).seq + 2 = 8 ∧ (recAt 7).seq + 2 = 8 + 1 ∧
    (onJournal false).myDie.slot0.journal = [recAt 6] ++ recAt 7 :: [] ∧ (onJournal false).dev.committedRec 0 0 (recAt 7) = false ∧
    idle.dev.lost = false ∧ (recAt 7).bytes.length = 64 ∧
    (after (.dispatcherFailure 0 0) (onJournal true)).myDie.slot0.journal.length = 2 ∧
    (after (.dispatcherFailure 0 0) (onJournal false)).myDie.slot0.journal.map (·.seq) = [6] ∧
    (after (.dispatcherFailure 0 0) (onJournal false)).myDie.slot0.lastKick = 3 := by decide +kernel
/-- One unit ready for a task whose kernel object is gone, and dispatch open. -/
def unitOne : DispUnit := { task := 0, sheaves := [(0, 0, 0, 0)], level := 3, stamp := 0, popmark := 0, bank := 0, saved := false, clus := 0 }
def onReady : State := die_ (open_ (idle.setDev { idle.dev with tasks := [taskOne] })) fun x => { x with ready := [unitOne] }
theorem test_meets_Dispatching : onReady.dev.dispatchOpen 0 = true ∧ (onReady.dev.die 0).ready = [unitOne] ∧ (onReady.dev.die 0).slot0.held = [] ∧
    (onReady.dev.die 0).slot1.held = [] ∧ ((onReady.dev.die 0).take.map fun y => (y.1, y.2.ready)) = some (unitOne, []) ∧
    onReady.dev.task 0 = some taskOne ∧ onReady.dev.instance_ 0 = none ∧ idle.dev.dispatchOpen 0 = false ∧ unitOne.level < 12 := by decide +kernel
theorem test_meets_Dispatching_placed : onReady.placeUnit 0 unitOne = .ok onReady := rfl
/-- The core of a strand is named by its number of 0 to 511. -/
theorem test_meets_StrandStart : let o : CodeObj := { asid := 0, base := 0x100000, len := 8, sys := false, entries := #v[0, 4, 0xFFFFFFFF], starts := [0, 4]
                                                      attr := [], digest := 0, rin := 0 }
    let k := newStrand idle.dev { taskOne with args := [7, 8] } o sheafOne 1 511 5 6
    attrWpf o.attr = [] ∧ k.id.coreNum = 511 ∧ k.acc.pc = 0x100004 ∧ k.exe.run = .ended ∧ k.ctl.get 3 = 8 ∧ k.ctl.get 4 = 0 := by decide +kernel
/-- A tent with a queue 1, and one whose queue has a handle that is not mapped. -/
def tentBell : Tent := { tentOne with rings := [(1, BitVec.ofNat 64 hostGran)], handles := [(1, 0x700000)] }
/-- A doorbell of the host with GO, for queue 1 of tent 0, whose ring of 1 KiB is empty. -/
def onBell : State :=
  let s := open_ (onHost.setDev { onHost.dev with
    tents := [tentBell], mem := onHost.dev.mem.put hostGran (trapRing 0).bytes })
  die_ s fun x => { x with bells := x.bells.setIfInBounds 0 { desc := 0x1111, args := 0x2222, busy := false, st := 7, ask := 0 } }
/-- The machine while the doorbell is under way. -/
def rung (s : State) : State := s.setBell 0 0 fun x => { x with busy := true, ask := 0x100 }
theorem test_meets_DoorbellAndKicks : let w : Word := 0x900
    let g := { tentOne.agent with die := 0 }
    let v := rung onBell
    let p := part ((v.enter g).check .atomic 64 true 0x700000 64)
    bellOf .host0 = some 0 ∧ onBell.dev.man.frozen .host0 = false ∧ w.getLsbD 11 = true ∧ w.toNat / 256 % 8 = 1 ∧ onBell.dev.storing = true ∧
    onBell.dev.tents = [tentBell] ∧ (v.enter g).check .atomic 64 true 0x700000 64 = .ok [p] ∧ p.hit.loc = .phys hostGran ∧
    (v.enter g).check .atomic 64 true 0x900000 64 = .fault 0x04 0x900000 ∧
    hostGran < 2 ^ 64 ∧ onBell.dev.mem.wf = true ∧ onBell.rcbAt (.phys hostGran) = trapRing 0 ∧ (trapRing 0).bad = false ∧
    (0x200000 : Word).toNat < 2 ^ 56 ∧ (v.enter g).check .store 1 false 0x200000 24 = .ok [fpart v g .store 0x200000 24] ∧
    (fpart v g .store 0x200000 24).Dram pageKey ∧ (v.enter g).logStall [fpart v g .store 0x200000 24] = false := by
  unfold Piece.Dram; decide +kernel
/-- The status of the doorbell after a word is written to it. -/
noncomputable def bellAfter (w : Word) (s : State) : Doorbell := vget ((after (.hlctlGo .host0 0 w) s).dev.die 0).bells 0 Doorbell.blank
theorem test_doorbell : let t := after (.hlctlGo .host0 0 0x900) onBell
    (t.dev.die 0).kicks = [1] ∧ t.dev.mem.nat (pageKey + 8) 8 = 0x1111 ∧ t.dev.mem.nat (pageKey + 16) 8 = 0x2222 ∧
    (t.rcbAt (.phys hostGran)).tail = 24 ∧ (bellAfter 0x900 onBell).st = 0 ∧ (bellAfter 0x800 onBell).st = 4 ∧
    (bellAfter 0x900 (onBell.setDev { onBell.dev with tents := [{ tentBell with handles := [(1, 0x900000)] }] })).st = 5 ∧
    (let s := die_ onBell fun x => { x with sph := 3 }
     s.dev.storing = false ∧ (bellAfter 0x900 s).busy = true) := by decide +kernel
theorem test_meets_Kicks : let s := die_ (open_ (idle.setDev { idle.dev with tents := [tentOne] })) fun x => { x with kicks := [1] }
    (s.dev.die 0).nextKick 0 = some 1 ∧ s.dev.reading = true ∧ tentOne.tid = 1 / 8 ∧ tentOne.rings = [] ∧ s.dev.instances = [] ∧
    (s.dev.die 0).nextKick 1 = none ∧ ((after (.kickclr 0 0) s).dev.die 0).kicks = [] ∧
    (((after (.kickclr 0 0) s).dev.die 0).slot0.journal.map fun r => (r.kind, r.body)) = [(7, [1])] := by decide +kernel

/-- Records of the nodes: a kernel of one position at the object's address, a copy of 64 bytes, a loop of two passes over node 1 and
an event on word 0. -/
def kernelRec : BitVec 512 := 0xFF0000 + 0x100000 <<< 64 + 1 <<< 128 + 1 <<< 160 + 1 <<< 192
def copyRec : BitVec 512 := 1 + 1 <<< 72 + 2 <<< 80
def loopRec : BitVec 512 := 3 + 2 <<< 96 + 1 <<< 128 + 1 <<< 144
def eventRec : BitVec 512 := 5 + 1 <<< 64
/-- An instance on die 0 with the given nodes; its words name the page. -/
def onNodes (ns : List NodeState) : State :=
  let i : Instance := { instOne with header := 0x01FF <<< 112, nodes := ns, args := [0x200000, 0x201000, 64] }
  let o : CodeObj := { asid := 0, base := 0x100000, len := 20, sys := false, entries := Vector.replicate 3 0, starts := [0], attr := [], digest := 0
                       rin := 0 }
  open_ (idle.setDev { idle.dev with tents := [tentOne], instances := [i], objects := [o] })
/-- The instance of that machine. -/
def inst_ (s : State) : Instance := (s.dev.instance_ 0).getD instOne
theorem test_meets_NodeStarts : let s := onNodes [nodeRec kernelRec .idle, nodeRec copyRec .idle]
    let x := nodeRec kernelRec .idle
    s.dev.instance_ 0 = some (inst_ s) ∧ (inst_ s).node? 0 = some x ∧ s.dev.tentOf (inst_ s) = some tentOne ∧ (inst_ s).replay = none ∧
    (s.dev.server 0).1 < 8 ∧ s.dev.canStart (inst_ s) 0 x = true ∧ (inst_ s).state = 1 ∧ x.field 0 1 = 0 ∧
    ((s.dev.kernelOf tentOne x).map (·.base)) = some 0x100000 ∧ (inst_ s).dies = [0] ∧ x.grid [] = (1, 1, 1) ∧ (∀ n < 8, (s.dev.die n).lines = []) ∧
    s.dev.canStart (inst_ s) 0 { x with phase := .running } = false := by decide +kernel
theorem test_meets_NodeStarts_copy : let s := onNodes [nodeRec kernelRec .idle, nodeRec copyRec .idle]
    let x := nodeRec copyRec .idle
    let s1 := (s.setDev (s.dev.journal (s.dev.server 0).1 (s.dev.server 0).2 2 0 0 [1])).drew
    let g := { tentOne.agent with die := 0 }
    s.dev.canStart (inst_ s) 1 x = true ∧ x.field 0 1 = 1 ∧ ((inst_ s).arg (x.field 10 1)).toNat = 64 ∧ (inst_ s).arg (x.field 8 1) = 0x200000 ∧
    (inst_ s).arg (x.field 9 1) = 0x201000 ∧ (s1.enter g).check .load 1 false 0x200000 64 = .ok [fpart s1 g .load 0x200000 64] ∧
    (fpart s1 g .load 0x200000 64).hit.remote = false ∧ (s1.enter g).poisonIn [fpart s1 g .load 0x200000 64] = [] ∧
    ((s1.enter g).loadBytes [fpart s1 g .load 0x200000 64]).length = 64 ∧
    (s1.enter g).check .store 1 false 0x201000 64 = .ok [fpart s1 g .store 0x201000 64] ∧
    (fpart s1 g .store 0x201000 64).Dram (pageKey + 0x1000) ∧ (s1.enter g).logStall [fpart s1 g .store 0x201000 64] = false := by
  unfold Piece.Dram; decide +kernel
/-- A dirty line of the tent that meets a full undo log at its owner. -/
theorem test_meets_NodeStarts_boundary : let s := die_ (onNodes [nodeRec kernelRec .idle]) fun x => { x with lines := [lineOne] }
    let u := s.setDev (s.dev.onDie 1 fun x => { x with win := { x.win with undoCap := 0 } })
    s.boundaryClear tentOne.agent = true ∧ u.boundaryClear tentOne.agent = false ∧ (after (.nodestart 0 0) u).dev.tasks = [] := by decide +kernel
theorem test_copy_node : let s := onNodes [nodeRec kernelRec .idle, nodeRec copyRec .idle]
    let t := after (.nodestart 0 1) (s.setDev { s.dev with mem := s.dev.mem.put pageKey [1, 2, 3] })
    t.dev.mem.nat (pageKey + 0x1000) 3 = 0x030201 ∧ ((t.dev.instance_ 0).map fun i => i.nodes.map (·.phase)) = some [.idle, .done] := by decide +kernel
theorem test_kernel_node : let t := after (.nodestart 0 0) (onNodes [nodeRec kernelRec .idle])
    (t.dev.tasks.map fun k => (k.node, k.gx, k.strands)) = [(0, 1, 1)] := by decide +kernel
/-- A loop whose range has ended, at its first pass and at its bound; an event that waits for a word; a node that is done. -/
def onLoop (passes : Nat) (word : Nat) : State :=
  let s := onNodes [{ nodeRec loopRec .running with passes := passes, range := (1, 1) }, nodeRec kernelRec .ended, nodeRec eventRec .waiting,
                    nodeRec copyRec .done]
  die_ (s.setDev { s.dev with mem := s.dev.mem.put pageKey (natLe 8 word) }) fun x => { x with kicks := [1] }
theorem test_meets_NodesGoOn : let s := onLoop 1 5
    let x : NodeState := { nodeRec loopRec .running with passes := 1, range := (1, 1) }
    let c := (s.enter tentOne.agent).check .load 1 false 0x200000 8
    s.dev.starting = true ∧ (inst_ s).node? 0 = some x ∧ x.field 0 1 = 3 ∧ (inst_ s).levelEnded (some x.range) = true ∧ x.passes < x.field 0x0C 4 ∧
    x.field 0x0C 4 ≤ 2 ∧ (inst_ s).arg (x.field 8 1) = 0x200000 ∧ c = .ok [part c] ∧ (part c).hit.remote = false ∧
    (s.enter tentOne.agent).poisonIn [part c] = [] ∧ x.field 0x12 2 ≠ 0 ∧ 0 < x.field 0x10 2 ∧ (nodeRec eventRec .waiting).field 8 1 = 1 ∧
    (nodeRec eventRec .waiting).field 9 1 = 0 ∧ s.dev.nodeDue (inst_ s) 3 (nodeRec copyRec .done) = true ∧ s.dev.reading = true ∧
    ((inst_ s).setNode 3 (nodeRec copyRec .ended)).levelEnded none = false ∧ (inst_ s).code = 0 ∧ s.dev.kicked 0 = true ∧
    (die_ s fun x => { x with kicks := [] }).dev.kicked 0 = false := by decide +kernel
theorem test_loop : let phases (t : State) : List NodePhase := (inst_ t).nodes.map (·.phase)
    (phases (after (.loopPass 0 0) (onLoop 1 5))).take 2 = [.running, .idle] ∧ (phases (after (.loopPass 0 0) (onLoop 1 0))).take 2 = [.done, .ended] ∧
    (inst_ (after (.loopPass 0 0) (onLoop 2 5))).loopcap = true ∧ (phases (after (.eventNodeTest 0 2) (onLoop 1 5)))[2]? = some .done ∧
    (phases (after (.eventNodeTest 0 2) (onLoop 1 0)))[2]? = some .waiting ∧ (phases (after (.nodeend 0 3) (onLoop 1 5)))[3]? = some .ended := by
  decide +kernel
/-- The end of an instance with its last node. -/
theorem test_meets_NodesGoOn_last : let s := onNodes [nodeRec copyRec .done]
    ((inst_ s).setNode 0 (nodeRec copyRec .ended)).levelEnded none = true ∧ hdrField (inst_ s).header 0x0E 1 = 0xFF ∧
    (after (.nodeend 0 0) s).dev.instance_ 0 = none := by decide +kernel

/-- A replay whose lane 0 has sent semaphore 5 once. -/
def traceOne : Trace := { tid := 0, hash := 1, refined := 0, lanes := [(0, [4 + 5 <<< 32])], lastUse := 0 }
def replayOne (stopping : Bool) : ReplayState :=
  { hash := 1, trace := some traceOne, guards := [], recording := false, replaying := true, entries := [], places := [(0, 1)], sems := [], stopping := stopping, stopped := []
    failed := false, pending := [] }
def onReplay (r : ReplayState) : State :=
  let s := onNodes [nodeRec copyRec .done]
  s.setDev { s.dev with instances := s.dev.instances.map fun i => { i with replay := some r } }
theorem test_meets_ReplayGang : let s := onReplay (replayOne false)
    let r := replayOne true
    s.dev.traceOf (inst_ s) = some traceOne ∧ traceOne.sent (replayOne false) 5 = 1 ∧ s.dev.reading = true ∧ (inst_ s).dies.contains 0 = true ∧
    ((inst_ (after (.traceSignal 0 0 5) s)).replay.map (·.sems)) = some [((0, 5), 1)] ∧
    (after (.traceSignal 0 0 5) (after (.traceSignal 0 0 5) s)).dev.instances = (after (.traceSignal 0 0 5) s).dev.instances ∧
    ((inst_ (after (.replayStop 0 0) (onReplay r))).replay.map (·.stopped)) = some [0] ∧ (onReplay r).dev.unitsUnderWay 0 = false ∧
    (onReplay r).dev.starting = true ∧
    ((inst_ (after (.replayHandover 0) (onReplay { r with stopped := [0] }))).replay.map (·.replaying)) = some false ∧
    (let u := onReplay { r with stopped := [0] }
     let v := u.setDev { u.dev with silo := [traceOne], serial := 9 }
     (after (.replayHandover 0) v).dev.silo.map (·.lastUse) = [9]) := by decide +kernel

/-- Three launches of the same kernel whose one word grows by 0x1000, and a kernel that declares its write region by it. -/
def attrOne : List Byte := [1, 1] ++ List.replicate 14 0 ++ List.replicate 8 0xFF ++ [0, 0, 0xFF, 0xFF] ++ List.replicate 4 0
def specKernel : BitVec 256 := (kernelRec + 1 <<< 240).setWidth 256
def histEntry (n : Nat) : HistEntry := { kernel := specKernel, args := [BitVec.ofNat 64 (0x200000 + 0x1000 * n)], pri := 4, dies := [0], spent := false }
def objSpec : CodeObj :=
  { asid := 0, base := 0x100000, len := 20, sys := false, entries := Vector.replicate 3 0, starts := [0], attr := attrOne, digest := 0, rin := 0 }
def tentHist : Tent := { tentOne with hist := [(1, [histEntry 3, histEntry 2, histEntry 1])] }
def onHist : State := open_ (idle.setDev { idle.dev with tents := [tentHist], objects := [objSpec] })
theorem test_meets_SpeculationStarts : onHist.dev.tent 0 = some tentHist ∧ onHist.dev.predict tentHist 1 = some (histEntry 4, objSpec) ∧
    onHist.maySpeculate tentHist 1 0 (histEntry 4) objSpec = true ∧ onHist.maySpeculate tentHist 1 8 (histEntry 4) objSpec = false ∧
    onHist.dev.predict tentHist 2 = none ∧ idle.dev.tent 0 = none ∧
    onHist.dev.bivUsed 0 + writeLines objSpec ((kernelNode specKernel).taskArgs (histEntry 4).args) ≤ (onHist.dev.die 0).win.biv.toNat * 16384 := by
  decide +kernel
/-- A speculation under way: its task made, its unit, and the machine with them. -/
def specMade (s : State) (t : Tent) (q die : Nat) (e : HistEntry) (o : CodeObj) : State × Task :=
  let p : Speculation :=
    { num := s.dev.serial, tid := t.tid, queue := q, die := die, pri := e.pri, kernel := e.kernel, args := e.args, writes := []
      written := [], units := [], readSet := [], filter := [], stale := false, ended := false }
  (s.setDev { s.dev with serial := s.dev.serial + 1, specs := s.dev.specs ++ [p]
                         tents := s.dev.tents.map fun y => if y.tid == t.tid then y.spend q else y }).newTask t s.dev.serial 0
    (kernelNode e.kernel) o e.args e.pri [die] (some s.dev.serial)
def specUnit (t : Task) (level : Nat) : DispUnit :=
  { task := t.num, sheaves := t.units.flatMap (·.sheaves), level := level, stamp := 0, popmark := 0, bank := 0, saved := false, clus := 0 }
theorem speculate_eq (s : State) (t : Tent) (q die : Nat) (e : HistEntry) (o : CodeObj) (h : (specUnit (specMade s t q die e o).2 e.pri).sheaves ≠ []) :
    s.speculate t q die e o = match (specMade s t q die e o).1.placeUnit die (specUnit (specMade s t q die e o).2 e.pri) with
      | .ok v => some (v.setWin die fun w => { w with start := w.start + 1 })
      | _ => none := by
  have h' : (specUnit (specMade s t q die e o).2 e.pri).sheaves.isEmpty = false := by simpa [List.isEmpty_eq_false_iff] using h
  unfold State.speculate
  simp only [specMade, specUnit] at h' ⊢
  rw [h']
  rfl
theorem newTask_last (s : State) (t : Tent) (inst node : Nat) (x : NodeState) (o : CodeObj) (args : List Word) (pri : Nat) (dies : List Nat)
    (spec : Option Nat) : ∃ l, (s.newTask t inst node x o args pri dies spec).1.dev.tasks = l ++ [(s.newTask t inst node x o args pri dies spec).2] :=
  ⟨_, rfl⟩
/-- The clusters of die 0 when they are taken from the `r`-th on. -/
def clustersFrom (s : State) (r : Nat) : List (Nat × List Nat) :=
  (upto 8).map fun c => (0, ((upto 8).map fun k => 64 * 0 + 8 * ((c + r) % 8) + k).filter (s.coreFree false))
theorem placeUnit_eq (s : State) (u : DispUnit) (t : Task) (o : CodeObj) (h1 : s.dev.task u.task = some t) (h2 : s.dev.objectOf t = some o)
    (h3 : s.dev.placesOf 0 t u = [0]) (h4 : t.spec.isSome = true) (h5 : u.saved = false) :
    ∃ r < 8, s.placeUnit 0 u =
      match (pickAll [0] t.strands u.groups ((clustersFrom s r).map fun c => (c.1, c.2.filter (u.allows 0)))).or none with
      | none => .wait
      | some got => s.placeNew t o got :=
  ⟨Config.freeIndex s.fresh % 8, Nat.mod_lt _ (by decide), by
    simp [State.placeUnit, h1, h5, h2, State.findCores, State.coresFor, State.clustersFor, State.clusters, h3, h4, clustersFrom]; rfl⟩
def placedOk : Placed → Bool
  | .ok _ => true
  | _ => false
theorem speculate_placed (s : State) (t : Tent) (q die : Nat) (e : HistEntry) (o : CodeObj) (h : (specUnit (specMade s t q die e o).2 e.pri).sheaves ≠ [])
    (hk : placedOk ((specMade s t q die e o).1.placeUnit die (specUnit (specMade s t q die e o).2 e.pri)) = true) :
    ∃ w, s.speculate t q die e o = some w := by
  rw [speculate_eq s t q die e o h]
  cases hp : (specMade s t q die e o).1.placeUnit die (specUnit (specMade s t q die e o).2 e.pri) with
  | ok v => exact ⟨_, rfl⟩
  | wait => rw [hp] at hk; exact absurd hk (by decide)
  | quota => rw [hp] at hk; exact absurd hk (by decide)
/-- The prediction of `onHist`, its task and its unit. -/
abbrev specOn : State × Task := specMade onHist tentHist 1 0 (histEntry 4) objSpec
abbrev specOnUnit : DispUnit := specUnit specOn.2 (histEntry 4).pri
theorem specOn_placed : ∀ r < 8, placedOk (match (pickAll [0] specOn.2.strands specOnUnit.groups
    ((clustersFrom specOn.1 r).map fun c => (c.1, c.2.filter (specOnUnit.allows 0)))).or none with
      | none => .wait
      | some got => specOn.1.placeNew specOn.2 objSpec got) = true := by decide +kernel
theorem specOn_task : specOn.1.dev.task specOn.2.num = some specOn.2 := by
  obtain ⟨l, hl⟩ : ∃ l, specOn.1.dev.tasks = l ++ [specOn.2] := newTask_last ..
  have hn : specOn.1.dev.tasks.length = 1 := by decide +kernel
  have h0 : l = [] := by
    rw [hl, List.length_append] at hn
    exact List.eq_nil_of_length_eq_zero (by simpa using hn)
  simp [Device.task, hl, h0]
theorem test_meets_SpeculationStarts_placed : ∃ w, onHist.speculate tentHist 1 0 (histEntry 4) objSpec = some w := by
  have hs : specOnUnit.sheaves ≠ [] := by decide +kernel
  obtain ⟨r, hr, h⟩ := placeUnit_eq specOn.1 specOnUnit specOn.2 objSpec specOn_task (by decide +kernel) (by decide +kernel) (by decide +kernel)
    (by decide +kernel)
  exact speculate_placed _ _ _ _ _ _ hs (by rw [h]; exact specOn_placed r hr)
/-- The same prediction with a grid of more positions than the die has cores. -/
def histBig (n : Nat) : HistEntry := { histEntry n with kernel := specKernel + 64 <<< 128 }
def tentBig : Tent := { tentHist with hist := [(1, [histBig 3, histBig 2, histBig 1])] }
def onFull : State := onHist.setDev { onHist.dev with tents := [tentBig] }
abbrev fullOn : State × Task := specMade onFull tentBig 1 0 (histBig 4) objSpec
abbrev fullUnit : DispUnit := specUnit fullOn.2 (histBig 4).pri
theorem fullOn_none : ∀ r < 8, (pickAll [0] fullOn.2.strands fullUnit.groups
    ((clustersFrom fullOn.1 r).map fun c => (c.1, c.2.filter (fullUnit.allows 0)))).isNone = true := by decide +kernel
theorem fullOn_task : fullOn.1.dev.task fullOn.2.num = some fullOn.2 := by
  obtain ⟨l, hl⟩ : ∃ l, fullOn.1.dev.tasks = l ++ [fullOn.2] := newTask_last ..
  have hn : fullOn.1.dev.tasks.length = 1 := by decide +kernel
  have h0 : l = [] := by
    rw [hl, List.length_append] at hn
    exact List.eq_nil_of_length_eq_zero (by simpa using hn)
  simp [Device.task, hl, h0]
theorem test_meets_SpeculationStarts_none : onFull.dev.predict tentBig 1 = some (histBig 4, objSpec) ∧
    onFull.maySpeculate tentBig 1 0 (histBig 4) objSpec = true ∧ onFull.speculate tentBig 1 0 (histBig 4) objSpec = none := by
  refine ⟨by decide +kernel, by decide +kernel, ?_⟩
  obtain ⟨r, hr, h⟩ := placeUnit_eq fullOn.1 fullUnit fullOn.2 objSpec fullOn_task (by decide +kernel) (by decide +kernel) (by decide +kernel)
    (by decide +kernel)
  rw [speculate_eq _ _ _ _ _ _ (by decide +kernel), h, Option.isNone_iff_eq_none.mp (fullOn_none r hr)]
  rfl
/-- A speculation that has ended, and the launch that claims it. -/
def onClaim (stale : Bool) : State :=
  let s := onNodes [nodeRec kernelRec .idle]
  s.setDev { s.dev with
    specs := [{ specOne with tid := 0, queue := 1, die := 0, ended := true, stale := stale, written := [0x300001, 0x300000], writes := [(0x300000, 7)] }]
    instances := s.dev.instances.map fun i => { i with claiming := true }, mem := [(0x300001, 9), (0x300002, 8)] }
theorem test_meets_Prediction : let s := onClaim false
    (s.dev.specs.find? fun p => p.tid == 0 && p.queue == 1).isSome = true ∧ s.dev.tent 0 = some tentOne ∧
    (s.dev.instances.find? fun i => i.tid == 0 && i.queue == 1 && i.claiming) = some (inst_ s) ∧ (s.dev.specs.map (·.num)).Nodup ∧ s.dev.storing = true ∧
    s.dev.undoLacks ([0x300001, 0x300000].map fun a => a / 64) = false ∧ s.boundaryClear tentOne.agent = true ∧ hdrField (inst_ s).header 0x0E 1 = 0xFF ∧ s.dev.mem.wf = true ∧
    (∀ n < 8, (s.dev.die n).lines = []) ∧ (after (.claim 0 1) s).dev.mem = [(0x300000, 7), (0x300002, 8)] ∧
    ((after (.claim 0 1) s).dev.die 0).win.claim = 1 ∧ (after (.claim 0 1) s).dev.specs = [] ∧
    ((after (.claim 0 1) (onClaim true)).dev.die 0).win.drs = 1 ∧ (after (.claim 0 1) (onClaim true)).dev.mem = (onClaim true).dev.mem := by decide +kernel

/-! ### Witnesses: the machine -/

/-- Reset is a state whose memory and strands are canonical, and it takes a step. -/
theorem canonical_reset : State.reset.dev.Canonical :=
  ⟨rfl, fun _ h => by simp [State.reset, Device.blank] at h, fun _ h => by simp [State.reset, Device.blank] at h⟩
theorem test_meets_DeviceMemoryKept : (match step State.reset with | .next _ => true | _ => false) = true := by decide +kernel
theorem test_meets_EverythingAnswers : let s := State.reset.setDev { State.reset.dev with failed := true }
    let t := { s with agenda := [.event 0 .strandEnd] }
    s.dev.failed = true ∧ s.agenda = [] ∧ (match step s with | .fault .domainFailed => true | _ => false) = true ∧
    (Move.event 0 .strandEnd).onWindows = false ∧ (match step t with | .next u => u.agenda == [] | _ => false) = true := by decide +kernel
theorem test_meets_EncodeDecode : wellFormed (.gdrain 127 3 1 60) = false ∧
    wellFormed (.gdrain 95 3 0 60) = true ∧ (encode (.gdrain 95 3 0 60)).isSome = true ∧ (encode .hangCapture).isSome = false := by decide
end Sys2Proof.Tests
end

section
/-!
The scalar ALU of Table 8-1 (R185 to R187): each function of Machine/Alu.lean has its tabled value, and each SALU
instruction writes that value to s[d] as its whole effect.
-/
namespace Sys2Proof.Machine

/-! ### Words as wrapped integers -/

theorem wrap_toInt (a : Word) : wrap a.toInt 64 = a := BitVec.ofInt_toInt

theorem wrap_toNat (a : Word) : wrap a.toNat 64 = a := by simp

theorem ofNat_eq_wrap {n : Nat} {z : Int} (h : (n : Int) = z) : BitVec.ofNat 64 n = wrap z 64 :=
  h ▸ (BitVec.ofInt_natCast 64 n).symm

theorem word_eq_zero_iff (b : Word) : b = 0 ↔ b.toNat = 0 := BitVec.toNat_inj (y := 0#64).symm

/-! ### Sums, products and bounds -/

theorem add_eq_wrap (a b : Word) : a + b = wrap ((a.toNat : Int) + b.toNat) 64 := by
  simp [BitVec.ofInt_add]

theorem sub_eq_wrap (a b : Word) : a - b = wrap ((a.toNat : Int) - b.toNat) 64 := by
  simp [Int.sub_eq_add_neg, BitVec.ofInt_add, BitVec.ofInt_neg, BitVec.sub_eq_add_neg]

theorem mul_eq_wrap (a b : Word) : a * b = wrap (a.toInt * b.toInt) 64 := by
  simp [BitVec.ofInt_mul]

theorem add_mul_eq_wrap (d a b : Word) : d + a * b = wrap (d.toInt + a.toInt * b.toInt) 64 := by
  simp [BitVec.ofInt_add, BitVec.ofInt_mul]

theorem aluMulhU_eq_wrap (a b : Word) : aluMulhU a b = wrap ((a.toNat : Int) * b.toNat / 2 ^ 64) 64 :=
  ofNat_eq_wrap (by push_cast; rfl)

theorem aluMin_eq_wrap (a b : Word) : aluMin a b = wrap (min a.toInt b.toInt) 64 := by
  rw [aluMin, min_def, apply_ite (wrap · 64), wrap_toInt, wrap_toInt]

theorem aluMax_eq_wrap (a b : Word) : aluMax a b = wrap (max a.toInt b.toInt) 64 := by
  rw [aluMax, max_def, apply_ite (wrap · 64), wrap_toInt, wrap_toInt]

theorem aluMinU_eq_wrap (a b : Word) : aluMinU a b = wrap (min (a.toNat : Int) b.toNat) 64 := by
  simp only [aluMinU, min_def, Int.ofNat_le, apply_ite (wrap · 64), wrap_toNat]

theorem aluMaxU_eq_wrap (a b : Word) : aluMaxU a b = wrap (max (a.toNat : Int) b.toNat) 64 := by
  simp only [aluMaxU, max_def, Int.ofNat_le, apply_ite (wrap · 64), wrap_toNat]

/-! ### Shifts -/

theorem aluShl_eq_wrap (a b : Word) : aluShl a b = wrap ((a.toNat : Int) * 2 ^ (b.toNat % 64)) 64 := by
  have h : aluShl a b = BitVec.ofNat 64 (a.toNat * 2 ^ (b.toNat % 64)) := by
    apply BitVec.eq_of_toNat_eq
    rw [aluShl, aluSh, BitVec.toNat_shiftLeft, Nat.shiftLeft_eq, BitVec.toNat_ofNat]
  exact h.trans (ofNat_eq_wrap (by push_cast; rfl))

theorem aluShr_eq_wrap (a b : Word) : aluShr a b = wrap ((a.toNat : Int) / 2 ^ (b.toNat % 64)) 64 := by
  have h : (aluShr a b).toNat = a.toNat / 2 ^ (b.toNat % 64) := by
    rw [aluShr, aluSh, BitVec.toNat_ushiftRight, Nat.shiftRight_eq_div_pow]
  rw [← wrap_toNat (aluShr a b), h]
  push_cast
  rfl

theorem aluSra_eq_wrap (a b : Word) : aluSra a b = wrap (a.toInt / 2 ^ (b.toNat % 64)) 64 := by
  have h : (aluSra a b).toInt = a.toInt / 2 ^ (b.toNat % 64) := by
    rw [aluSra, aluSh, BitVec.toInt_sshiftRight, Int.shiftRight_eq_div_pow]
    push_cast
    rfl
  rw [← h, wrap_toInt]

/-! ### Bit counts and the bit reversal -/

theorem leadingZeros_le (n v : Nat) : leadingZeros n v ≤ n := by
  unfold leadingZeros
  split <;> omega

/-- Below `2 ^ n`, `leadingZeros n v` is the `k` for which the highest 1 bit of `v` is bit `n - 1 - k`. -/
theorem leadingZeros_bounds {n v : Nat} (hv : v < 2 ^ n) : v < 2 ^ (n - leadingZeros n v) ∧
    (leadingZeros n v < n → 2 ^ (n - 1 - leadingZeros n v) ≤ v) := by
  by_cases h0 : v = 0
  · simp [leadingZeros, h0]
  · have hlog : v.log2 < n := (Nat.log2_lt h0).2 hv
    have hz : leadingZeros n v = n - 1 - v.log2 := if_neg h0
    rw [hz, show n - (n - 1 - v.log2) = v.log2 + 1 by omega, show n - 1 - (n - 1 - v.log2) = v.log2 by omega]
    exact ⟨Nat.lt_log2_self, fun _ => Nat.log2_self_le h0⟩

theorem aluClz_eq_wrap (a : Word) : aluClz a = wrap (leadingZeros 64 a.toNat : Nat) 64 := ofNat_eq_wrap rfl

theorem countOnes_eq_length_filter (n v : Nat) : countOnes n v = ((List.range n).filter v.testBit).length := by
  induction n generalizing v with
  | zero => rfl
  | succ n ih =>
    have hbit : v % 2 = if v.testBit 0 then 1 else 0 := by
      rw [Nat.testBit_zero]
      rcases Nat.mod_two_eq_zero_or_one v with h | h <;> simp [h]
    have htail : v.testBit ∘ Nat.succ = (v / 2).testBit := funext (Nat.testBit_succ v)
    rw [countOnes, ih, hbit, List.range_succ_eq_map, ← List.countP_eq_length_filter, ← List.countP_eq_length_filter,
      List.countP_cons, List.countP_map, htail, Nat.add_comm]

theorem aluPopc_eq_wrap (a : Word) :
    aluPopc a = wrap (((List.range 64).filter fun i => a.getLsbD i).length : Nat) 64 :=
  ofNat_eq_wrap (congrArg _ (countOnes_eq_length_filter 64 a.toNat))

theorem getLsbD_aluBrev (a : Word) {i : Nat} (h : i < 64) : (aluBrev a).getLsbD i = a.getLsbD (63 - i) := by
  rw [aluBrev, BitVec.getLsbD_reverse, BitVec.getMsbD_eq_getLsbD, decide_eq_true h, Bool.true_and]

/-! ### Bitfields (R187) -/

theorem aluExt_eq_wrap (a b : Word) :
    aluExt a b = wrap ((a.toNat : Int) / 2 ^ (b.toNat % 64) % 2 ^ (b.toNat / 256 % 64 + 1)) 64 :=
  ofNat_eq_wrap (by push_cast; rfl)

theorem signed_field_eq (f w : Nat) : (if 2 ^ (w - 1) ≤ f then (f : Int) - 2 ^ w else f) =
    if (f : Int) < 2 ^ (w - 1) then (f : Int) else f - 2 ^ w := by
  have hsign : 2 ^ (w - 1) ≤ f ↔ ¬ (f : Int) < 2 ^ (w - 1) := by
    rw [not_lt]
    exact_mod_cast Iff.rfl
  rw [if_congr hsign rfl rfl, ite_not]

theorem aluExtS_eq_wrap (a b : Word) :
    let w := b.toNat / 256 % 64 + 1
    let field : Int := (a.toNat : Int) / 2 ^ (b.toNat % 64) % 2 ^ w
    aluExtS a b = wrap (if field < 2 ^ (w - 1) then field else field - 2 ^ w) 64 := by
  intro w field
  have hfield : field = (a.toNat / 2 ^ fieldLo b % 2 ^ fieldW b : Nat) := by
    push_cast
    rfl
  rw [hfield]
  exact congrArg (wrap · 64) (signed_field_eq ..)

/-- The mask of ins: the bits from `lo` on, `w` of them as far as the word reaches. -/
theorem getLsbD_fieldMask (lo w : Nat) {i : Nat} (h : i < 64) :
    (BitVec.ofNat 64 (2 ^ w - 1) <<< lo).getLsbD i = decide (lo ≤ i ∧ i < lo + w) := by
  rw [BitVec.getLsbD_shiftLeft, BitVec.getLsbD_ofNat, Nat.testBit_two_pow_sub_one, Bool.eq_iff_iff]
  simp only [Bool.and_eq_true, decide_eq_true_eq, Bool.not_eq_true', decide_eq_false_iff_not]
  omega

theorem getLsbD_aluIns (d a b : Word) {i : Nat} (h : i < 64) : (aluIns d a b).getLsbD i =
    if fieldLo b ≤ i ∧ i < fieldLo b + fieldW b then a.getLsbD (i - fieldLo b) else d.getLsbD i := by
  have hmask := getLsbD_fieldMask (fieldLo b) (fieldW b) h
  rw [aluIns, BitVec.getLsbD_or, BitVec.getLsbD_and, BitVec.getLsbD_and, BitVec.getLsbD_not, hmask]
  by_cases hin : fieldLo b ≤ i ∧ i < fieldLo b + fieldW b
  · have hlo : ¬ i < fieldLo b := Nat.not_lt.2 hin.1
    rw [if_pos hin, BitVec.getLsbD_shiftLeft]
    simp [h, hin, hlo]
  · rw [if_neg hin]
    simp [h, hin]

/-! ### Divisions (R123) -/

theorem aluDiv_eq (a b : Word) : aluDiv a b = if b.toNat = 0 then -1
    else if a.toInt = -2 ^ 63 ∧ b.toInt = -1 then wrap (-2 ^ 63) 64 else wrap (a.toInt.tdiv b.toInt) 64 := by
  refine if_congr (word_eq_zero_iff b) rfl ?_
  split
  next h => rw [h.1, h.2]; decide
  next => rfl

theorem aluDivU_eq (a b : Word) :
    aluDivU a b = if b.toNat = 0 then -1 else wrap ((a.toNat : Int) / b.toNat) 64 :=
  if_congr (word_eq_zero_iff b) rfl (ofNat_eq_wrap (by push_cast; rfl))

theorem aluRem_eq (a b : Word) : aluRem a b = if b.toNat = 0 then a
    else if a.toInt = -2 ^ 63 ∧ b.toInt = -1 then 0 else wrap (a.toInt - b.toInt * a.toInt.tdiv b.toInt) 64 := by
  refine if_congr (word_eq_zero_iff b) rfl ?_
  split
  next h => rw [h.1, h.2]; decide
  next => rw [Int.tmod_def]

theorem aluRemU_eq (a b : Word) : aluRemU a b = if b.toNat = 0 then a
    else wrap ((a.toNat : Int) - b.toNat * ((a.toNat : Int) / b.toNat)) 64 :=
  if_congr (word_eq_zero_iff b) rfl (ofNat_eq_wrap (by rw [← Int.emod_def]; push_cast; rfl))

/-! ### The instructions -/

/-- An instruction that ends in the ALU's write of `v` gives s[d] any value that `v` is. -/
theorem gives_of_aluEnd {s : State} {i : Instr} {d : Reg} {v w : Word} {n : Nat} (h : exec i s = s.aluEnd d v n)
    (hv : v = w) : Gives s i d w n :=
  gives_of s i d w n (hv ▸ h)

/-- Settles O1: every SALU function ends in the ALU's one write, of the value its lemma above states. -/
theorem scalarArithmetic : Obligations.ScalarArithmetic := by
  unfold Obligations.ScalarArithmetic
  refine ⟨fun s d a o => ?arithmetic, fun s d a o => ?bitwise, fun s d a o => ?division⟩
  case arithmetic =>
    exact ⟨gives_of_aluEnd rfl (add_eq_wrap ..), gives_of_aluEnd rfl (sub_eq_wrap ..), gives_of_aluEnd rfl rfl,
      gives_of_aluEnd rfl rfl, gives_of_aluEnd rfl rfl, gives_of_aluEnd rfl (mul_eq_wrap ..), gives_of_aluEnd rfl rfl,
      gives_of_aluEnd rfl (aluMulhU_eq_wrap ..), gives_of_aluEnd rfl (aluMin_eq_wrap ..),
      gives_of_aluEnd rfl (aluMinU_eq_wrap ..), gives_of_aluEnd rfl (aluMax_eq_wrap ..),
      gives_of_aluEnd rfl (aluMaxU_eq_wrap ..), gives_of_aluEnd rfl (add_mul_eq_wrap ..)⟩
  case bitwise =>
    obtain ⟨hlow, hhigh⟩ := leadingZeros_bounds (s.rd a).isLt
    exact ⟨gives_of_aluEnd rfl (aluShl_eq_wrap ..), gives_of_aluEnd rfl (aluShr_eq_wrap ..),
      gives_of_aluEnd rfl (aluSra_eq_wrap ..),
      ⟨_, leadingZeros_le .., hlow, hhigh, gives_of_aluEnd rfl (aluClz_eq_wrap ..)⟩,
      gives_of_aluEnd rfl (aluPopc_eq_wrap ..),
      ⟨_, fun _ => getLsbD_aluBrev _, gives_of_aluEnd rfl rfl⟩,
      gives_of_aluEnd rfl (aluExt_eq_wrap ..), gives_of_aluEnd rfl (aluExtS_eq_wrap ..),
      ⟨_, fun _ => getLsbD_aluIns _ _ _, gives_of_aluEnd rfl rfl⟩⟩
  case division =>
    exact ⟨gives_of_aluEnd rfl (aluDiv_eq ..), gives_of_aluEnd rfl (aluDivU_eq ..), gives_of_aluEnd rfl (aluRem_eq ..),
      gives_of_aluEnd rfl (aluRemU_eq ..)⟩

end Sys2Proof.Machine
end

section
/-!
The integer vector functions of Table 10-1 (R254, R255): each lane function of Machine/Vint.lean has its tabled value, and
an integer lane operation that meets no lease writes the enabled lanes of vd as its whole effect (R54).
-/
namespace Sys2Proof.Machine

/-! ### The lanes of a register -/

theorem laneOf_shiftLeft_or_zero (acc : VReg) (x : Lane) : laneOf (acc <<< 32 ||| x.setWidth 2048) 0 = x := by
  apply BitVec.eq_of_getLsbD_eq
  intro i hi
  have hwide : i < 2048 := by omega
  simp [laneOf, hi, hwide]

theorem laneOf_shiftLeft_or_succ (acc : VReg) (x : Lane) {k : Nat} (hk : k + 1 < 64) :
    laneOf (acc <<< 32 ||| x.setWidth 2048) (k + 1) = laneOf acc k := by
  apply BitVec.eq_of_getLsbD_eq
  intro i hi
  have hwide : 32 * (k + 1) + i < 2048 := by omega
  have hin : 32 * k + i < 2048 := by omega
  have hhigh : 32 ≤ 32 * (k + 1) + i := by omega
  have hsub : 32 * (k + 1) + i - 32 = 32 * k + i := by omega
  simp [laneOf, hi, hwide, Nat.not_lt.2 hhigh, hsub, BitVec.getLsbD_of_ge x _ hhigh, BitVec.getLsbD_eq_getElem hin]

/-- A register folded from a list of lane numbers holds at lane k what the k-th of them gives. -/
theorem laneOf_foldr (f : Nat → Lane) (l : List Nat) {k : Nat} (hl : k < l.length) (hk : k < 64) :
    laneOf (l.foldr (fun i acc => (acc <<< 32) ||| (f i).setWidth 2048) 0) k = f l[k] := by
  induction l generalizing k with
  | nil => exact absurd hl (Nat.not_lt_zero k)
  | cons i is ih =>
    rw [List.foldr_cons]
    cases k with
    | zero => exact laneOf_shiftLeft_or_zero ..
    | succ k => exact (laneOf_shiftLeft_or_succ _ _ hk).trans (ih (Nat.lt_of_succ_lt_succ hl) (by omega))

@[simp] theorem laneOf_ofLanes (f : Nat → Lane) {k : Nat} (hk : k < 64) : laneOf (ofLanes f) k = f k :=
  (laneOf_foldr f (upto 64) (by simpa using hk) hk).trans (by rw [List.getElem_range])

theorem laneOf_mergeLanes (old : VReg) (m : BitVec 64) (f : Nat → Lane) {k : Nat} (hk : k < 64) :
    laneOf (mergeLanes old m f) k = if m.getLsbD k then f k else laneOf old k :=
  laneOf_ofLanes _ hk

/-! ### The end of an integer lane operation -/

/-- An instruction that names fewer registers meets no lease where one that names more meets none (R59). -/
theorem Strand.leaseHit_false_of_subset {k : Strand} {g : Guard} {vs ws : List VName} {ps : List PName}
    (hsub : ws ⊆ vs) (h : k.leaseHit g vs ps = false) : k.leaseHit g ws ps = false := by
  simp only [Strand.leaseHit, Bool.or_eq_false_iff, List.any_eq_false] at h ⊢
  obtain ⟨⟨hvs, hps⟩, hg⟩ := h
  exact ⟨⟨fun n hn => hvs n (hsub hn), hps⟩, hg⟩

@[simp] theorem Strand.stream_setV (k : Strand) (n : VName) (v : VReg) (t : StreamId) :
    (k.setV n v).stream t = k.stream t := by
  cases t <;> rfl

@[simp] theorem State.me_putLanes (s : State) (d : VName) (m : BitVec 64) (f : Nat → Lane) :
    (s.putLanes d m f).me = s.me :=
  Strand.stream_setV ..

/-- On the execute stream, with no register it names under lease, a vector instruction is what it does. -/
theorem State.vector_eq {s : State} {g : Guard} {vs : List VName} {ps : List PName} (hx : s.who = .x)
    (hfree : s.cur.leaseHit g vs ps = false) (k : Res) : s.vector g vs ps k = k := by
  simp [State.vector, State.only, hx, hfree]

section
variable {s : State} {i : Instr} {g : Guard} {d a b : VName} {im : BitVec 16} {n : Nat} (hx : s.who = .x)
include hx

/-- With no lease met, an integer lane operation writes the enabled lanes of vd as its whole effect. -/
theorem lanesBecome_of_intLanes {srcs : List VName} {f f' : Nat → Lane} (hfree : s.cur.leaseHit g (d :: srcs) [] = false)
    (h : exec i s = s.intLanes g d srcs n f) (hf : ∀ k, f k = f' k) : LanesBecome s i g d n f' := by
  rw [← funext hf]
  exact ⟨_, does_of s (s.putLanes d (s.cur.mask g) f) i n (h.trans (State.vector_eq hx hfree _))
    (State.me_putLanes ..), fun k hk => laneOf_mergeLanes _ _ _ hk⟩

theorem lanesBecome_of_vintOne {f f' : Lane → Lane} (hfree : s.cur.leaseHit g [d, a] [] = false)
    (h : exec i s = s.vintOne g d a f) (hf : ∀ x, f x = f' x) : LanesBecome s i g d 8 fun k => f' (s.lane a k) :=
  lanesBecome_of_intLanes hx hfree h fun k => hf (s.lane a k)

theorem lanesBecome_of_vintReg {f f' : Lane → Lane → Lane} (hfree : s.cur.leaseHit g [d, a, b] [] = false)
    (h : exec i s = s.vintReg g d a b n f) (hf : ∀ x y, f x y = f' x y) :
    LanesBecome s i g d n fun k => f' (s.lane a k) (s.lane b k) :=
  lanesBecome_of_intLanes hx hfree h fun k => hf (s.lane a k) (s.lane b k)

theorem lanesBecome_of_vintImm {f f' : Lane → Lane → Lane} (hfree : s.cur.leaseHit g [d, a] [] = false)
    (h : exec i s = s.vintImm g d a im f) (hf : ∀ x y, f x y = f' x y) :
    LanesBecome s i g d 8 fun k => f' (s.lane a k) (im.signExtend 32) :=
  lanesBecome_of_intLanes hx hfree h fun k => hf (s.lane a k) (immLane im)
end

/-! ### Lane functions as wrapped integers (Table 10-1) -/

theorem lane_wrap_toNat (x : Lane) : wrap x.toNat 32 = x := by simp

theorem lane_ofNat_eq_wrap {n : Nat} {z : Int} (h : (n : Int) = z) : BitVec.ofNat 32 n = wrap z 32 :=
  h ▸ (BitVec.ofInt_natCast 32 n).symm

theorem lane_eq_zero_iff (y : Lane) : y = 0 ↔ y.toNat = 0 := BitVec.toNat_inj (y := 0#32).symm

theorem lane_add_eq_wrap (x y : Lane) : x + y = wrap (x.toInt + y.toInt) 32 := by
  simp [BitVec.ofInt_add]

theorem lane_sub_eq_wrap (x y : Lane) : x - y = wrap (x.toInt - y.toInt) 32 := by
  simp [Int.sub_eq_add_neg, BitVec.ofInt_add, BitVec.ofInt_neg, BitVec.sub_eq_add_neg]

theorem lane_mul_eq_wrap (x y : Lane) : x * y = wrap (x.toInt * y.toInt) 32 := by
  simp [BitVec.ofInt_mul]

theorem lane_add_mul_eq_wrap (z x y : Lane) : z + x * y = wrap (z.toInt + x.toInt * y.toInt) 32 := by
  simp [BitVec.ofInt_add, BitVec.ofInt_mul]

theorem lane_add_mul_imm_eq_wrap (z x : Lane) (im : BitVec 16) :
    z + x * immLane im = wrap (z.toInt + x.toInt * im.toInt) 32 := by
  have himm : (immLane im).toInt = im.toInt := BitVec.toInt_signExtend_of_le (by decide)
  rw [lane_add_mul_eq_wrap, himm]

theorem laneMulh_eq_wrap (x y : Lane) : laneMulh x y = wrap (x.toInt * y.toInt / 2 ^ 32) 32 := rfl

theorem laneMulhU_eq_wrap (x y : Lane) : laneMulhU x y = wrap ((x.toNat : Int) * y.toNat / 2 ^ 32) 32 :=
  lane_ofNat_eq_wrap (by push_cast; rfl)

theorem laneMin_eq_wrap (x y : Lane) : laneMin x y = wrap (min x.toInt y.toInt) 32 := by
  simp only [laneMin, min_def, apply_ite (wrap · 32), BitVec.ofInt_toInt]

theorem laneMax_eq_wrap (x y : Lane) : laneMax x y = wrap (max x.toInt y.toInt) 32 := by
  simp only [laneMax, max_def, apply_ite (wrap · 32), BitVec.ofInt_toInt]

theorem laneMinU_eq_wrap (x y : Lane) : laneMinU x y = wrap (min (x.toNat : Int) y.toNat) 32 := by
  simp only [laneMinU, min_def, Int.ofNat_le, apply_ite (wrap · 32), lane_wrap_toNat]

theorem laneMaxU_eq_wrap (x y : Lane) : laneMaxU x y = wrap (max (x.toNat : Int) y.toNat) 32 := by
  simp only [laneMaxU, max_def, Int.ofNat_le, apply_ite (wrap · 32), lane_wrap_toNat]

/-- `sat_s` of R7 as the clamp between the bounds of a signed lane. -/
theorem satS_eq_wrap_clamp (v : Int) : satS v 32 = wrap (max (-2 ^ 31) (min (2 ^ 31 - 1) v)) 32 := by
  have hclamp : (if v > 2 ^ 31 - 1 then 2 ^ 31 - 1 else if v < -2 ^ 31 then -2 ^ 31 else v) =
      max (-2 ^ 31) (min (2 ^ 31 - 1) v) := by
    split
    · omega
    · split <;> omega
  exact congrArg (wrap · 32) hclamp

theorem laneAddSat_eq_wrap (x y : Lane) :
    laneAddSat x y = wrap (max (-2 ^ 31) (min (2 ^ 31 - 1) (x.toInt + y.toInt))) 32 :=
  satS_eq_wrap_clamp _

theorem laneSubSat_eq_wrap (x y : Lane) :
    laneSubSat x y = wrap (max (-2 ^ 31) (min (2 ^ 31 - 1) (x.toInt - y.toInt))) 32 :=
  satS_eq_wrap_clamp _

/-! ### Divisions of lanes (R123) -/

theorem laneDiv_eq (x y : Lane) : laneDiv x y = if y.toNat = 0 then -1 else wrap (x.toInt.tdiv y.toInt) 32 :=
  if_congr (lane_eq_zero_iff y) rfl rfl

theorem laneDivU_eq (x y : Lane) : laneDivU x y = if y.toNat = 0 then -1 else wrap ((x.toNat : Int) / y.toNat) 32 :=
  if_congr (lane_eq_zero_iff y) rfl (lane_ofNat_eq_wrap (by push_cast; rfl))

theorem laneRem_eq (x y : Lane) : laneRem x y = if y.toNat = 0 then x
    else wrap (x.toInt - y.toInt * x.toInt.tdiv y.toInt) 32 :=
  if_congr (lane_eq_zero_iff y) rfl (congrArg (wrap · 32) (Int.tmod_def ..))

theorem laneRemU_eq (x y : Lane) : laneRemU x y = if y.toNat = 0 then x
    else wrap ((x.toNat : Int) - y.toNat * ((x.toNat : Int) / y.toNat)) 32 :=
  if_congr (lane_eq_zero_iff y) rfl (lane_ofNat_eq_wrap (by rw [← Int.emod_def]; push_cast; rfl))

/-! ### Shifts and single-source functions of lanes -/

theorem laneShl_eq_wrap (x y : Lane) : laneShl x y = wrap ((x.toNat : Int) * 2 ^ (y.toNat % 32)) 32 := by
  have h : laneShl x y = BitVec.ofNat 32 (x.toNat * 2 ^ (y.toNat % 32)) := by
    apply BitVec.eq_of_toNat_eq
    rw [laneShl, laneSh, BitVec.toNat_shiftLeft, Nat.shiftLeft_eq, BitVec.toNat_ofNat]
  exact h.trans (lane_ofNat_eq_wrap (by push_cast; rfl))

theorem laneShr_eq_wrap (x y : Lane) : laneShr x y = wrap ((x.toNat : Int) / 2 ^ (y.toNat % 32)) 32 := by
  have h : (laneShr x y).toNat = x.toNat / 2 ^ (y.toNat % 32) := by
    rw [laneShr, laneSh, BitVec.toNat_ushiftRight, Nat.shiftRight_eq_div_pow]
  rw [← lane_wrap_toNat (laneShr x y), h]
  push_cast
  rfl

theorem laneSra_eq_wrap (x y : Lane) : laneSra x y = wrap (x.toInt / 2 ^ (y.toNat % 32)) 32 := by
  have h : (laneSra x y).toInt = x.toInt / 2 ^ (y.toNat % 32) := by
    rw [laneSra, laneSh, BitVec.toInt_sshiftRight, Int.shiftRight_eq_div_pow]
    push_cast
    rfl
  exact BitVec.ofInt_toInt.symm.trans (congrArg (wrap · 32) h)

theorem laneAbs_eq_wrap (x : Lane) : laneAbs x = wrap x.toInt.natAbs 32 := rfl

theorem lane_not_eq_wrap (x : Lane) : ~~~x = wrap (-x.toInt - 1) 32 := by
  rw [BitVec.not_eq_neg_add]
  simp [Int.sub_eq_add_neg, BitVec.ofInt_add, BitVec.ofInt_neg, BitVec.sub_eq_add_neg]

theorem lanePopc_eq_wrap (x : Lane) : lanePopc x = wrap (((List.range 32).filter fun i => x.getLsbD i).length : Nat) 32 :=
  lane_ofNat_eq_wrap (congrArg _ (countOnes_eq_length_filter 32 x.toNat))

theorem laneClz_eq_wrap (x : Lane) : laneClz x = wrap (leadingZeros 32 x.toNat : Nat) 32 := lane_ofNat_eq_wrap rfl

/-! ### The instructions -/

/-- Settles O19: every VINT function ends in the one write of the enabled lanes, each with the value its lemma above
states. -/
theorem vectorInteger : Obligations.VectorInteger := by
  unfold Obligations.VectorInteger
  intro s g d a b im hx hfree both one clamp
  have hfreeA : s.cur.leaseHit g [d, a] [] = false := Strand.leaseHit_false_of_subset (by simp) hfree
  have hboth {i j : Instr} {n : Nat} {f f' : Lane → Lane → Lane} (hi : exec i s = s.vintReg g d a b n f)
      (hj : exec j s = s.vintImm g d a im f) (hf : ∀ x y, f x y = f' x y) : both i j n f' :=
    ⟨lanesBecome_of_vintReg hx hfree hi hf, lanesBecome_of_vintImm hx hfreeA hj hf⟩
  have hone {i : Instr} {f f' : Lane → Lane} (hi : exec i s = s.vintOne g d a f) (hf : ∀ x, f x = f' x) : one i f' :=
    lanesBecome_of_vintOne hx hfreeA hi hf
  exact ⟨hboth rfl rfl lane_add_eq_wrap, hboth rfl rfl lane_sub_eq_wrap, hboth rfl rfl lane_mul_eq_wrap,
    hboth rfl rfl laneMin_eq_wrap, hboth rfl rfl laneMax_eq_wrap, hboth rfl rfl fun _ _ => rfl,
    hboth rfl rfl fun _ _ => rfl, hboth rfl rfl fun _ _ => rfl, hboth rfl rfl laneMulh_eq_wrap,
    hboth rfl rfl laneMulhU_eq_wrap, hboth rfl rfl laneMinU_eq_wrap, hboth rfl rfl laneMaxU_eq_wrap,
    hboth rfl rfl laneAddSat_eq_wrap, hboth rfl rfl laneSubSat_eq_wrap,
    hboth rfl rfl laneDiv_eq, hboth rfl rfl laneDivU_eq, hboth rfl rfl laneRem_eq, hboth rfl rfl laneRemU_eq,
    hboth rfl rfl laneShl_eq_wrap, hboth rfl rfl laneShr_eq_wrap, hboth rfl rfl laneSra_eq_wrap,
    lanesBecome_of_intLanes hx hfree rfl fun _ => lane_add_mul_eq_wrap ..,
    lanesBecome_of_intLanes hx hfreeA rfl fun _ => lane_add_mul_imm_eq_wrap ..,
    hone rfl laneAbs_eq_wrap, hone rfl lane_not_eq_wrap, hone rfl lanePopc_eq_wrap,
    fun x => leadingZeros 32 x.toNat, fun x => ⟨leadingZeros_le .., leadingZeros_bounds x.isLt⟩,
    hone rfl laneClz_eq_wrap⟩

end Sys2Proof.Machine
end
